-- ==== Sys2Proof/Word.lean ====
section
/-! DEFINITION. The plain words of the model: bytes, register words, sparse tables, and the little-endian reading of
byte lists (00_scope.md R12). -/

namespace Sys2Proof

/-- One byte of a structure, a packet or a memory. -/
abbrev Byte := BitVec 8

/-- One HCP register word (R52). -/
abbrev Word := BitVec 32

/-- A TIME_NS value (R421). -/
abbrev Ns := BitVec 64

/-- A sparse table: (index, value) pairs with strictly rising indices, no pair holding the table's default value. -/
abbrev SMap (α : Type) := List (Nat × α)

/-- Sparse bytes: an image or a device region, unlisted bytes being zero. -/
abbrev SparseBytes := SMap Byte

end Sys2Proof
end

