-- ==== Sys2Proof/Syntax.lean ====
section
/-! DEFINITION. The commands of the block: one constructor of `Instr` per row of spec/opcode_table.json, with what the
outside presents when the row's step happens (data returned, pins seen, the choice the ledger or the pool makes). -/

namespace Sys2Proof

/-- A ledger ECC finding at a read of an entry (R338). -/
inductive Ecc where
  | ok
  | single
  | double (entry : Nat)
  deriving DecidableEq, Repr

/-- A mismatch between the two copies of a queue pointer (R185): DIR egress, PTR write pointer. -/
structure Mismatch where
  egress : Bool
  wptr : Bool
  deriving DecidableEq, Repr

/-- What a grant meets while its schedule is dispatched and run: the eight S bytes each RDS step reads, the steps whose
parity fails (R305), an egress underrun (R182), a ledger ECC finding (R338) and a queue pointer mismatch (R185). -/
structure GrantIo where
  status : List (BitVec 64)
  bad : List Nat
  underrun : Option Nat
  ecc : Ecc
  mismatch : Option Mismatch
  deriving DecidableEq, Repr

/-- Which chain an HDP response belongs to: the chain of a command (named by its first context entry), or the source or
destination chain of the legacy copy (R136). -/
inductive ChainId where
  | cmd (ctx : Nat)
  | legSrc
  | legDst
  deriving DecidableEq, Repr

/-- What the serial device's SFDP tables advertise (R377): its modes; by mode (0 1-1-1, 1 1-1-4, 2 1-4-4, 3 8-8-8 DTR) the read
instruction, its dummy cycles, the enable sequence and whether it reads on without a command byte; the 4-byte instructions it
lists; the instructions for page program, 4 KiB erase, status, suspend and resume, and the status bits that show a suspension. -/
structure Sfdp where
  found : Bool
  octal : Bool
  quad144 : Bool
  quad114 : Bool
  reads : List Byte
  dummies : List Nat
  enables : List (List Byte)
  continuous : List Bool
  fourByte : Bool
  suspend : Bool
  programOp : Byte
  eraseOp : Byte
  statusOp : Byte
  suspendOp : Byte
  resumeOp : Byte
  suspendBits : Byte
  capacity : Nat
  deriving DecidableEq, Repr

/-- The kinds of decoder (R209). -/
inductive LaneKind where
  | hard
  | soft
  | bch
  deriving DecidableEq, Repr

/-- Why a decoder fault is found (R217 CAUSE). -/
inductive DecCause where
  | checker
  | parity
  deriving DecidableEq, Repr

/-- What the sweeps of a channel's training find (R252, R254): bit t of a word is 1 when tap or step t passes. `rd` and
`wr` hold, for each DQ 0-7, one word per counted CE and then that of the confirmation sweep (R254 step 6; log 119); `ok` is
false when step 1 finds no impedance code in range. -/
structure Sweep where
  ok : Bool
  rdVref : BitVec 64
  wrVref : BitVec 64
  dcc : BitVec 5
  tapStep : BitVec 8
  rd : List (List (BitVec 128))
  wr : List (List (BitVec 128))
  deriving DecidableEq, Repr

/-- The wake events of R414 that reach the core in Soak and Bank, in the coding of PWR_STATUS.WAKE_CAUSE (R427). -/
inductive Wake where
  | wakeIn
  | kickIn
  | relayLink
  | pspEvent
  | timeAlarm
  | core
  | hcp
  deriving DecidableEq, Repr

/-- A relay frame (R347, R348) less its CRC: the rows of good frames carry it checked. `info` is typed: every field
of R348 has its own place, zero where the TYPE does not use it. -/
structure RFrame where
  typ : Nat
  nak : Bool
  pred : Bool
  last : Bool
  seq : BitVec 12
  ack : BitVec 12
  bootHost : Word
  bootTarget : Word
  cmdCredit : BitVec 16
  dataCredit : BitVec 16
  src : BitVec 11
  hops : Nat
  cw : Byte
  entry : Nat
  gen : BitVec 16
  remain : Word
  status : Byte
  cflags : Byte
  iter : Nat
  refire : Nat
  decision : Nat
  cwOk : BitVec 4
  rows : BitVec 16
  doneCount : Nat
  failCw : Nat
  boot : Word
  size : Nat
  pers : Nat
  resume : Bool
  mask : Byte
  hold : Nat
  pair : Nat
  payload : List Byte
  deriving DecidableEq, Repr

/-- A PSP frame (R364) less SYNC and CRC. -/
structure PFrame where
  src : BitVec 11
  epoch : Word
  time : Ns
  tsrc : Bool
  listening : Bool
  deriving DecidableEq, Repr

/-- The commands, in the order of spec/opcode_table.json. Operands named `ctx`, `ix`, `pecks` name the free ledger
entries or free pecks taken, which the spec leaves to the allocator (log 8). -/
inductive Instr where
  -- resets and start-up
  | coldResetAssert
  | coldStart (straps : BitVec 11)
  | nvsStartScanEnd
  | serialDiscovery (sfdp : Sfdp) (opt0 opt1 : List Byte) (suspended : Bool)
  | slotSelection
  | imageLoadEnd (image : SparseBytes)
  | serialSectorReerase (sector : Nat)
  | wasterTableBuild
  | calibrationRestore
  | dieCheck (lun : Nat) (id : List Byte) (ext : Byte)
  | startTraining (pair : Nat)
  | startUpReady
  | warmResetAssert
  | warmResetDeassert (ecc : Ecc) (suspended : Bool)
  | aonReset
  | coreRailLoss
  -- HCP accesses
  | hcpAccessInReset (write : Bool) (off : BitVec 16) (data : Word)
  | hcpAccessInBank (write : Bool) (off : BitVec 16) (data : Word)
  | registerWrite (off : BitVec 16) (data : Word)
  | rcRegisterRead (off : BitVec 16)
  | timeCaptureRead (aon : Bool)
  | xipRead (off : BitVec 16)
  | xipWrite (off : BitVec 16) (data : Word)
  | xipLineArrival (line : List Byte)
  | xipBaseWrite (data : Word)
  | hifEnable (data : Word)
  | hifDisable (data : Word)
  | ringLoad (data : Word)
  | ringStop (data : Word)
  | ringTableData (ring : Nat) (entry : BitVec 512)
  | ringTableReadError (ring : Nat)
  | predInvalidate (data : Word)
  | predInvalidateAll (data : Word)
  | hifFaultClear (data : Word)
  -- doorbells and fetching
  | kickIn
  | pollTimerExpiry
  | sqPollExpiry (sq : Nat)
  | summarySwapData (bits : BitVec 256)
  | tailBlockData (block : Nat) (tails : List Word)
  | cqHeadData (block : Nat) (heads : List Word)
  | doorbellReadError
  | sqFetchRequest
  | ownMismatch (entry : BitVec 512)
  | sqReadError
  | unitEntryTaken (ctx : Nat) (ix : Nat) (ecc : Ecc)
  -- fetched commands
  | unknownOpcode (entry : BitVec 512) (ctx : List Nat)
  | read (entry : BitVec 512) (ctx : List Nat)
  | readScan (entry : BitVec 512) (ctx : List Nat)
  | readSherd (entry : BitVec 512) (ctx : List Nat)
  | readStream (entry : BitVec 512) (ctx : List Nat)
  | program (entry : BitVec 512) (ctx : List Nat)
  | programSlc (entry : BitVec 512) (ctx : List Nat)
  | fold (entry : BitVec 512) (ctx : List Nat)
  | erase (entry : BitVec 512) (ctx : List Nat)
  | raw (entry : BitVec 512) (ctx : List Nat)
  | cancel (entry : BitVec 512) (ctx : List Nat)
  | ringFence (entry : BitVec 512) (ctx : List Nat)
  | calibrate (entry : BitVec 512) (ctx : List Nat)
  | patrolNow (entry : BitVec 512) (ctx : List Nat)
  | nvsSync (entry : BitVec 512) (ctx : List Nat)
  | nop (entry : BitVec 512) (ctx : List Nat)
  -- predicates, chains and the host data port
  | predicateData (ctx : Nat) (bits : BitVec 1024)
  | predicateFetchError (ctx : Nat)
  | segmentDescriptorData (chain : ChainId) (desc : BitVec 256)
  | appendLinkData (chain : ChainId) (link : BitVec 64)
  | sourceDataReturn (chain : ChainId) (tag : Nat) (data : List Byte)
  | programPageLink (ix : Nat)
  | dataWriteAck (id : Nat)
  | chainBusError (chain : ChainId) (write : Bool) (tag : Nat)
  | chainResume
  | chainAbort
  | chainDisable
  | legacyStart (data : Word)
  | legacyResume (data : Word)
  | legacyAbort (data : Word)
  | legacyBusError (write : Bool) (tag : Nat)
  | streamPageAdmit (ctx : Nat) (ix : Nat)
  | consReadData (ctx : Nat) (cons high low : BitVec 64)
  | hdpResponseDiscard
  | hdpReissue
  -- completions
  | cqWrite (ctx : Nat)
  | cqWriteAck (cq : Nat)
  | cqWriteError (cq : Nat)
  | workItemTransfer
  | entryFree (ix : Nat)
  -- channel engines
  | urgencyPromotion (ix : Nat) (gen : BitVec 16)
  | arbiterDecision (ch : Nat) (io : GrantIo)
  | stepReloadDone (step : Nat) (content : BitVec 160)
  | arrayStartPinEnd (ch : Nat) (status : List (BitVec 64))
  | grantRelease (ch : Nat)
  | scheduleEnd (ch : Nat)
  | grantLimitExceeded (ch : Nat)
  | readyPollDue (lun : Nat)
  | patrolReadLink (lun : Nat) (ix : Nat)
  | runTimeExpiry (lun : Nat)
  | suspendWindowExpiry (lun : Nat)
  | mergeWindowExpiry (lun : Nat)
  | refireBackoffExpiry (lun : Nat)
  | patrolAccrual (lun : Nat)
  | temperatureReadDue (lun : Nat)
  | temperatureReading (lun : Nat) (t : Int)
  | relearnTimeout (lun : Nat)
  | thmDieTSample (code : BitVec 10)
  -- pool, queues and decoders
  | packetComplete (ch : Nat) (bytes : List Byte) (short : Bool) (mismatch : Option Mismatch)
  | flushTakesEffect (ch : Nat) (egress : Bool)
  | poolFlushIngress (data : Word)
  | poolFlushEgress (data : Word)
  | peckAllocationGrant (ch : Option Nat) (pecks : List Nat)
  | foldAdmission (lun : Nat) (pecks : List Nat)
  | decodeStart (kind : LaneKind)
  | hardDecodeEnd (kind : LaneKind) (lane : Nat) (fault : Option DecCause)
  | softDecodeEnd (lane : Nat) (fault : Option DecCause)
  | sherdDecodeEnd (lane : Nat) (fault : Option DecCause)
  | spareLaneInService (lane : Nat)
  | predicateDecision (ix : Nat) (gen : BitVec 16)
  | sampleApply
  -- training
  | trainingStart (pair : Nat)
  | trainingComplete (pair : Nat) (lo hi : Sweep)
  | trainingFail (pair : Nat) (lo hi : Sweep)
  | trainingTimeout (pair : Nat)
  -- NVS and the serial memory
  | nvsWriteDone (verified : Bool)
  | nvsRetryDue
  | snapshotStart
  | healthUpdateDue
  | spmProgram (data : Word)
  | spmErase (data : Word)
  | spmCommit (data : Word) (image : SparseBytes)
  | spmOpEnd (deviceOk : Bool)
  | spmSuspend
  | spmResume
  -- time and power
  | paceWindowEnd (crossings : Nat)
  | timeAlarmFire
  | timeCompensation
  | timeAonCorrection
  | soakEntry (wakeDuringPrepare : Bool) (refuses : Option Nat)
  | bankEntry
  | emberEntry
  | coldEntry
  | wakeEvent (cause : Wake)
  | watcherWake (cause : Wake)
  | pwrAckRise
  | sleepExitComplete
  | coldExitRestore
  | padRelease (data : Word)
  | wakeIn
  -- interrupts
  | irqSrcClr (data : Word)
  | irqPendWrite (hi : Bool) (data : Word)
  | irqMaskWrite (n : Nat) (hi : Bool) (data : Word)
  | wakeEnWrite (data : Word)
  -- relay
  | relayReadIdPoll (ch : Nat) (id : List Byte)
  | targetReadId (ch : Nat)
  | relayPullDue (ch : Nat) (rbLow : Bool)
  | relayHeartbeatDue (ch : Nat)
  | relayCommandFrame (ch : Nat) (f : RFrame) (ctx : List Nat)
  | relayDataFrame (ch : Nat) (f : RFrame)
  | relayCompletionFrame (ch : Nat) (f : RFrame)
  | relayCreditFrame (ch : Nat) (f : RFrame)
  | relayHeartbeatFrame (ch : Nat) (f : RFrame)
  | relayHelloFrame (ch : Nat) (f : RFrame)
  | relayTrainFrame (ch : Nat) (f : RFrame)
  | relayBadFrame (ch : Nat)
  | relayRetryTimeout (ch : Nat)
  | relayChannelSilent (ch : Nat)
  | relayLinkDown (ch : Nat)
  | trainHoldExpiry (ch : Nat)
  | relayHoldExpiry (ch : Nat)
  -- peer sync port
  | pspMemberDue
  | pspTimeDue
  | pspMemberFrame (f : PFrame)
  | pspTimeFrame (f : PFrame) (local_ : Ns)
  | pspBadFrame
  | pspMemberTimeout (id : Nat)
  | pspListenEnd
  -- test access port
  | jtagReset
  | jtagBypass (tdi : Bool)
  | jtagIdcode
  | jtagSamplePreload (pins preload : List Bool)
  | jtagExtest (pins shift : List Bool)
  -- acknowledges and polls listed last in the table
  | segmentWriteBackAck (id : Nat)
  | serialStatusPoll (busy suspended : Bool)
  | spmBufferData (data : List Byte) (error : Bool)
  | relayTransferEnd (ch : Nat) (rbLow : Bool)
  | targetPull (ch : Nat)
  | targetTrainingCommand (ch : Nat) (sweep : Sweep)
  | pspSyncLapse
  | hcpAccessInSleep (write : Bool) (off : BitVec 16) (data : Word)
  deriving DecidableEq, Repr

end Sys2Proof
end

