-- ==== Sys2Proof/Machine/Bits.lean ====
section
/-! DEFINITION. Bit fields, little-endian byte strings (R12) and the small arithmetic that every family shares. -/

namespace Sys2Proof

/-- Bit `i` of a word. -/
abbrev bit {n : Nat} (w : BitVec n) (i : Nat) : Bool := w.getLsbD i

/-- The field of `len` bits from bit `lo`, as a number. -/
def fld {n : Nat} (w : BitVec n) (lo len : Nat) : Nat := (w.toNat >>> lo) % 2 ^ len

/-- `w` with the field of `len` bits from bit `lo` replaced. -/
def setFld {n : Nat} (w : BitVec n) (lo len v : Nat) : BitVec n :=
  BitVec.ofNat n (w.toNat - (fld w lo len <<< lo) + ((v % 2 ^ len) <<< lo))

/-- A register word put together from (lowest bit, value) pairs. -/
def word32 (fs : List (Nat × Nat)) : Word := BitVec.ofNat 32 (fs.foldl (fun a f => a + (f.2 <<< f.1)) 0)

/-- The number that a little-endian byte string spells (R12). -/
def leNat : List Byte → Nat
  | [] => 0
  | b :: r => b.toNat + 256 * leNat r

/-- `v` as `len` little-endian bytes. -/
def leBytes : Nat → Nat → List Byte
  | 0, _ => []
  | len + 1, v => BitVec.ofNat 8 v :: leBytes len (v / 256)

/-- `len` bytes of a string from offset `off`. -/
def slice (bs : List Byte) (off len : Nat) : List Byte := (bs.drop off).take len

/-- The little-endian number in `len` bytes at offset `off`. -/
def num (bs : List Byte) (off len : Nat) : Nat := leNat (slice bs off len)

/-- `n` zero bytes. -/
def zeros (n : Nat) : List Byte := List.replicate n 0

/-- A string cut or zero-filled to `n` bytes. -/
def pad (n : Nat) (bs : List Byte) : List Byte := bs.take n ++ zeros (n - bs.length)

/-- `old` with `new` written over it at offset `off`, zero-filled up to there. -/
def overlay (old : List Byte) (off : Nat) (new : List Byte) : List Byte :=
  pad off old ++ new ++ old.drop (off + new.length)

/-- Add one, holding at `top`. -/
def satInc (top n : Nat) : Nat := if n < top then n + 1 else n

/-- An integer held between two bounds. -/
def clampInt (lo hi x : Int) : Int := if x < lo then lo else if hi < x then hi else x

/-- The bits set in the first `n` places of a word, lowest first. -/
def bitsOf (n w : Nat) : List Nat := (List.range n).filter (fun i => w.testBit i)

/-- How many of the first `n` bits are set. -/
def popCount (n w : Nat) : Nat := (bitsOf n w).length

/-- Place of `x` in a list. -/
def indexIn (x : Nat) (l : List Nat) : Nat := l.idxOf x

/-- The first element of a circular search: `ok` tried at `start`, `start + 1`, … modulo `n`. -/
def rrFind (n start : Nat) (ok : Nat → Bool) : Option Nat :=
  ((List.range n).map (fun i => (start + i) % n)).find? ok

end Sys2Proof
end

