-- ==== Sys2Proof/Machine/Codec.lean ====
section
/-! DEFINITION. The codec as functions of bytes: CRC-32C and tags (R194, R195), the randomiser (R197, R198), the LDPC
code and its decoders (R200-R208), the sherd's BCH code (R211-R213). -/

namespace Sys2Proof.Codec

/-! ## CRC-32C (R195) -/

/-- One bit of the reflected CRC register. -/
def crcBit (c : BitVec 32) : BitVec 32 := if bit c 0 then (c >>> 1) ^^^ 0x82F63B78#32 else c >>> 1

/-- One byte of the CRC. -/
def crcByte (c : BitVec 32) (b : Byte) : BitVec 32 :=
  (List.range 8).foldl (fun c _ => crcBit c) (c ^^^ b.setWidth 32)

/-- CRC-32C: polynomial 0x1EDC6F41 reflected, initial value and final XOR 0xFFFFFFFF. -/
def crc32c (bs : List Byte) : BitVec 32 := bs.foldl crcByte 0xFFFFFFFF#32 ^^^ 0xFFFFFFFF#32

/-! ## The tag (R194, R195) -/

/-- ADDR_CHECK of a codeword: CRC-32C of its flash address with INSTANCE zero and CODEWORD set. -/
def addrCheck (a : BitVec 64) (cw : Nat) : BitVec 32 := crc32c (leBytes 8 (setFld (setFld a 53 11 0) 12 2 cw).toNat)

/-- The 8-byte tag. -/
def tagBytes (a : BitVec 64) (cw wseq flags : Nat) : List Byte :=
  leBytes 4 (addrCheck a cw).toNat ++ leBytes 2 wseq ++ leBytes 2 flags

/-! ## The randomiser (R197, R198) -/

/-- One step of the 31-bit register. -/
def rndStep (s : BitVec 31) : BitVec 31 := (s <<< 1) ||| BitVec.ofNat 31 (bit s 30 ^^ bit s 27).toNat

/-- The next output byte, bit 0 first, and the register after it. -/
def rndByte (s : BitVec 31) : Byte × BitVec 31 :=
  (List.range 8).foldl (fun q m =>
    let n := rndStep q.2
    (q.1 ||| BitVec.ofNat 8 ((n.toNat % 2) <<< m), n)) (0, s)

/-- XOR bytes with the sequence of a seed. -/
def randomise : BitVec 31 → List Byte → List Byte
  | _, [] => []
  | s, b :: r => let q := rndByte s; (b ^^^ q.1) :: randomise q.2 r

/-- The seed of a region (R198). -/
def seed (page block plane cw : Nat) : BitVec 31 :=
  let n := (page * 0x9E3779B1 + block * 0x85EBCA6B + cw + plane * 0x400) % 2 ^ 31
  BitVec.ofNat 31 (if n = 0 then 1 else n)

/-! ## The LDPC code (R200-R202) -/

/-- The 192-bit block columns that a byte string holds, 24 bytes each (R200). -/
def blockCols : Nat → List Byte → List (BitVec 192)
  | 0, _ => []
  | n + 1, bs => BitVec.ofNat 192 (leNat (bs.take 24)) :: blockCols n (bs.drop 24)

/-- s(i, j) of R201. -/
def shift (i j : Nat) : Nat := (13 * i * (2 * j + 1) + 29 * j) % 192

/-- The nonzero blocks of row block `i`, as (block column, shift) (R201). -/
def rowBlocks (i : Nat) : List (Nat × Nat) :=
  ((List.range 171).filter (fun j => j % 5 == i % 5)).map (fun j => (j, shift i j)) ++
    (if i = 0 then [(171, 1)] else if i = 10 then [(171, 0)] else if i = 19 then [(171, 1)] else []) ++
    ((List.range 18).filter (fun t => i == t + 1 || i == t + 2)).map (fun t => (172 + t, 0)) ++
    (if i = 19 then [(190, 0)] else [])

/-- Bit a of the result is bit (a + s) mod 192 of the column. -/
def rot (c : BitVec 192) (s : Nat) : BitVec 192 := c.rotateRight s

/-- λ_i of R202, over the information columns. -/
def lambda (cols : List (BitVec 192)) (i : Nat) : BitVec 192 :=
  ((cols.take 171).zip (List.range 171)).foldl (fun a q =>
    if q.2 % 5 = i % 5 then a ^^^ rot q.1 (shift i q.2) else a) 0

/-- The parity blocks p0 to p19 (R202). -/
def parityBlocks (cols : List (BitVec 192)) : List (BitVec 192) :=
  let p0 := (lambda cols 0).rotateLeft 1
  let run := (List.range 18).foldl (fun (a : BitVec 192 × List (BitVec 192)) k =>
    let t := k + 1
    let p := if t = 1 then lambda cols 1 else lambda cols t ^^^ a.1 ^^^ (if t = 10 then p0 else 0)
    (p, a.2 ++ [p])) (0, [])
  p0 :: run.2 ++ [lambda cols 19 ^^^ lambda cols 0 ^^^ run.1]

/-- The 4,584 bytes of a codeword: 4,096 data bytes, the tag, the parity (R193, R202). -/
def encode (dataTag : List Byte) : List Byte :=
  dataTag ++ ((parityBlocks (blockCols 171 dataTag)).map (fun p => leBytes 24 p.toNat)).flatten

/-- H·c = 0 (R201). -/
def syndromeZero (cols : List (BitVec 192)) : Bool :=
  (List.range 20).all (fun i =>
    (rowBlocks i).foldl (fun a q => a ^^^ rot ((cols[q.1]?).getD 0) q.2) (0 : BitVec 192) == 0)

/-! ## Decoding (R206-R208) -/

/-- A value held to ±b. -/
def sat (b : Int) (x : Int) : Int := clampInt (-b) b x

/-- sign(0) is +1. -/
def sgn (x : Int) : Int := if x < 0 then -1 else 1

/-- The message to the `k`-th edge of a check: the smallest magnitude of the others less the offset, with the product of
their signs. -/
def checkMsg (offset : Nat) (ts : List Int) (k : Nat) : Int :=
  let o := ts.eraseIdx k
  let m := match (o.map Int.natAbs).min? with
    | some m => m
    | none => 0
  (o.foldl (fun g t => g * sgn t) 1) * ((m - offset : Nat) : Int)

/-- What a decode works on: Q of each bit, and E of each edge, numbered row block by row block, check by check. -/
structure Work where
  q : Array Int
  e : Array Int

/-- The bit of block column `j` that a check of shift `s` meets. -/
def bitAt (a : Nat) (b : Nat × Nat) : Nat := 192 * b.1 + (a + b.2) % 192

/-- Check `a` of a row block whose edges begin at `base`. -/
def checkStep (satT satQ : Int) (offset : Nat) (blocks : List (Nat × Nat)) (base : Nat) (w : Work) (a : Nat) : Work :=
  let at_ := base + a * blocks.length
  let ts := (blocks.zip (List.range blocks.length)).map (fun b =>
    sat satT (w.q.getD (bitAt a b.1) 0 - w.e.getD (at_ + b.2) 0))
  ((blocks.zip ts).zip (List.range blocks.length)).foldl (fun w b =>
    let e := checkMsg offset ts b.2
    { q := w.q.setIfInBounds (bitAt a b.1.1) (sat satQ (b.1.2 + e)), e := w.e.setIfInBounds (at_ + b.2) e }) w

/-- One iteration: the twenty layers in order. -/
def iteration (satT satQ : Int) (offset : Nat) (w : Work) : Work :=
  ((List.range 20).foldl (fun (p : Work × Nat) i =>
    let bl := rowBlocks i
    ((List.range 192).foldl (checkStep satT satQ offset bl p.2) p.1, p.2 + 192 * bl.length)) (w, 0)).1

/-- x[v] = 1 where Q[v] < 0, as block columns. -/
def hardBits (q : Array Int) : List (BitVec 192) :=
  (List.range 191).map (fun j =>
    BitVec.ofNat 192 ((List.range 192).foldl (fun n a => if q.getD (192 * j + a) 0 < 0 then n + 2 ^ a else n) 0))

/-- Iterate until the syndrome is zero or the limit: the iterations run, and the word where it passed. -/
def iterate (satT satQ : Int) (offset : Nat) : Nat → Nat → Work → Nat × Option (List (BitVec 192))
  | 0, n, _ => (n, none)
  | k + 1, n, w =>
    let w := iteration satT satQ offset w
    let x := hardBits w.q
    if syndromeZero x then (n + 1, some x) else iterate satT satQ offset k (n + 1) w

/-- Number of edges of H. -/
def edges : Nat := 192 * ((List.range 20).map (fun i => (rowBlocks i).length)).sum

/-- The 4,584 bytes of block columns. -/
def colBytes (cols : List (BitVec 192)) : List Byte := (cols.map (fun c => leBytes 24 c.toNat)).flatten

/-- A decode of channel values: iterations, and the corrected codeword where it passed. -/
def decode (satT satQ : Int) (offset limit : Nat) (l : Array Int) : Nat × Option (List Byte) :=
  let r := iterate satT satQ offset limit 0 { q := l, e := Array.replicate edges 0 }
  (r.1, r.2.map colBytes)

/-- Bits of a byte string, lowest first. -/
def bitsOfBytes (bs : List Byte) : List Bool := (bs.map (fun b => (List.range 8).map (fun m => bit b m))).flatten

/-- Channel values of a hard decode (R206). -/
def hardValues (mag : Nat) (bs : List Byte) : Array Int :=
  ((bitsOfBytes bs).map (fun b => if b then -(mag : Int) else (mag : Int))).toArray

/-- Channel values of a soft decode from S−, S0 and S+ (R207, R228): `map` gives PAT_j, `mags` SOFT_M0 to SOFT_M3. -/
def softValues (map : Nat → Nat) (mags : Nat → Nat) (lo mid hi : List Byte) : Array Int :=
  (((bitsOfBytes lo).zip ((bitsOfBytes mid).zip (bitsOfBytes hi))).map (fun b =>
    let p := map (4 * b.1.toNat + 2 * b.2.1.toNat + b.2.2.toNat)
    let m : Int := mags (p % 4)
    if p / 4 % 2 = 1 then -m else m)).toArray

/-- Raw zero bits of a string (R204). -/
def zeroBits (bs : List Byte) : Nat := (bs.map (fun b => 8 - popCount 8 b.toNat)).sum

/-! ## GF(2^10) and the BCH code (R211-R213) -/

/-- Multiplication by α, modulo x^10 + x^3 + 1. -/
def gfTimesA (a : Nat) : Nat := if 512 ≤ a then (2 * a) ^^^ 0x409 else 2 * a

/-- Multiplication in GF(2^10). -/
def gfMul (a b : Nat) : Nat :=
  ((List.range 10).foldl (fun (p : Nat × Nat) i => (if b.testBit i then p.1 ^^^ p.2 else p.1, gfTimesA p.2)) (0, a)).1

/-- α^i. -/
def gfPow (i : Nat) : Nat := (List.range (i % 1023)).foldl (fun a _ => gfTimesA a) 1

/-- A power of an element. -/
def gfExp (a : Nat) : Nat → Nat
  | 0 => 1
  | n + 1 => gfMul a (gfExp a n)

/-- The inverse of a nonzero element: a^1022. -/
def gfInv (a : Nat) : Nat := gfExp a 1022

/-- The exponents i · 2^k mod 1023, without repetition. -/
def cycloClass (i : Nat) : List Nat := ((List.range 10).map (fun k => i * 2 ^ k % 1023)).eraseDups

/-- A polynomial over GF(2^10), constant term first, times (x + a). -/
def polyTimes (p : List Nat) (a : Nat) : List Nat :=
  ((p.map (gfMul a) ++ [0]).zip (0 :: p)).map (fun (q : Nat × Nat) => q.1 ^^^ q.2)

/-- The minimal polynomial of α^i, as bits. -/
def minPoly (i : Nat) : Nat :=
  let p := (cycloClass i).foldl (fun p c => polyTimes p (gfPow c)) [1]
  (p.zip (List.range p.length)).foldl (fun n q => if q.1 = 0 then n else n + 2 ^ q.2) 0

/-- Carry-less product of two polynomials over GF(2). -/
def clMul (a b : Nat) : Nat := (bitsOf 256 b).foldl (fun n i => n ^^^ (a <<< i)) 0

/-- g(x) of R211, of degree 185: the minimal polynomials of α^1, α^3, …, α^37 are distinct. -/
def generator : Nat := (List.range 19).foldl (fun g k => clMul g (minPoly (2 * k + 1))) 1

/-- Remainder modulo g(x): bits of the dividend from the highest degree down. -/
def bchRem (bits : List Bool) : Nat :=
  bits.foldl (fun r b =>
    let r := 2 * r + b.toNat
    if r.testBit 185 then r ^^^ generator else r) 0

/-- The 24 parity bytes of a 72-byte payload (R212): parity bit q is the coefficient of x^(184 − q). -/
def bchParity (payload : List Byte) : List Byte :=
  let r := bchRem (bitsOfBytes payload ++ List.replicate 185 false)
  leBytes 24 ((List.range 185).foldl (fun n q => if r.testBit (184 - q) then n + 2 ^ q else n) 0)

/-- The 96 bytes of a sherd packet before randomisation (R203). -/
def sherdPacket (payload : List Byte) : List Byte := payload ++ bchParity payload

/-- The 761 received bits, that of x^760 first (R212). -/
def bchBits (bs : List Byte) : List Bool := bitsOfBytes (slice bs 0 72) ++ (bitsOfBytes (slice bs 72 24)).take 185

/-- Syndrome S_j. -/
def syndrome (bits : List Bool) (j : Nat) : Nat :=
  let a := gfPow j
  bits.foldl (fun s b => gfMul s a ^^^ b.toNat) 0

/-- Sum of two polynomials, constant term first. -/
def polyAdd : List Nat → List Nat → List Nat
  | [], q => q
  | p, [] => p
  | a :: p, b :: q => (a ^^^ b) :: polyAdd p q

/-- Berlekamp–Massey: the locator Λ, constant term first. The state is (Λ, B, L, m, b). -/
def locator (syn : List Nat) : List Nat :=
  let step (w : List Nat × List Nat × Nat × Nat × Nat) (n : Nat) : List Nat × List Nat × Nat × Nat × Nat :=
    let (q, b, l, m, d0) := w
    let d := (List.range (l + 1)).foldl (fun x i => x ^^^ gfMul ((q[i]?).getD 0) (if i ≤ n then (syn[n - i]?).getD 0 else 0)) 0
    if d = 0 then (q, b, l, m + 1, d0)
    else
      let t := polyAdd q ((List.replicate m 0 ++ b).map (gfMul (gfMul d (gfInv d0))))
      if 2 * l ≤ n then (t, q, n + 1 - l, 1, d) else (t, b, l, m + 1, d0)
  ((List.range syn.length).foldl step ([1], [1], 0, 1, 1)).1

/-- Degree of a polynomial. -/
def degree (p : List Nat) : Nat := (p.reverse.dropWhile (· == 0)).length - 1

/-- Value of a polynomial at a point. -/
def evalAt (p : List Nat) (x : Nat) : Nat := p.foldr (fun c v => gfMul v x ^^^ c) 0

/-- The positions 0-760 that are in error: α^(−p) is a root of the locator. -/
def errorPlaces (p : List Nat) : List Nat := (List.range 761).filter (fun k => evalAt p (gfPow (1023 - k)) == 0)

/-- The 96 bytes of a sherd as corrected, payload and parity, or none where it is uncorrectable (R213). -/
def bchDecode (bs : List Byte) : Option (List Byte) :=
  let bits := bchBits bs
  let syn := (List.range 38).map (fun j => syndrome bits (j + 1))
  if syn.all (· == 0) then some (slice bs 0 96)
  else
    let l := locator syn
    let at_ := errorPlaces l
    if degree l ≤ 19 ∧ at_.length = degree l then
      let fixed := (bits.zip (List.range 761)).map (fun b => b.1 != at_.contains (760 - b.2))
      let rest := (bitsOfBytes (slice bs 72 24)).drop 185
      some (leBytes 96 (((fixed ++ rest).zip (List.range 768)).foldl (fun n b => if b.1 then n + 2 ^ b.2 else n) 0))
    else none

end Sys2Proof.Codec
end

