-- ==== Sys2Proof/Config.lean ====
section
/-! DEFINITION. What the spec leaves open as a value: an opaque constant, so that nothing can be proved of its values. -/

namespace Sys2Proof.Config

/-- A free value (log 7): applied to the counter State.freeCtr, so that each draw is independent of the others. It
supplies the counts that R133 and R466 bound but do not fix. -/
opaque freeValue : Nat → BitVec 64

/-- Whether a mean of R238 that is no whole number of 1/16 is shown rounded up: the spec states no rounding (log 14). -/
opaque meanRoundsUp : Nat → Nat → Bool

end Sys2Proof.Config
end

