-- ==== Sys2Proof/Machine/State.lean ====
section
/-! DEFINITION. The state of the block as plain data, its reset value, and the reasons a step can stop.
Sub-structures follow the blocks of the register map (18_register_map.md R449); register words that software reads
and writes whole are bit vectors, everything else is typed. Tables are sparse maps (`SMap`) without default entries. -/

namespace Sys2Proof.Machine

/-! ## Codes -/

/-- Completion statuses (R101). -/
inductive Status where
  | ok | okSoft | skipped | uncorrectable | erasedPage | tagMismatch | programFail | eraseFail | crazedBlock
  | waster | cancelled | cancelTooLate | channelFenced | relayLost | routeUnknown | busError | foldTorn
  | spmConflict | invalidDescriptor
  deriving DecidableEq, Repr

/-- Ledger states of a unit entry (R316); FREE is absence from the table. -/
inductive UState where
  | fetched | queued | issued | onDie | data | decoding | dma | done | parked | cancelled
  deriving DecidableEq, Repr

/-- KIND of a unit entry (R315). -/
inductive UKind where
  | read | readScan | readSherd | readStream | program | programSlc | fold | erase | raw | patrol | internal
  deriving DecidableEq, Repr

/-- Power states (R408). -/
inductive PowerState where
  | fire | soak | bank | ember | cold
  deriving DecidableEq, Repr

/-- Opcodes with a row of their own (R95). -/
inductive Op where
  | read | readScan | readSherd | readStream | program | programSlc | fold | erase | raw | cancel | ringFence
  | calibrate | patrolNow | nvsSync | nop | unknown
  deriving DecidableEq, Repr

/-- Grant kinds (R144), with the settings of read levels, the temperature read, RAW and the die reset of R322 set apart. -/
inductive GrantKind where
  | readStart | readData | program | erase | poll | suspend | resume | levels | temperature | raw | reset
  deriving DecidableEq, Repr

/-- Arbitration classes in order of precedence (R145). -/
inductive Cls where
  | urgent | read | program | erase
  deriving DecidableEq, Repr

/-- What a replayed unit still waits for on its die (R322, R323): nothing, a status read that counts only if it finds the
LUN busy, a status read that a die reset has made worthless, or a die reset and a new data-in. -/
inductive ReplayWait where
  | none | status | lost | reset
  deriving DecidableEq, Repr

/-- Progress of a unit's own markers (R27, R153, R154). -/
inductive MarkState where
  | none | startAsked | started | endAsked | ended
  deriving DecidableEq, Repr

/-! ## Ledger -/

/-- A unit entry (R315) with the unit's progress. `sel` are the selected codewords, `pend` those the present read step
still has to move or decode, `place` whether the page takes a place in the stream (R96), `won` that it has won issue (R108), `chan` the
channel its pecks are charged to, `dmaLeft` the bytes
of each codeword not yet acknowledged (destination) or returned (source), `linkPos` the first link
position and `again` the order in which it was placed again (R142, R143), `sherds` the sherds of a FOLD's sources by
source (R154), `raws` the raw zero counts of the codewords that the present read has brought (R204, R230), `sherd` the
outcome of the page's sherd (R213), `sense` the present sense of a soft step (3: chosen and not yet begun, R226), `warm` that a
warm reset has replayed the entry (R182), `relaySent` that a relayed unit's DATA frames have been queued, `relayDone` that its
COMPLETION frame has been accepted (R354), `relayNext` the packets of a host-to-die RAW queued as DATA frames (R351), `softMap` the soft map in force since its soft step began (R228), `hardSum` and
`hardCws` the hard iterations and codewords that step 0 of the present read has decoded (R238). -/
structure LUnit where
  st : UState
  gen : BitVec 16
  kind : UKind
  ctx : Option Nat
  fetched : Ns
  pos : Nat
  addr : BitVec 64
  sel : BitVec 4
  cwOk : BitVec 4
  pend : BitVec 4
  erased : BitVec 4
  failed : List (Nat × Status)
  dec : Nat
  decided : Bool
  rows : BitVec 16
  step : Nat
  stepMax : Nat
  sense : Nat
  src : Nat
  conf : Bool
  suspSent : Bool
  replayed : Bool
  urgent : Bool
  order : Bool
  merged : Bool
  passes : Nat
  iter : Nat
  soft : Bool
  status : Status
  failCw : Nat
  linkPos : Option Nat
  again : Nat
  place : Option Bool
  chan : Nat
  pecks : List Nat
  pecksAsked : Bool
  dmaLeft : List (Nat × Nat)
  dmaDone : Bool
  mark : MarkState
  contested : Bool
  won : Bool
  bundle : Option Nat
  replay : ReplayWait
  recPos : Option (BitVec 64)
  recTime : Word
  recSent : Bool
  sherds : List (Nat × List Byte)
  raws : List (Nat × Nat)
  sherd : Option Status
  warm : Bool
  relaySent : Bool
  relayDone : Bool
  relayNext : Nat
  softMap : Word
  hardSum : Nat
  hardCws : Nat
  deriving DecidableEq, Repr

/-- Where a command taken over a relay bundle came from (R355): the bundle, the upstream entry and GEN, HOPS. -/
structure Origin where
  bundle : Nat
  entry : Nat
  gen : BitVec 16
  hops : Nat
  deriving DecidableEq, Repr

/-- A command's five context entries (R314): the SQ entry, the units taken so far in unit order, how many are still to
be taken at fetch, the command's own outcome where it has no units or belongs to the whole command (R99), for a relay
owner's command what a link loss has made of its result (R362: 0 nothing, 1 RETRACT, 2 RELAY_LOST), and for a CALIBRATE
that its training took new values (R237). -/
structure Cmd where
  op : Op
  raw : BitVec 512
  sq : Nat
  pos : Word
  cq : Nat
  gen : BitVec 16
  ixs : List Nat
  units : List Nat
  want : Nat
  fetched : Ns
  deadline : Nat
  seq : Nat
  whole : Option Status
  doneCount : Option Nat
  stage : Nat
  asked : Nat
  pred : Option (BitVec 1024)
  predWait : Bool
  stopped : Bool
  cqPos : Option Word
  cqBytes : List Byte
  acked : Bool
  origin : Option Origin
  flowWait : Bool
  loss : Nat
  trained : Bool
  savedD : Int
  deriving DecidableEq, Repr

/-- A waster-table entry (R333). -/
structure Waster where
  lun : Nat
  plane : Nat
  block : Nat
  cause : Nat
  grown : Bool
  consolidated : Bool
  deriving DecidableEq, Repr

/-- A block or wordline location: a crazed block, or a torn wordline (R330). -/
structure Loc where
  lun : Nat
  plane : Nat
  block : Nat
  page : Nat
  deriving DecidableEq, Repr

/-- The ledger (13_ledger_faults_and_replay.md). -/
structure Ldg where
  units : SMap LUnit
  cmds : SMap Cmd
  gens : SMap (BitVec 16)
  nextSeq : Nat
  nextLink : Nat
  nextAgain : Nat
  halted : Bool
  replaying : Bool
  replayCnt : Word
  unknownCnt : Word
  staleCnt : Word
  faultValid : Bool
  corr : Nat
  faultIndex : Nat
  wasters : List Waster
  wasterFull : Bool
  nvRecords : Nat
  crazed : List Loc
  torn : List Loc
  recovCrazed : List Loc
  recovTorn : List Loc
  overflow : Nat
  recovSel : BitVec 13
  peek : BitVec 19
  deriving DecidableEq, Repr

/-! ## Host data port -/

/-- Why an HDP read was issued. -/
inductive RdWhat where
  | ring (i : Nat) | swap | tails (block : Nat) | heads (block : Nat) | sq (q : Nat) | pred (ctx : Nat)
  | seg (c : ChainId) | link (c : ChainId) | cons (ctx : Nat) | src (c : ChainId) (ix off len skip : Nat)
  | spmBuf (off len : Nat) | gone
  deriving DecidableEq, Repr

/-- Why an HDP write was issued. `cqe` names the command; `data` the unit and codeword (4 for a sherd record); `record` the
unit and the offset within its stream record; `gone` a write of a legacy copy that an ABORT has ended (R136). -/
inductive WrWhat where
  | cqe (ctx : Nat) | data (ctx ix cw : Nat) | record (ctx ix off : Nat) | segStatus (c : ChainId) (seg : Nat) | segFlags (c : ChainId) (seg : Nat)
  | stream (ctx : Nat) | bitmap (ctx : Nat) | legData | gone
  deriving DecidableEq, Repr

/-- An HDP read request (R54): `tag` is HDP_RQ_ID, given as the request is issued, `seq` the place of
its first issue in the order of issue (R131), 0 before it. -/
structure HdpRd where
  what : RdWhat
  tag : Nat
  seq : Nat
  addr : Nat
  size : Nat
  coherent : Bool
  urg : Nat
  deriving DecidableEq, Repr

/-- An HDP write (R54): the enabled bytes, within one host line; `seq` as of a read. -/
structure HdpWr where
  what : WrWhat
  seq : Nat
  addr : Nat
  bytes : List Byte
  id : Nat
  coherent : Bool
  urg : Nat
  deriving DecidableEq, Repr

/-- The HDP front end: transactions outstanding in issue order, accesses held back until the earlier transactions have
drained (R58, R473), the count of those earlier transactions, and the place of the next request in the order of issue. -/
structure Hdp where
  reads : List HdpRd
  writes : List HdpWr
  heldReads : List HdpRd
  heldWrites : List HdpWr
  blocked : Bool
  drain : Nat
  nextSeq : Nat
  deriving DecidableEq, Repr

/-! ## Host interface -/

/-- A submission ring (R80-R92). `notYet` marks a slot read with the wrong OWN, `expired` that its POLL_PERIOD has elapsed
since the last tail read and has asked for a cycle (R89); `fence` an open RING_FENCE. -/
structure Sq where
  en : Bool
  base : Nat
  log2 : Nat
  bind : Nat
  coherent : Bool
  flowOrder : Bool
  latTarget : Nat
  pollOvr : Bool
  pollPeriod : Nat
  head : Word
  tail : Word
  polled : Ns
  expired : Bool
  notYet : Bool
  fence : Option Nat
  deriving DecidableEq, Repr

/-- A completion ring (R80-R100). -/
structure Cq where
  en : Bool
  base : Nat
  log2 : Nat
  coherent : Bool
  notify : BitVec 2
  tail : Word
  head : Word
  held : Bool
  deriving DecidableEq, Repr

/-- A doorbell cycle in progress (R88): its SQs, whether the swap is outstanding, the blocks still awaited, and whether the SUMMARY
showed new work (R410). -/
structure Cycle where
  polls : List Nat
  all : Bool
  swap : Bool
  tails : List Nat
  heads : List Nat
  found : Bool
  deriving DecidableEq, Repr

/-- A scheduler-port item (R106). -/
structure Item where
  flow : BitVec 24
  item : BitVec 128
  deriving DecidableEq, Repr

/-- The HIF block (04_rings_and_descriptors.md). `predStale` are the commands whose predicate fetch an invalidation has
overtaken: their answers are not cached (R103); `stopping` that the action which keeps BUSY at 1 is a STOP, which waits for the
fetch already requested (R82). -/
structure Hif where
  cfg : Word
  restart : BitVec 16
  ready : Bool
  ringTable : BitVec 57
  db : BitVec 57
  predBase : BitVec 57
  poll : BitVec 17
  cmdBusy : Bool
  cmdErr : Bool
  cmdRing : BitVec 8
  faultValid : Bool
  faultKind : BitVec 2
  faultRing : BitVec 8
  faultAddr : BitVec 57
  probes : Word
  skips : Word
  forced : Word
  checks : Word
  sqs : SMap Sq
  cqs : SMap Cq
  tableWait : List Nat
  tableGot : SMap (BitVec 512)
  tableAll : Bool
  enableDue : Bool
  cycle : Option Cycle
  again : Bool
  againPolls : List Nat
  againAll : Bool
  pollFrom : Ns
  fetch : Option (Nat × Word)
  lastSq : Nat
  waiting : Option Nat
  preds : List (Nat × BitVec 1024)
  predStale : List Nat
  stopping : Bool
  items : List Item
  cqRetry : List HdpWr
  deriving DecidableEq, Repr

/-! ## Chains -/

/-- A segment descriptor read (R117): its stream offset `base`, the bytes moved, the bytes accounted for (moved, or known
never to be written, R96), and how far its write-back has come (0 not issued, 1 STATUS issued, 2 FLAGS issued). -/
structure Seg where
  addr : Nat
  link : BitVec 64
  buf : Nat
  len : Nat
  flags : Word
  base : Nat
  moved : Nat
  acc : Nat
  back : Nat
  deriving DecidableEq, Repr

/-- Bytes of one unit and codeword at an offset within the unit's place in the stream (R119). For a destination `bytes`
holds them, or is empty where they are never to be written; for a source it is empty and the bytes are wanted. -/
structure Deliver where
  ix : Nat
  cw : Nat
  off : Nat
  len : Nat
  bytes : List Byte
  deriving DecidableEq, Repr

/-- A failed chain access (R130, R131). -/
inductive Failed where
  | rd (r : HdpRd)
  | wr (w : HdpWr)
  deriving DecidableEq, Repr

/-- A stream's control state (R127, R128). `fixed` is the stream position up to which records have been placed,
`admitted` the bytes of admitted pages whose records have not yet been placed, `again` that the CONS read which confirms a
pause is to follow one that is still outstanding. -/
structure Stream where
  wrap : Nat
  ctrl : Nat
  prod : BitVec 64
  cons : BitVec 64
  high : BitVec 64
  low : BitVec 64
  fixed : BitVec 64
  known : Bool
  paused : Bool
  confirming : Bool
  again : Bool
  ended : Bool
  addr : BitVec 64
  left : Nat
  admitted : Nat
  seg : Nat
  flags : Word
  asking : Bool
  deriving DecidableEq, Repr

/-- The shape walk of a program chain (R121): the page, the data bytes of it seen, whether its sherd has been seen. -/
structure Walk where
  page : Nat
  data : Nat
  sherd : Bool
  deriving DecidableEq, Repr

/-- A data chain (05_data_chains_and_host_port.md). `next` is the descriptor to read next, `reading` that its read or the
re-read of a link is outstanding, `ownWait` a descriptor that had OWN = 0, `park` the segment whose link it waits on,
`base` the stream offset at which the next segment begins,
`reach` the stream length the command has called for so far. -/
structure Chain where
  head : Nat
  segs : List Seg
  next : Option Nat
  reading : Bool
  ownWait : Option Nat
  park : Option Nat
  ended : Bool
  short : Bool
  base : Nat
  reach : Nat
  todo : List Deliver
  halted : Bool
  failed : List Failed
  walk : Option Walk
  shaped : Bool
  closing : Bool
  bitmapSent : Bool
  stream : Option Stream
  aborted : Bool
  deriving DecidableEq, Repr

/-- The legacy copy (R136, R140). -/
structure Legacy where
  src : BitVec 57
  dst : BitVec 57
  coherent : Bool
  busy : Bool
  done : Bool
  halt : Bool
  dir : Bool
  bytes : Word
  faddr : BitVec 57
  srcChain : Chain
  dstChain : Chain
  asked : Nat
  copied : Nat
  finish : Bool
  deriving DecidableEq, Repr

/-- The DMA_LEG block (R137-R140) and every open chain. `lost` are the chain accesses that DISABLE has kept from going out, or
whose responses it has discarded (R132): a warm reset issues again those it still needs (R473). -/
structure Dma where
  chains : SMap Chain
  haltQ : List Nat
  disable : Bool
  bytesWr : Word
  bytesRd : Word
  lost : List Failed
  leg : Legacy
  deriving DecidableEq, Repr

/-! ## Interrupts, power, time -/

/-- The IRQ block (R443-R446). -/
structure Irq where
  pend : BitVec 64
  mask0 : BitVec 64
  mask1 : BitVec 64
  mask2 : BitVec 64
  mask3 : BitVec 64
  wakeEn : BitVec 5
  wakeEnNext : Option (BitVec 5 × Nat)
  late : BitVec 64
  deriving DecidableEq, Repr

/-- The TIME block and the time unit (R421-R426, R36-R38). Slews and offsets are whole nanoseconds; the fraction F is
in 1/64 ns; `tickEdge` that the last edge was a tick, whose pace window stands to be taken (R38, R425); `woke` the TIME_NS of the
last restart behind Ember or Cold (R412). -/
structure Time where
  ns : Ns
  frac : Nat
  aon : BitVec 48
  phase : Nat
  capNs : Ns
  capAon : BitVec 48
  alarm : BitVec 64
  arm : Bool
  fired : Bool
  cfg : Word
  offset : Int
  slew : Int
  stepDue : Nat
  slewUs : Option Nat
  t0 : Ns
  f0 : Nat
  k0 : BitVec 48
  kr : Option (BitVec 48)
  paceValid : Bool
  pacePs : BitVec 16
  paceMax : BitVec 16
  paceMin : BitVec 16
  edges : Nat
  tickEdge : Bool
  woke : Option Ns
  running : Bool
  deriving DecidableEq, Repr

/-! ## Pool, queues, decoders -/

/-- A peck: its slot header (R171), payload (R172) and whether it is allocated (R173); `sense` marks a sense peck. -/
structure Peck where
  alloc : Bool
  sense : Bool
  chan : Nat
  length : Nat
  kind : Nat
  flags : Byte
  entry : Nat
  gen : BitVec 16
  cw : Nat
  iter : Nat
  step : Nat
  addr : BitVec 64
  payload : List Byte
  deriving DecidableEq, Repr

/-- A waiting allocation request (R175): the unit, how many pecks, and whether it has been considered. -/
structure AllocReq where
  ix : Nat
  count : Nat
  seen : Bool
  deriving DecidableEq, Repr

/-- A line of a queue (R177, R178): its 128 bytes and its side tag. -/
structure QLine where
  bytes : List Byte
  valid : Nat
  first : Bool
  last : Bool
  short : Bool
  flushed : Bool
  deriving DecidableEq, Repr

/-- One channel queue: the store of 64 lines, the read and write pointers, each in two copies (R177, R185), the credits its
producer holds (R180), a flush requested and the open packet it has closed early (R184), an underrun. -/
structure Queue where
  store : SMap QLine
  rptr : BitVec 7
  rptr2 : BitVec 7
  wptr : BitVec 7
  wptr2 : BitVec 7
  credits : Nat
  flush : Bool
  closeShort : Bool
  deriving DecidableEq, Repr

/-- The POOL block. `flushAsk` are the flushes that POOL_FLUSH has asked for and that have not taken effect (R189): false
ingress, true egress. -/
structure Pool where
  pecks : SMap Peck
  allocQ : SMap (List AllocReq)
  softQ : List (Nat × Nat)
  lastCh : Nat
  sharedMin : Nat
  waitCnt : Word
  peaks : SMap Nat
  underrun : Word
  qerrValid : Bool
  qerrDir : Bool
  qerrPtr : Bool
  qerrCount : Nat
  qerrCh : Nat
  mism : SMap (List Ns)
  flushAsk : List Bool
  flushCh : BitVec 5
  peek : Word
  ingress : SMap Queue
  egress : SMap Queue
  deriving DecidableEq, Repr

/-- An item for a decoder (R209): the unit, its GEN, the codeword (4 for a sherd), whether it is a soft
step, and its place in the order in which items entered their queues (R47). -/
structure DecItem where
  ix : Nat
  gen : BitVec 16
  cw : Nat
  soft : Bool
  seq : Nat
  deriving DecidableEq, Repr

/-- The DEC block and the decoder pool (R209-R218). `busy` maps lane numbers to the items they decode, soft lanes at
32 + lane and BCH decoders at 64 + number; each item carries the limits in force at its start. -/
structure Dec where
  cfg : Word
  llr : Word
  hardOut : BitVec 26
  softOut : BitVec 4
  bchOut : BitVec 2
  spareIn : BitVec 2
  spareDue : List Nat
  hardQ : List DecItem
  softQ : List DecItem
  bchQ : List DecItem
  busy : SMap (DecItem × Word × Word)
  nextItem : Nat
  faultValid : Bool
  faultKind : BitVec 2
  faultCause : Bool
  faultLane : Nat
  faultCount : Nat
  cwCnt : Word
  iterAcc : Word
  iterSum : Word
  failCnt : Word
  softCnt : Word
  erasedCnt : Word
  tagCnt : Word
  sherdCnt : Word
  sherdFail : Word
  deriving DecidableEq, Repr

/-! ## Calibration, channels, LUNs -/

/-- A threshold sample (R230): the read it comes from, its LUN, block group and polarity, N, raw ones, whether every
codeword's density is in range (R231), and the kind of read (R232); `iters` and `cws` sum the hard iterations and the
codewords decoded so far (R238). -/
structure Sample where
  ix : Nat
  gen : BitVec 16
  iters : Nat
  cws : Nat
  lun : Nat
  group : Nat
  pol : Int
  n : Nat
  ones : Nat
  inRange : Bool
  patrol : Bool
  internal : Option Nat
  deriving DecidableEq, Repr

/-- An accepted sample as the quality figures keep it (R238): the read, |e|, its hard iterations and codewords. -/
structure Qual where
  ix : Nat
  gen : BitVec 16
  e : Nat
  iters : Nat
  cws : Nat
  deriving DecidableEq, Repr

/-- A cone relearn in progress (R236). -/
structure Relearn where
  saved : Int
  count : Nat
  run : Nat
  start : Ns
  deriving DecidableEq, Repr

/-- Patrol state of a LUN (R239-R241). -/
structure Patrol where
  block : Nat
  plane : Nat
  page : Nat
  debt : Nat
  period : Nat
  urgent : Bool
  hot : Bool
  last : Ns
  outstanding : Bool
  deriving DecidableEq, Repr

/-- The CAL block (R243-R250, R266-R267), the learnt state (R222) and the cone. D is keyed by 64 × LUN + group; `again` are the pairs
whose training a warm reset has abandoned, pending again at the next temperature value taken (R260). -/
structure Cal where
  cfg : Word
  temp : Word
  recovery : Word
  softMap : Word
  sel : BitVec 15
  patrolCfg : Word
  patrolSel : BitVec 9
  d : SMap Int
  t : SMap Int
  tCal : SMap Int
  tNow : SMap Int
  relearns : SMap Relearn
  quality : SMap (List Qual)
  samples : List Sample
  timeoutValid : Bool
  timeoutCount : Nat
  timeoutLun : Nat
  patrol : SMap Patrol
  logValid : Bool
  logReason : BitVec 2
  logCount : Nat
  logAddr : BitVec 64
  sampleCnt : Word
  rejectCnt : Word
  refirePass : Word
  softPass : Word
  uncorr : Word
  trainCfg : Word
  pending : BitVec 16
  again : BitVec 16
  active : BitVec 16
  starts : SMap Ns
  joined : SMap (List Nat)
  failValid : Bool
  failCause : BitVec 2
  failRate : Nat
  failCount : Nat
  failBoth : Bool
  failCh : Nat
  trainCnt : Word
  thmLast : Option (BitVec 10)
  thm : BitVec 10
  deriving DecidableEq, Repr

/-- A die descriptor as the image gives it (R158). -/
structure DieType where
  id : List Byte
  idMask : List Byte
  planes : Nat
  cell : Byte
  pages : Nat
  slcPages : Nat
  blocks : Nat
  rowCycles : Nat
  lunBit : Nat
  ifCaps : Byte
  extFa : Byte
  extVal : Byte
  tempFa : Byte
  tTurn : Nat
  readLevels : Byte
  caps : BitVec 16
  trFirst : Nat
  trPoll : Nat
  tprogFirst : Nat
  tprogPoll : Nat
  tslcFirst : Nat
  tfoldCFirst : Nat
  tfoldFFirst : Nat
  tbersFirst : Nat
  tbersPoll : Nat
  runMinPgm : Nat
  runMinErs : Nat
  suspWin : Nat
  tSusp : Nat
  suspMaxPgm : Nat
  suspMaxErs : Nat
  suspReads : Nat
  entry : List Nat
  refireBase : Nat
  refireSteps : Nat
  initFeat : List (BitVec 64)
  reservedOk : Bool
  deriving DecidableEq, Repr

/-- The sections of the image in service (R381), and the image's die types, bindings and topology in typed form. -/
structure Img where
  dies : List DieType
  bind : SMap (BitVec 16)
  rates : List Nat
  chans : List Byte
  rdVref : List Nat
  wrVref : List Nat
  refire : SMap (BitVec 128)
  wasters : List Waster
  deriving DecidableEq, Repr

/-- A schedule context (R301). -/
structure SchedCtx where
  run : Bool
  pc : Nat
  a : List Word
  k : Nat
  s : BitVec 64
  c : List (BitVec 16)
  m : Nat
  deriving DecidableEq, Repr

/-- An array operation of a thread, running or suspended (R141, R155, R156). `phase` is 0 program, 1 SLC program,
2 fold coarse pass, 3 fold fine pass, 4 erase, 5 fold source read. -/
structure ArrayOp where
  members : List Nat
  phase : Nat
  suspended : Bool
  susps : Nat
  runFrom : Ns
  firstDue : Option Ns
  firstLeft : Nat
  suspAt : Ns
  suspReads : Nat
  checking : Bool
  deriving DecidableEq, Repr

/-- A read on the die (R141): its members, those whose data has not all been moved, whether the die has shown ready, and
whether it was issued during a suspension; `cached` a page that a cache command started and that needs another one
before its data can move (R151), `given` that its own cache command has been given (R283), `due` its first ready poll (R157). -/
structure ReadOp where
  members : List Nat
  left : List Nat
  ready : Bool
  cached : Bool
  given : Bool
  inSuspend : Bool
  due : Ns
  deriving DecidableEq, Repr

/-- A delay-list event (R157, R318): its due time, and the entry with its GEN that it is addressed to, if any. -/
structure Event where
  due : Ns
  ent : Option (Nat × BitVec 16)
  deriving DecidableEq, Repr

/-- The delay-list events of a thread, at most one of each kind (R157). -/
structure Events where
  poll : Option Event
  run : Option Event
  win : Option Event
  merge : Option Event
  backoff : Option Event
  patrol : Option Event
  temp : Option Event
  deriving DecidableEq, Repr

/-- The hold of a list head by its merge window (R150): the head, and when the hold ends if it has not ended. -/
structure Hold where
  ix : Nat
  due : Option Ns
  deriving DecidableEq, Repr

/-- A LUN position and its thread. `vec` is the vector last set on the die, `vecFor` the entry that it was set for and that has
not yet begun its read (R224), `cacheIx` an issued entry whose cache command a busy die has kept back (R302, log 113). `tempS` is a temperature reading that has been brought in and not yet taken; `holdR` and
`holdO` are the merge-window holds of the two list heads (R150), `sdr` that the die stands in its SDR interface (R66), `rawS` the
bytes of S that the open RAW's schedule has appended to its stream, by offset (R298). -/
structure Lun where
  die : Option Nat
  absent : Bool
  ext : Bool
  checked : Bool
  readQ : List Nat
  orderQ : List Nat
  op : Option ArrayOp
  rd : Option ReadOp
  cache : Option ReadOp
  cacheIx : Option Nat
  vec : Option (List Int)
  vecFor : Option Nat
  ev : Events
  pollReq : Bool
  suspReq : Bool
  tempReq : Bool
  tempS : Option Int
  resetReq : Bool
  resumeReq : Bool
  holdR : Option Hold
  holdO : Option Hold
  sdr : Bool
  sched : SchedCtx
  rawOpen : Option Nat
  rawReq : Bool
  rawMoved : Nat
  rawS : List (Nat × List Byte)
  deriving DecidableEq, Repr

/-- A pin action (R296): what the channel's pins carry. Outside schedules the channel also drives `sdr`, the SDR
set-features cycles that bring a die into an interface and rate (R66), ZQ Calibration Long, and ONFI's DCC, read DQ and
write DQ training (R162, R254, R262). -/
inductive PinAct where
  | cmd (b : Byte)
  | addr (bytes : List Byte)
  | din (bytes : List Byte)
  | dout (dreg len : Nat)
  | rds (len : Nat)
  | wri (bytes : List Byte)
  | sdr (lpddr : Bool) (rate : Nat)
  | zqLong
  | dieDcc
  | rdTrain
  | wrTrain
  deriving DecidableEq, Repr

/-- How a grant's schedule has come to rest: it waits for the pin end of a starting step (R315) or for a step being
reloaded (R306), or in a data-in for lines of its RAW that are not yet in the egress queue (R181, R182), has reached END or
RELEASE (R302, R304), has halted on a bad step (R306, R307), or has passed the grant limit (R308). -/
inductive GrantEnd where
  | running
  | waiting (step : Nat)
  | starved
  | ended (result : Nat) (s : BitVec 64)
  | released (poll : Option Nat)
  | halted (step : Nat)
  | overLimit (step : Nat)
  deriving DecidableEq, Repr

/-- A packet a grant still has to bring in (R178): unit, region (0-3 codeword, 4 sherd, 5 RAW), length; `gone` one that its entry,
which replay has queued again, no longer waits for (R322). -/
structure Expect where
  ix : Nat
  gen : BitVec 16
  region : Nat
  len : Nat
  gone : Bool
  deriving DecidableEq, Repr

/-- A grant (R144): its kind, the LUN of its thread, its members, the schedules that follow in it (entry step and member M), the runs of
regions that DREG 6 still names (R298), what its pins have carried, the members whose starting step is at the pins
(R315), what its schedule still meets, the pin time so far and the limit in force (R308, R311), the members with their GEN
(R318), the bytes that a data-in in progress still has to send (R182), the bytes that its data-ins have sent through the egress
queue, and whether a WAIT 2 holds its present step (R299). -/
structure Grant where
  kind : GrantKind
  lun : Nat
  members : List Nat
  cls : Cls
  long : Bool
  probe : Bool
  cacheNext : Option Nat
  more : List (Nat × Nat)
  runs : List (List Nat)
  pins : List PinAct
  pinTime : Nat
  limit : Nat
  expect : List Expect
  starting : List Nat
  io : GrantIo
  din : Bool
  confirmed : Bool
  faulty : Bool
  gens : List (Nat × BitVec 16)
  dinLeft : Option Nat
  sent : Nat
  held : Bool
  fin : GrantEnd
  deriving DecidableEq, Repr

/-- The pass count of a thread's ready request (R46): the kind of the request, its entry, and how often it has been passed over.
A thread raises one request at a time (R141); another request has another count. -/
structure Passes where
  kind : GrantKind
  ix : Nat
  n : Nat
  deriving DecidableEq, Repr

/-- A channel (R144-R169). `ptrs` are the round-robin pointers of R145, keyed 2 × class + length; `next` is the grant
decided while another is in progress (R147), `late` the packets of ended grants still on their way into pecks, `setup` what
the pins carried by CE in the last die check, interface set-up or training, outside grants (R66, R161, R254, R262). -/
structure Chan where
  cfg : Word
  fenced : Bool
  pers : BitVec 2
  suspCnt : Word
  mergeCnt : Word
  promoteCnt : Word
  busy : Word
  busyRest : Nat
  ptrs : SMap Nat
  grant : Option Grant
  next : Option Grant
  late : List Expect
  passes : SMap Passes
  setup : List (Nat × PinAct)
  deriving DecidableEq, Repr

/-- A PHY slice (R268-R270). -/
structure Phy where
  rate : Nat
  trained : Bool
  calCode : BitVec 10
  tapStep : Byte
  rdVref : BitVec 6
  wrVref : BitVec 6
  dcc : BitVec 5
  dqsTap : BitVec 7
  retrain : Word
  eyes : List Word
  rdTaps : List Nat
  wrTaps : List Nat
  deriving DecidableEq, Repr

/-- A channel pair: the rate in use, its interface (true NV-LPDDR4), whether it is in service, the channel trained alone. -/
structure Pair where
  rate : Nat
  lpddr : Bool
  inService : Bool
  startRate : Nat
  stepDown : Bool
  alone : Option Nat
  deriving DecidableEq, Repr

/-- The schedule store (R293-R313). A step is its 160 bits and 20 parity bits; `reloadFirst` that a reload which a warm
reset has interrupted comes before any dispatch (R306). -/
structure Sched where
  store : SMap (BitVec 160 × BitVec 20)
  version : Word
  loaded : Bool
  slot : Bool
  reloading : List Nat
  halted : List (Nat × Nat)
  reloadFirst : Bool
  broken : List Nat
  perrCount : Nat
  perrTimes : SMap Ns
  grantMax : BitVec 16
  perrValid : Bool
  perrThread : Nat
  perrCh : Nat
  perrStep : Nat
  faultValid : Bool
  faultCause : Bool
  faultThread : Nat
  faultCh : Nat
  faultStep : Nat
  peek : Word
  reloadCnt : Word
  deriving DecidableEq, Repr

/-! ## Relay and peer sync port -/

/-- State of a link (R371). -/
inductive LinkState where
  | down | bringing | up | hold | mismatch
  deriving DecidableEq, Repr

/-- A result held by the owner end (R362), as its COMPLETION frame. -/
structure Result where
  ctx : Nat
  frame : RFrame
  deriving DecidableEq, Repr

/-- A relay bundle (R344-R362), keyed by its first channel. `rxSeq` and `txSeq` are the next SEQ expected and given;
`unacked` the retry buffer with the time each frame was last sent; `retryQ` frames to be sent again, `txq` frames queued
and not yet sent, `sending` the frame on each channel; `waiting` the units that wait for their COMMAND frame; `held` the
owner's commands, `log` their results; `dataPecks` the pecks behind DATA_CREDIT (R351); `trainAsked` the pair and HOLD of
a TRAIN frame sent, `toTrain` the channels on which it has still to go out (R358); `polled` the last Read ID or pull on each channel;
`pins` what the last transfer on each channel carried (R345). The reorder store holds a DATA frame less its data, and the peck that
holds these (R350). -/
structure Link where
  target : Bool
  size : Nat
  st : LinkState
  mask : Byte
  resumed : Bool
  partner : BitVec 11
  identified : List Nat
  kept : Bool
  host : Word
  tgt : Word
  txSeq : BitVec 12
  rxSeq : BitVec 12
  unacked : List (RFrame × Ns)
  reorder : List (RFrame × Option Nat)
  nakDue : Bool
  creditDue : Bool
  cmdSent : BitVec 16
  cmdRecv : BitVec 16
  cmdCredit : BitVec 16
  dataSent : BitVec 16
  dataCredit : BitVec 16
  dataPecks : List Nat
  dataAsked : Bool
  held : List Nat
  log : List Result
  waiting : List Nat
  txq : List RFrame
  retryQ : List RFrame
  helloSent : Bool
  lastRx : SMap Ns
  lastTx : SMap Ns
  crcRun : SMap Nat
  sending : SMap RFrame
  holdDue : Option Ns
  trainDue : Option Ns
  trainAsked : Option (Nat × Nat)
  polled : SMap Ns
  toTrain : List (Nat × RFrame)
  pins : SMap (List PinAct)
  deriving DecidableEq, Repr

/-- The RLY block. -/
structure Rly where
  cfg : Word
  event : Word
  routeSel : BitVec 11
  routes : SMap (BitVec 16)
  boot : Word
  retryCnt : Word
  crcCnt : Word
  lostCnt : Word
  resumeCnt : Word
  links : SMap Link
  lastId : List Byte
  deriving DecidableEq, Repr

/-- The PSP block (R364-R373). Members map an instance to the time it was last heard; `stored` is E_s of
R367, `srcEn` the TIME_SRC_EN in force (R469), `sent` the last frame sent, as its two lanes carried it by edge (R364). -/
structure Psp where
  cfg : Word
  srcEn : Bool
  settled : Bool
  synced : Bool
  source : Bool
  sourceId : BitVec 11
  members : SMap Ns
  tsrcs : List Nat
  epoch : Word
  stored : Word
  listenFrom : Option Ns
  bestSettled : Option Word
  bestCandidate : Word
  lastId : BitVec 11
  evEpoch : Bool
  evLeft : Bool
  evJoined : Bool
  crcCnt : Word
  lastMember : Ns
  lastTime : Ns
  timeTaken : Ns
  sent : List (BitVec 2)
  deriving DecidableEq, Repr

/-! ## Serial memory, NVS -/

/-- An option record (R378). -/
structure OptRec where
  modeLimit : Nat
  sckDiv : Nat
  seq : Word
  genA : Word
  genB : Word
  xipBase : Word
  deriving DecidableEq, Repr

/-- What a serial operation is doing (R385, R387). -/
inductive SpmKind where
  | program | erase | commit | consolidate
  deriving DecidableEq, Repr

/-- A serial operation in progress: `reached` is the byte reached within its stage; `devBusy` that a device program or
erase runs; `openSector` the sector whose start marker has been asked for; `bufWait` that host memory has been asked for
data; `failed` a RESULT already decided; `genNew` the generation a commit or consolidation writes; `ctx` the NVS_SYNC of a
consolidation; `stage` what it is at (Spm.lean); `table` how many wasters a consolidation writes. -/
structure SpmOp where
  kind : SpmKind
  addr : Nat
  len : Nat
  reached : Nat
  devBusy : Bool
  suspended : Bool
  suspending : Bool
  suspAt : Ns
  runFrom : Ns
  openSector : Option Nat
  bufWait : Bool
  failed : Nat
  genNew : Word
  ctx : Nat
  stage : Nat
  table : Nat
  deriving DecidableEq, Repr

/-- A transaction on the serial pins (R377): its instruction byte, left out where a continuous read goes on, its 4-byte address,
its dummy cycles, and the bytes it sends. -/
structure SerialTx where
  instr : Option Byte
  addr : Option Nat
  dummy : Nat
  data : List Byte
  deriving DecidableEq, Repr

/-- The SPM block (R404, R405), what discovery found, and the XIP window (R384). `tried` are the slots that selection has
read, `passedOver` the image of one whose check has passed and that has given way for its open marker (R392), `image` the image
in service; `erasing` the re-erase of a sector at the device (R392), `leftover` a device operation of before a warm reset, with
the sector of an erase (R391); `nextLine` the line to be prefetched (R384); `sent` the transactions that the unit last began. -/
structure Spm where
  booted : Bool
  bootFail : Bool
  xipReady : Bool
  slot : Bool
  validA : Bool
  validB : Bool
  openKept : Bool
  noSuspend : Bool
  mode : Nat
  sckDiv : Nat
  genA : Word
  genB : Word
  xipErr : Bool
  xipBase : BitVec 16
  opAddr : BitVec 28
  opLen : Word
  opBuf : BitVec 57
  opSlot : Bool
  opBusy : Bool
  opDone : Bool
  opResult : Nat
  progress : Nat
  suspCnt : Word
  sfdp : Sfdp
  opt : Option OptRec
  optOther : Option OptRec
  optSector : Bool
  tried : List Bool
  loading : Option Bool
  lines : SMap (List Byte)
  lineOrder : List Nat
  waiting : Option (BitVec 16)
  inFlight : Option Nat
  prefetching : Bool
  nextLine : Option Nat
  passedOver : Option SparseBytes
  image : SparseBytes
  erasing : Option SpmOp
  sent : List SerialTx
  op : Option SpmOp
  opWait : Option SpmOp
  leftover : Option (Option Nat)
  resetHigh : Bool
  deriving DecidableEq, Repr

/-- Why an NVS line is written: the order of R394 is marker, waster, health, snapshot; `clear` zeroes the consolidated
records of a line (R387, R398). -/
inductive NvsWhat where
  | marker (unit : Option Nat) (kind : Nat)
  | waster (ix : Option Nat)
  | clear
  | health
  | snapshot (line : Nat)
  deriving DecidableEq, Repr

/-- A requested NVS write (R394): its place in the order of requests, the line, its contents, how often it has failed. -/
structure NvsReq where
  id : Nat
  what : NvsWhat
  line : Nat
  data : BitVec 256
  fails : Nat
  deriving DecidableEq, Repr

/-- The health record (R397). -/
structure Health where
  seq : Word
  boot : Word
  epoch : Word
  hours : Word
  grown : Word
  consol : Word
  deriving DecidableEq, Repr

/-- A marker open in the ring (R396): KIND of its start marker, LOC, PAGE, its line. -/
structure OpenMark where
  kind : Nat
  loc : Nat
  page : Nat
  line : Nat
  deriving DecidableEq, Repr

/-- The NVS (R393-R401) and its block (R406, R407). `booting` is that the start-up scan has been made and its boot number is being
written (R374). -/
structure Nvs where
  lines : SMap (BitVec 256)
  spares : SMap Nat
  scanned : Bool
  booting : Bool
  snapSlot : Bool
  snapValid : Bool
  sparesLeft : Nat
  faultValid : Bool
  faultRegion : BitVec 3
  faultCount : Nat
  faultLine : Nat
  snapGen : Word
  markHead : Word
  markLine : Nat
  cfg : Word
  writeCnt : Word
  reqs : Nat
  queue : List NvsReq
  running : Option NvsReq
  retry : List NvsReq
  opens : List OpenMark
  health : Health
  healthLine : Nat
  healthAt : Ns
  snapWant : Bool
  snapping : Option Nat
  snapCrc : Word
  snapNew : Word
  snapLast : Option Ns
  syncs : List Nat
  retryAt : Ns
  deriving DecidableEq, Repr

/-! ## Start-up, HCP port, power, test port -/

/-- Start-up progress (R374), straps and identity (R5, R6). -/
structure Sys where
  coldLow : Bool
  warmLow : Bool
  straps : BitVec 11
  instance_ : BitVec 11
  idSrc : Bool
  tgtPers : Bool
  discovered : Bool
  wasters : Bool
  restored : Bool
  started : Bool
  resume : Bool
  reerase : List Nat
  deriving DecidableEq, Repr

/-- The HCP port (R51-R53): what the last ended access returned, and the access withheld until an exit ends (R413). -/
structure Hcp where
  rdata : Word
  err : Bool
  withheld : Option (Bool × BitVec 16 × Word)
  last : Ns
  deriving DecidableEq, Repr

/-- The save area of Cold (R419), field by field. -/
structure Save where
  hif : Hif
  irq : Irq
  time : Time
  cal : Cal
  che : SMap Chan
  pairs : SMap Pair
  dec : Dec
  sched : Sched
  spm : Spm
  pool : Pool
  dma : Dma
  ldg : Ldg
  rly : Rly
  psp : Psp
  nvsCfg : Word
  deriving DecidableEq, Repr

/-- The PWR block, the power pins and the AON island (R70, R408-R430). `heldIn` are the channels of target personality, whose
pads PAD_HOLD holds as inputs (R62); `idleMark` what had been done as idleness began (R411). -/
structure Pwr where
  st : PowerState
  padHeld : Bool
  wakeCause : Byte
  cfg : Word
  idle0 : BitVec 16
  idle1 : BitVec 16
  idle2 : BitVec 16
  idle3 : BitVec 16
  abortUnit : BitVec 4
  abortCnt : BitVec 28
  req : BitVec 3
  ack : Bool
  bbEn : Bool
  retAssist : Bool
  isoEn : Bool
  padHold : Bool
  heldIn : BitVec 32
  wakeOut : Bool
  latched : Byte
  idleSince : Option Ns
  idleMark : List Nat
  exiting : Bool
  save : Option Save
  alarmAt : Option (BitVec 48)
  deriving DecidableEq, Repr

/-- The test access port (R71). -/
inductive JtagIr where
  | reset | bypass | idcode | sample | extest
  deriving DecidableEq, Repr

/-- The test access port's registers: instruction, boundary register, bypass register, what TDO last shifted out. -/
structure Jtag where
  ir : JtagIr
  boundary : List Bool
  bypass : Bool
  tdo : List Bool
  deriving DecidableEq, Repr

/-! ## The whole state -/

/-- The block's state, and the commands that wait for it. -/
structure State where
  sys : Sys
  hcp : Hcp
  hif : Hif
  hdp : Hdp
  irq : Irq
  pwr : Pwr
  time : Time
  ldg : Ldg
  pool : Pool
  dec : Dec
  cal : Cal
  img : Img
  luns : SMap Lun
  che : SMap Chan
  phy : SMap Phy
  pairs : SMap Pair
  sched : Sched
  rly : Rly
  psp : Psp
  spm : Spm
  nvs : Nvs
  dma : Dma
  jtag : Jtag
  freeCtr : Nat
  pending : List Instr
  deriving DecidableEq, Repr

/-- Why the machine stops with a fault. -/
inductive Fault where
  /-- Raised by ARBITER_DECISION, ARRAY_START_PIN_END, STEP_RELOAD_DONE, SOURCE_DATA_RETURN, RELAY_COMMAND_FRAME,
  RELAY_DATA_FRAME, DIE_CHECK and the training rows
  when a schedule dispatches 2^160 steps without coming to rest: it loops through steps whose pin actions take no time
  (R296, R303), for which the spec gives no end (R308 measures pin time only, R309 makes it a duty to bound every loop). Safe: the model stops where the hardware
  hangs (log 9). -/
  | scheduleLoop
  deriving DecidableEq, Repr

/-- Why the machine refuses a command. -/
inductive Refusal where
  /-- Raised by Dispatch for a command that has no meaning yet, with its mnemonic. Safe: nothing is claimed of it. -/
  | notModelled (mnemonic : String)
  deriving DecidableEq, Repr

/-! ## Reset

Every field at the value its register table gives (18_register_map.md R450-R465), with RST_COLD_N still asserted (log 1). -/

/-- HIF block at reset (R110-R116). -/
def Hif.reset : Hif :=
  { cfg := 0xC, restart := 0, ready := false, ringTable := 0, db := 0, predBase := 0, poll := 0x2710, cmdBusy := false,
    cmdErr := false, cmdRing := 0, faultValid := false, faultKind := 0, faultRing := 0, faultAddr := 0, probes := 0,
    skips := 0, forced := 0, checks := 0, sqs := [], cqs := [], tableWait := [], tableGot := [], tableAll := false,
    enableDue := false, cycle := none, again := false, againPolls := [], againAll := false, pollFrom := 0,
    fetch := none, lastSq := 255, waiting := none, preds := [], predStale := [], stopping := false, items := [], cqRetry := [] }

/-- HDP front end with nothing outstanding (R58). -/
def Hdp.reset : Hdp :=
  { reads := [], writes := [], heldReads := [], heldWrites := [], blocked := false, drain := 0, nextSeq := 1 }

/-- IRQ block at reset (R443-R446). -/
def Irq.reset : Irq :=
  { pend := 0, mask0 := 0x03FFFFFFFFFFFFFF, mask1 := 0x03FFFFFFFFFFFFFF, mask2 := 0x03FFFFFFFFFFFFFF,
    mask3 := 0x03FFFFFFFFFFFFFF, wakeEn := 0x17, wakeEnNext := none, late := 0 }

/-- PWR block and island at reset (R427-R430); PWR_ACK is an input (log 2). -/
def Pwr.reset : Pwr :=
  { st := .fire, padHeld := false, wakeCause := 0, cfg := 0x0E, idle0 := 0xC8, idle1 := 0x32, idle2 := 0x7D0,
    idle3 := 0x64, abortUnit := 0, abortCnt := 0, req := 0, ack := true, bbEn := false, retAssist := false,
    isoEn := false, padHold := false, heldIn := 0, wakeOut := false, latched := 0, idleSince := none, idleMark := [],
    exiting := false, save := none, alarmAt := none }

/-- TIME block at reset (R421, R431-R433, R36, R37). -/
def Time.reset : Time :=
  { ns := 0, frac := 0, aon := 0, phase := 0, capNs := 0, capAon := 0, alarm := 0, arm := false, fired := false,
    cfg := 0x80000064, offset := 0, slew := 0, stepDue := 0, slewUs := none, t0 := 0, f0 := 0, k0 := 0, kr := none,
    paceValid := false, pacePs := 0xC80, paceMax := 0, paceMin := 0xFFFF, edges := 0, tickEdge := false, woke := none, running := true }

/-- Ledger at reset: every entry FREE, every GEN 0 (R318), no fault (R339-R343). -/
def Ldg.reset : Ldg :=
  { units := [], cmds := [], gens := [], nextSeq := 0, nextLink := 0, nextAgain := 0, halted := false,
    replaying := false, replayCnt := 0, unknownCnt := 0, staleCnt := 0, faultValid := false, corr := 0,
    faultIndex := 0, wasters := [], wasterFull := false, nvRecords := 0, crazed := [], torn := [],
    recovCrazed := [], recovTorn := [], overflow := 0, recovSel := 0, peek := 0 }

/-- Pool at reset (R186-R191): no peck allocated; contents as log 4. -/
def Pool.reset : Pool :=
  { pecks := [], allocQ := [], softQ := [], lastCh := 31, sharedMin := 0x5F8, waitCnt := 0, peaks := [],
    underrun := 0, qerrValid := false, qerrDir := false, qerrPtr := false, qerrCount := 0, qerrCh := 0, mism := [],
    flushAsk := [], flushCh := 0, peek := 0, ingress := [], egress := [] }

/-- DEC block at reset (R214-R218): no lane retired, hard lanes 0-23 in service. -/
def Dec.reset : Dec :=
  { cfg := 0x40402818, llr := 0x01A1820A, hardOut := 0, softOut := 0, bchOut := 0, spareIn := 0, spareDue := [],
    hardQ := [], softQ := [], bchQ := [], busy := [], nextItem := 0, faultValid := false, faultKind := 0, faultCause := false,
    faultLane := 0, faultCount := 0, cwCnt := 0, iterAcc := 0, iterSum := 0, failCnt := 0, softCnt := 0,
    erasedCnt := 0, tagCnt := 0, sherdCnt := 0, sherdFail := 0 }

/-- CAL block and cone at reset (R243-R250, R266, R267); learnt state zero (R222). -/
def Cal.reset : Cal :=
  { cfg := 0xC320080F, temp := 0x00460064, recovery := 0, softMap := 0x75015013, sel := 0, patrolCfg := 0x0C00,
    patrolSel := 0, d := [], t := [], tCal := [], tNow := [], relearns := [], quality := [], samples := [],
    timeoutValid := false, timeoutCount := 0, timeoutLun := 0, patrol := [], logValid := false, logReason := 0,
    logCount := 0, logAddr := 0, sampleCnt := 0, rejectCnt := 0, refirePass := 0, softPass := 0, uncorr := 0,
    trainCfg := 0x80140C04, pending := 0, again := 0, active := 0, starts := [], joined := [], failValid := false,
    failCause := 0, failRate := 0, failCount := 0, failBoth := false, failCh := 0, trainCnt := 0, thmLast := none,
    thm := 0x3FF }

/-- No image section in service yet. -/
def Img.reset : Img :=
  { dies := [], bind := [], rates := [], chans := [], rdVref := [], wrVref := [], refire := [], wasters := [] }

/-- SCHED block at reset (R310-R313): store not loaded. -/
def Sched.reset : Sched :=
  { store := [], version := 0, loaded := false, slot := false, reloading := [], halted := [], reloadFirst := false, broken := [],
    perrCount := 0, perrTimes := [], grantMax := 0x400, perrValid := false, perrThread := 0, perrCh := 0,
    perrStep := 0, faultValid := false, faultCause := false, faultThread := 0, faultCh := 0, faultStep := 0,
    peek := 0, reloadCnt := 0 }

/-- RLY block at reset (R369-R371). -/
def Rly.reset : Rly :=
  { cfg := 0x320003, event := 0, routeSel := 0, routes := [], boot := 0, retryCnt := 0, crcCnt := 0, lostCnt := 0,
    resumeCnt := 0, links := [], lastId := [] }

/-- PSP block at reset (R372, R373). -/
def Psp.reset : Psp :=
  { cfg := 0, srcEn := false, settled := false, synced := false, source := false, sourceId := 0x7FF, members := [], tsrcs := [],
    epoch := 0, stored := 0, listenFrom := none, bestSettled := none, bestCandidate := 0, lastId := 0,
    evEpoch := false, evLeft := false, evJoined := false, crcCnt := 0, lastMember := 0, lastTime := 0,
    timeTaken := 0, sent := [] }

/-- What is known of a serial device without an SFDP signature (R377): it runs in 1-1-1 with 13h, 12h, 21h and 05h, and without
suspend. -/
def noSfdp : Sfdp :=
  { found := false, octal := false, quad144 := false, quad114 := false, reads := [0x13], dummies := [], enables := [],
    continuous := [], fourByte := true, suspend := false, programOp := 0x12, eraseOp := 0x21, statusOp := 0x05, suspendOp := 0,
    resumeOp := 0, suspendBits := 0, capacity := 0 }

/-- SPM block at reset (R404, R405). -/
def Spm.reset : Spm :=
  { booted := false, bootFail := false, xipReady := false, slot := false, validA := false, validB := false,
    openKept := false, noSuspend := false, mode := 0, sckDiv := 8, genA := 0, genB := 0, xipErr := false,
    xipBase := 2, opAddr := 0, opLen := 0, opBuf := 0, opSlot := false, opBusy := false, opDone := false,
    opResult := 0, progress := 0, suspCnt := 0, sfdp := noSfdp, opt := none, optOther := none, optSector := false, tried := [],
    loading := none, lines := [], lineOrder := [], waiting := none, inFlight := none, prefetching := false,
    nextLine := none, passedOver := none, image := [], erasing := none, sent := [], op := none, opWait := none, leftover := none, resetHigh := false }

/-- NVS at its first power-on: every line zero (log 5); registers as R406, R407. -/
def Nvs.reset : Nvs :=
  { lines := [], spares := [], scanned := false, booting := false, snapSlot := false, snapValid := false, sparesLeft := 0x400,
    faultValid := false, faultRegion := 0, faultCount := 0, faultLine := 0, snapGen := 0, markHead := 0,
    markLine := 0, cfg := 1, writeCnt := 0, reqs := 0, queue := [], running := none, retry := [], opens := [],
    health := { seq := 0, boot := 0, epoch := 0, hours := 0, grown := 0, consol := 0 }, healthLine := 0,
    healthAt := 0, snapWant := false, snapping := none, snapCrc := 0, snapNew := 0, snapLast := none, syncs := [], retryAt := 0 }

/-- RST_COLD_N asserted, straps not yet sampled (log 1). -/
def Sys.reset : Sys :=
  { coldLow := true, warmLow := false, straps := 0, instance_ := 0, idSrc := false,
    tgtPers := false, discovered := false, wasters := false, restored := false, started := false, resume := false,
    reerase := [] }

/-- No access has ended on the HCP port. -/
def Hcp.reset : Hcp := { rdata := 0, err := false, withheld := none, last := 0 }

/-- A chain whose first descriptor, at `head`, is still to be read (R118). -/
def Chain.start (head : Nat) : Chain :=
  { head := head, segs := [], next := some head, reading := false, ownWait := none, park := none, ended := false,
    short := false, base := 0, reach := 0, todo := [], halted := false, failed := [], walk := none, shaped := false,
    closing := false, bitmapSent := false, stream := none, aborted := false }

/-- DMA_LEG block at reset (R137-R140). -/
def Dma.reset : Dma :=
  { chains := [], haltQ := [], disable := false, bytesWr := 0, bytesRd := 0, lost := [],
    leg := { src := 0, dst := 0, coherent := true, busy := false, done := false, halt := false, dir := false,
             bytes := 0, faddr := 0, srcChain := Chain.start 0, dstChain := Chain.start 0, asked := 0, copied := 0,
             finish := false } }

/-- Test-Logic-Reset (R71); boundary register empty (log 6). -/
def Jtag.reset : Jtag := { ir := .reset, boundary := [], bypass := false, tdo := [] }

/-- The machine right after reset: every register at its reset value, RST_COLD_N still asserted (log 1). -/
def State.reset : State :=
  { sys := Sys.reset, hcp := Hcp.reset, hif := Hif.reset, hdp := Hdp.reset, dma := Dma.reset, pending := [],
    irq := Irq.reset, pwr := Pwr.reset, time := Time.reset, nvs := Nvs.reset, jtag := Jtag.reset, freeCtr := 0,
    img := Img.reset, luns := [], che := [], phy := [], pairs := [], ldg := Ldg.reset, pool := Pool.reset, dec := Dec.reset,
    cal := Cal.reset, sched := Sched.reset, rly := Rly.reset, psp := Psp.reset, spm := Spm.reset }

end Sys2Proof.Machine
end

