-- ==== Sys2Proof/Machine/Access.lean ====
section
/-! DEFINITION. One updater per block of State: every meaning changes a block through its updater, and
Laws/State.lean says once what each leaves alone. -/

namespace Sys2Proof.Machine

/-- Change `sys`. -/
def State.onSys (f : Sys → Sys) (s : State) : State := { s with sys := f s.sys }

/-- Change `hcp`. -/
def State.onHcp (f : Hcp → Hcp) (s : State) : State := { s with hcp := f s.hcp }

/-- Change `hif`. -/
def State.onHif (f : Hif → Hif) (s : State) : State := { s with hif := f s.hif }

/-- Change `hdp`. -/
def State.onHdp (f : Hdp → Hdp) (s : State) : State := { s with hdp := f s.hdp }

/-- Change `irq`. -/
def State.onIrq (f : Irq → Irq) (s : State) : State := { s with irq := f s.irq }

/-- Change `pwr`. -/
def State.onPwr (f : Pwr → Pwr) (s : State) : State := { s with pwr := f s.pwr }

/-- Change `time`. -/
def State.onTime (f : Time → Time) (s : State) : State := { s with time := f s.time }

/-- Change `ldg`. -/
def State.onLdg (f : Ldg → Ldg) (s : State) : State := { s with ldg := f s.ldg }

/-- Change `pool`. -/
def State.onPool (f : Pool → Pool) (s : State) : State := { s with pool := f s.pool }

/-- Change `dec`. -/
def State.onDec (f : Dec → Dec) (s : State) : State := { s with dec := f s.dec }

/-- Change `cal`. -/
def State.onCal (f : Cal → Cal) (s : State) : State := { s with cal := f s.cal }

/-- Change `img`. -/
def State.onImg (f : Img → Img) (s : State) : State := { s with img := f s.img }

/-- Change `luns`. -/
def State.onLuns (f : SMap Lun → SMap Lun) (s : State) : State := { s with luns := f s.luns }

/-- Change `che`. -/
def State.onChe (f : SMap Chan → SMap Chan) (s : State) : State := { s with che := f s.che }

/-- Change `phy`. -/
def State.onPhy (f : SMap Phy → SMap Phy) (s : State) : State := { s with phy := f s.phy }

/-- Change `pairs`. -/
def State.onPairs (f : SMap Pair → SMap Pair) (s : State) : State := { s with pairs := f s.pairs }

/-- Change `sched`. -/
def State.onSched (f : Sched → Sched) (s : State) : State := { s with sched := f s.sched }

/-- Change `rly`. -/
def State.onRly (f : Rly → Rly) (s : State) : State := { s with rly := f s.rly }

/-- Change `psp`. -/
def State.onPsp (f : Psp → Psp) (s : State) : State := { s with psp := f s.psp }

/-- Change `spm`. -/
def State.onSpm (f : Spm → Spm) (s : State) : State := { s with spm := f s.spm }

/-- Change `nvs`. -/
def State.onNvs (f : Nvs → Nvs) (s : State) : State := { s with nvs := f s.nvs }

/-- Change `dma`. -/
def State.onDma (f : Dma → Dma) (s : State) : State := { s with dma := f s.dma }

/-- Change `jtag`. -/
def State.onJtag (f : Jtag → Jtag) (s : State) : State := { s with jtag := f s.jtag }

/-- Change `freeCtr`. -/
def State.onFreeCtr (f : Nat → Nat) (s : State) : State := { s with freeCtr := f s.freeCtr }

/-- Change `pending`. -/
def State.onPending (f : List Instr → List Instr) (s : State) : State := { s with pending := f s.pending }

end Sys2Proof.Machine
end

