-- ==== Sys2Proof/Machine/Map.lean ====
section
/-! DEFINITION. Sparse tables in one canonical form (INVENTORY, Memory and ordering): strictly rising indices. Every
addressed store of the block (ledger, pool, schedule store, NVS, tables) is reached through these operations. -/

namespace Sys2Proof

/-- The value at index `k`, if it is listed. -/
def SMap.get? {α : Type} (m : SMap α) (k : Nat) : Option α :=
  match m with
  | [] => none
  | (j, v) :: r => if j = k then some v else SMap.get? r k

/-- The value at index `k`, or the table's default. -/
def SMap.getD {α : Type} (m : SMap α) (k : Nat) (d : α) : α := (SMap.get? m k).getD d

/-- List `v` at index `k`, in place of what is listed there. -/
def SMap.set {α : Type} (m : SMap α) (k : Nat) (v : α) : SMap α :=
  match m with
  | [] => [(k, v)]
  | (j, w) :: r => if k < j then (k, v) :: (j, w) :: r else if k = j then (k, v) :: r else (j, w) :: SMap.set r k v

/-- Remove index `k`. -/
def SMap.erase {α : Type} (m : SMap α) (k : Nat) : SMap α := m.filter (fun p => p.1 != k)

/-- Write `v` at `k` in a table whose unlisted entries read as `d`. -/
def SMap.put {α : Type} [DecidableEq α] (d : α) (m : SMap α) (k : Nat) (v : α) : SMap α :=
  if v = d then SMap.erase m k else SMap.set m k v

/-- Change the entry at `k` of a table whose unlisted entries read as `d`. -/
def SMap.on {α : Type} [DecidableEq α] (d : α) (m : SMap α) (k : Nat) (f : α → α) : SMap α :=
  SMap.put d m k (f (SMap.getD m k d))

/-- Change the entry at `k` where one is listed. -/
def SMap.upd {α : Type} (m : SMap α) (k : Nat) (f : α → α) : SMap α :=
  m.map (fun e => if e.1 = k then (e.1, f e.2) else e)

/-- The canonical form: indices strictly rising. -/
abbrev SMap.wf {α : Type} (m : SMap α) : Prop := List.Pairwise (fun p q => p.1 < q.1) m

/-- The canonical form of a table whose unlisted entries read as `d`: no listed entry equals `d`. -/
abbrev SMap.wfD {α : Type} [DecidableEq α] (d : α) (m : SMap α) : Prop := SMap.wf m ∧ ∀ p ∈ m, p.2 ≠ d

end Sys2Proof
end

