-- ==== Sys2Proof/Machine/Operands.lean ====
section
/-! DEFINITION. The operand forms: fields of an SQ entry (R91, R95), flash addresses (R10, R22), die types of a LUN
(R158, R160), and the validation of a command at fetch (R97). -/

namespace Sys2Proof.Machine

/-! ## Flash addresses (R10) -/

/-- INSTANCE of a flash address. -/
def faInst (a : BitVec 64) : Nat := fld a 53 11
/-- CHANNEL of a flash address. -/
def faChan (a : BitVec 64) : Nat := fld a 48 5
/-- LUN index CH × 16 + CE × 2 + LUN (R22). -/
def faLun (a : BitVec 64) : Nat := fld a 44 9
/-- PLANE of a flash address. -/
def faPlane (a : BitVec 64) : Nat := fld a 42 2
/-- BLOCK of a flash address. -/
def faBlock (a : BitVec 64) : Nat := fld a 26 16
/-- PAGE of a flash address. -/
def faPage (a : BitVec 64) : Nat := fld a 14 12
/-- CODEWORD of a flash address. -/
def faCw (a : BitVec 64) : Nat := fld a 12 2
/-- The address with another PLANE. -/
def faWithPlane (a : BitVec 64) (p : Nat) : BitVec 64 := setFld a 42 2 p
/-- The address with another BLOCK. -/
def faWithBlock (a : BitVec 64) (b : Nat) : BitVec 64 := setFld a 26 16 b
/-- The address with another PAGE. -/
def faWithPage (a : BitVec 64) (p : Nat) : BitVec 64 := setFld a 14 12 p
/-- The address with CODEWORD set. -/
def faWithCw (a : BitVec 64) (c : Nat) : BitVec 64 := setFld a 12 2 c
/-- A flash address from its fields. -/
def mkFa (inst lun plane block page : Nat) : BitVec 64 :=
  BitVec.ofNat 64 ((inst % 2048) <<< 53 ||| (lun % 512) <<< 44 ||| (plane % 4) <<< 42 ||| (block % 65536) <<< 26 |||
    (page % 4096) <<< 14)
/-- Channel of a LUN index (R22). -/
def lunChan (l : Nat) : Nat := l / 16

/-! ## SQ entries (R91) -/

/-- The little-endian field of `len` bytes at byte `off` of an SQ entry. -/
def ent (e : BitVec 512) (off len : Nat) : Nat := fld e (8 * off) (8 * len)
/-- OP. -/
def entOp (e : BitVec 512) : Nat := ent e 0 1
/-- FLAGS.NO_REFIRE. -/
def entNoRefire (e : BitVec 512) : Bool := bit e 8
/-- FLAGS.NO_SOFT. -/
def entNoSoft (e : BitVec 512) : Bool := bit e 9
/-- FLAGS.QUIET. -/
def entQuiet (e : BitVec 512) : Bool := bit e 10
/-- CMD_ID. -/
def entCmdId (e : BitVec 512) : Nat := ent e 2 2
/-- FLOW. -/
def entFlow (e : BitVec 512) : Nat := ent e 4 3
/-- URG_CLASS. -/
def entUrg (e : BitVec 512) : Nat := fld e 56 2
/-- FLASH_ADDR. -/
def entAddr (e : BitVec 512) : BitVec 64 := BitVec.ofNat 64 (ent e 8 8)
/-- CHAIN. -/
def entChain (e : BitVec 512) : Nat := ent e 16 8
/-- COUNT. -/
def entCount (e : BitVec 512) : Nat := ent e 24 4
/-- DEADLINE. -/
def entDeadline (e : BitVec 512) : Nat := ent e 28 4
/-- OWN (R92). -/
def entOwn (e : BitVec 512) : Bool := bit e 511

/-- The row of R95 that OP names. -/
def opOf (b : Nat) : Op :=
  if b = 0x01 then .read else if b = 0x02 then .readScan else if b = 0x03 then .readSherd
  else if b = 0x04 then .readStream else if b = 0x10 then .program else if b = 0x11 then .programSlc
  else if b = 0x12 then .fold else if b = 0x20 then .erase else if b = 0x30 then .raw else if b = 0x40 then .cancel
  else if b = 0x41 then .ringFence else if b = 0x60 then .calibrate else if b = 0x61 then .patrolNow
  else if b = 0x70 then .nvsSync else if b = 0x7E then .nop else .unknown

/-- CW_MASK of a READ, READ_SCAN or READ_STREAM; every codeword where the opcode has none. -/
def entCwMask (op : Op) (e : BitVec 512) : BitVec 4 :=
  match op with
  | .read => BitVec.ofNat 4 (ent e 32 1)
  | .readScan => BitVec.ofNat 4 (ent e 34 1)
  | .readStream => BitVec.ofNat 4 (ent e 34 1)
  | _ => 0xF

/-- PRED_ID (R95). -/
def entPredId (e : BitVec 512) : Nat := ent e 32 2 % 4096
/-- RESULT_ADDR (R95). -/
def entResultAddr (e : BitVec 512) : Nat := ent e 40 8
/-- RAW LENGTH (R95). -/
def entRawLen (e : BitVec 512) : Nat := ent e 36 4
/-- RAW DIR: host to die. -/
def entRawOut (e : BitVec 512) : Bool := bit e 272
/-- NO_SHERD of a PROGRAM. -/
def entNoSherd (e : BitVec 512) : Bool := bit e 288
/-- FOLD SRC_BLOCKk. -/
def entSrcBlock (e : BitVec 512) (k : Nat) : Nat := ent e (32 + 2 * k) 2
/-- FOLD SRC_PAGEk. -/
def entSrcPage (e : BitVec 512) (k : Nat) : Nat := ent e (40 + 2 * k) 2 % 4096
/-- WSEQ of a PROGRAM or FOLD. -/
def entWseq (op : Op) (e : BitVec 512) : Nat := if op = .fold then ent e 48 2 else ent e 32 2
/-- TAG_FLAGS of a PROGRAM or FOLD. -/
def entTagFlags (op : Op) (e : BitVec 512) : Nat := if op = .fold then ent e 50 2 else ent e 34 2
/-- The command binds a predicate (R103, R282). -/
def bindsPred (op : Op) (e : BitVec 512) : Bool := op == .readScan || (op == .readStream && bit e 280)

/-- The opcode addresses a die (R29). -/
def opAddressed : Op → Bool
  | .cancel | .ringFence | .nvsSync | .nop | .unknown => false
  | _ => true

/-- The opcode reads pages under READ's rules. -/
def opReads : Op → Bool
  | .read | .readScan | .readSherd | .readStream => true
  | _ => false

/-- The opcode programs pages from a chain. -/
def opPrograms : Op → Bool
  | .program | .programSlc => true
  | _ => false

/-- The opcode can be the target of a CANCEL (R107). -/
def opCancellable : Op → Bool
  | .cancel | .ringFence | .nvsSync | .nop | .unknown => false
  | _ => true

/-- How many unit entries the command takes at fetch (R314); READ_STREAM and PATROL_NOW take theirs later. -/
def unitsAtFetch (op : Op) (e : BitVec 512) : Nat :=
  match op with
  | .read | .readScan | .readSherd | .program | .programSlc | .erase | .fold | .raw => entCount e
  | _ => 0

/-- The unit address of unit `u` (R96): consecutive pages, or consecutive blocks for ERASE. -/
def unitAddr (op : Op) (e : BitVec 512) (u : Nat) : BitVec 64 :=
  let a := entAddr e
  match op with
  | .erase => faWithBlock a (faBlock a + u)
  | .read | .readScan | .readSherd | .program | .programSlc => faWithPage a (faPage a + u)
  | _ => a

/-- KIND of the command's unit entries (R315). -/
def unitKind : Op → UKind
  | .read => .read
  | .readScan => .readScan
  | .readSherd => .readSherd
  | .readStream => .readStream
  | .program => .program
  | .programSlc => .programSlc
  | .fold => .fold
  | .erase => .erase
  | .raw => .raw
  | .patrolNow => .patrol
  | _ => .internal

/-! ## Die types -/

/-- The die type of a LUN that a binding and the die check have left bound (R23, R158, R161). -/
def dieOf (s : State) (l : Nat) : Option DieType :=
  match SMap.get? s.luns l with
  | some u => if u.absent then none else u.die.bind (fun d => s.img.dies[d]?)
  | none => none

/-- ENTRY[i] of a die type, where it names a step (R160). -/
def dieEntry (d : DieType) (i : Nat) : Option Nat :=
  match d.entry[i]? with
  | some e => if e < 6144 then some e else none
  | none => none

/-- CELL.BUSHEL (R158). -/
def dieBushel (d : DieType) : Bool := bit d.cell 2

/-- The LUN's die supports every decoded operation (R2, R161). -/
def lunBushel (s : State) (l : Nat) : Bool :=
  match dieOf s l with
  | some d => dieBushel d
  | none => false

/-- G of R222. -/
def groupShift (d : DieType) : Nat := if d.blocks ≤ 4096 then 6 else Nat.log2 (d.blocks - 1) + 1 - 6
/-- The block group of a block (R222). -/
def blockGroup (d : DieType) (block : Nat) : Nat := (block >>> groupShift d) % 64

/-! ## Validation (R97) -/

/-- The bits of an SQ entry below the OPERAND bytes that may be nonzero, as (first bit, length) (R91, R95). -/
def entCommonBits (op : Op) : List (Nat × Nat) :=
  [(0, 8), (8, 3), (16, 16), (32, 24), (56, 2), (192, 32), (224, 32), (511, 1)] ++
    (if opAddressed op then (if op = .erase then [(90, 38)] else [(78, 50)]) else []) ++
    (match op with
     | .read | .readScan | .readSherd | .readStream | .program | .programSlc | .raw => [(128, 64)]
     | _ => [])

/-- The OPERAND bits that may be nonzero, as (first bit, length) (R95). -/
def entOperandBits : Op → List (Nat × Nat)
  | .read => [(256, 4)]
  | .readScan => [(256, 12), (272, 4), (320, 64)]
  | .readStream => [(256, 12), (272, 4), (280, 1)]
  | .program => [(256, 16), (272, 16), (288, 1)]
  | .programSlc => [(256, 16), (272, 16), (288, 1)]
  | .fold => [(256, 64), (320, 12), (336, 12), (352, 12), (368, 12), (384, 16), (400, 16)]
  | .raw => [(256, 16), (272, 1), (288, 32), (320, 128)]
  | .cancel => [(256, 8), (272, 16)]
  | .ringFence => [(256, 1)]
  | .calibrate => [(256, 8)]
  | .nvsSync => [(256, 2)]
  | _ => []

/-- The bits of `ranges`, as a mask. -/
def rangeMask (ranges : List (Nat × Nat)) : Nat := ranges.foldl (fun m r => m ||| ((2 ^ r.2 - 1) <<< r.1)) 0

/-- Every must-be-zero bit of the entry is zero (R91, R95). -/
def mbzOk (op : Op) (e : BitVec 512) : Bool :=
  (e.toNat ||| rangeMask (entCommonBits op ++ entOperandBits op)) == rangeMask (entCommonBits op ++ entOperandBits op)

/-- COUNT within its range (R95). -/
def countOk (op : Op) (n : Nat) : Bool :=
  match op with
  | .read | .readScan | .readSherd => 1 ≤ n && n ≤ 4096
  | .readStream => 1 ≤ n && n ≤ 16777216
  | .program | .programSlc => 1 ≤ n && n ≤ 256
  | .fold | .raw => n == 1
  | .erase => 1 ≤ n && n ≤ 64
  | .patrolNow => 1 ≤ n && n ≤ 65536
  | _ => n == 0

/-- The fields that do not depend on the die type (R97, first part). -/
def fieldsOk (op : Op) (e : BitVec 512) : Bool :=
  op != .unknown && mbzOk op e && countOk op (entCount e) &&
  (match op with
   | .read | .readScan | .readSherd | .readStream | .program | .programSlc =>
     entChain e % 32 == 0 && entChain e != 0
   | .raw =>
     ent e 32 2 < 6144 && entRawLen e ≤ 1048576 &&
       (if entRawLen e = 0 then entChain e == 0 else entChain e % 32 == 0 && entChain e != 0)
   | _ => true) &&
  (match op with
   | .read | .readStream => entCwMask op e != 0
   | .readScan => entCwMask op e != 0 && entResultAddr e % 8 == 0
   | .calibrate => ent e 32 1 ≤ 2
   | .fold => faPage (entAddr e) % 4 == 0
   | _ => true)

/-- The page and block ranges, the plane and the needed schedules against the die type (R97, second part). -/
def dieOk (d : DieType) (op : Op) (e : BitVec 512) : Bool :=
  let a := entAddr e
  faPlane a < d.planes &&
  if op = .raw then true else
  dieBushel d &&
  (match op with
   | .calibrate | .patrolNow => true
   | _ => faBlock a < d.blocks) &&
  (match op with
   | .read | .readScan | .readSherd => faPage a + entCount e ≤ d.pages
   | .readStream =>
     faPage a < d.pages && faBlock a * d.pages + faPage a + entCount e ≤ d.blocks * d.pages
   | .program => faPage a + entCount e ≤ d.pages
   | .programSlc => faPage a + entCount e ≤ d.slcPages && (dieEntry d 14).isSome
   | .erase => faBlock a + entCount e ≤ d.blocks
   | .fold =>
     faPage a + 3 < d.pages && fld d.cell 0 2 == 3 &&
       (List.range 4).all (fun k => entSrcPage e k < d.slcPages && entSrcBlock e k < d.blocks) &&
       (dieEntry d 15).isSome && (dieEntry d 16).isSome && (dieEntry d 17).isSome
   | .calibrate => faBlock a < d.blocks
   | _ => true)

/-- The command passes the checks of R97 that are made at fetch; those on a remote die are left to its owner. -/
def entryValid (s : State) (op : Op) (e : BitVec 512) : Bool :=
  fieldsOk op e &&
  (if opAddressed op && faInst (entAddr e) == s.sys.instance_.toNat then
     match dieOf s (faLun (entAddr e)) with
     | none => false
     | some d => dieOk d op e
   else true)

end Sys2Proof.Machine
end

