-- ==== Sys2Proof/Machine/Ops.lean ====
section
/-! DEFINITION. The shared operations: when the block runs, raising an interrupt source (R435), HDP requests (R54-R58),
ledger entries and generations (R314-R320), free values (log 7). Family files build on these. -/

namespace Sys2Proof.Machine

/-- The outcome of every meaning. -/
abbrev Res := Host.Outcome State Fault Refusal

/-- An event that can occur only under `c`: otherwise nothing changes (log 10). -/
def onlyIf (c : Bool) (f : State → State) (s : State) : Res := .next (if c then f s else s)

/-- A core reset is asserted (R53, R76). -/
def State.inReset (s : State) : Bool := s.sys.coldLow || s.sys.warmLow

/-- The core runs: no reset asserted, in Fire, no exit in progress (R408, R418). -/
def State.live (s : State) : Bool := !s.inReset && s.pwr.st == .fire && !s.pwr.exiting

/-- An HCP access is served: no reset asserted, in Fire or Soak (R52, R53, R413). -/
def State.hcpLive (s : State) : Bool := !s.inReset && (s.pwr.st == .fire || s.pwr.st == .soak)

/-- The core runs and the ledger is not halted by a double-bit error (R338). -/
def State.going (s : State) : Bool := s.live && !s.ldg.halted

/-- TIME_NS as a number. -/
abbrev State.now (s : State) : Nat := s.time.ns.toNat

/-- TIME_NS `n` ns from now. -/
def State.after (s : State) (n : Nat) : Ns := s.time.ns + BitVec.ofNat 64 n

/-- At least `n` ns of TIME_NS have passed since `t`. -/
def State.passed (s : State) (t : Ns) (n : Nat) : Bool := n ≤ (s.time.ns - t).toNat

/-- The due time `t` has arrived (R425). -/
def State.reached (s : State) (t : Ns) : Bool := (s.time.ns - t).toNat < 2 ^ 63

/-- The peer sync port and the host die temperature stay in service in Soak and Bank (R410, R416). -/
def State.awake (s : State) : Bool :=
  !s.inReset && (s.pwr.st == .fire || s.pwr.st == .soak || s.pwr.st == .bank)

/-- Soak or Bank, out of reset: an event of the delay list or of a poll timer is then a wake event (R414). -/
def State.dozing (s : State) : Bool := !s.inReset && (s.pwr.st == .soak || s.pwr.st == .bank)

/-- What runs at the serial device: the re-erase of a sector (R392), or the operation in hand. -/
def Spm.device (m : Spm) : Option SpmOp :=
  match m.erasing with
  | some o => some o
  | none => m.op

/-- The serial device answers a read: no program or erase runs, or it is suspended (R389, R391). -/
def Spm.readable (m : Spm) : Bool :=
  m.leftover.isNone && (match m.device with
    | some o => !o.devBusy || o.suspended
    | none => true)

/-- A wake event: in Soak or Bank the exit to Fire starts (R414, R415), it is latched for WAKE_CAUSE, BB_EN falls, and PWR_REQ
follows at an AONCLK edge; in Fire the idle timers restart (R417). -/
def State.wake (cause : Nat) (s : State) : State :=
  if s.pwr.st = .soak ∨ s.pwr.st = .bank then
    s.onPwr (fun p => { p with exiting := true, latched := p.latched ||| BitVec.ofNat 8 (2 ^ cause), bbEn := false })
  else if s.pwr.st = .fire then s.onPwr (fun p => { p with idleSince := none })
  else s

/-- An HCP access that is served, one at a time (R52): it ends with HCP_ERR = 0, and `f` is its effect. -/
def hcpAccess (f : State → State) (s : State) : Res :=
  onlyIf (s.hcpLive && s.hcp.withheld.isNone && s.spm.waiting.isNone) (fun s =>
    f (s.onHcp (fun h => { h with rdata := 0, err := false, last := s.time.ns }))) s

/-- A write `f`; where `c` says that it starts an action, it is a wake event in Soak (R414). -/
def State.actionWrite (c : State → Bool) (f : State → State) (s : State) : State := if c s then (f s).wake 5 else f s

/-- An access that writes a register whose writes start actions. -/
def hcpAction (c : State → Bool) (f : State → State) (s : State) : Res := hcpAccess (·.actionWrite c f) s

/-! ## Interrupt sources -/

/-- A rising edge on source line `n` (R435). In Soak and Bank the controller is stopped: the edge is latched, and its
bit is set as the controller restarts (R442). Sources 58-63 never rise (R436). -/
def State.raise (n : Nat) (s : State) : State :=
  if n < 58 then
    s.onIrq (fun q =>
      if s.pwr.st = .soak ∨ s.pwr.st = .bank then { q with late := q.late ||| (1 <<< n) }
      else { q with pend := q.pend ||| (1 <<< n) })
  else s

/-- Draw a free value (log 7). -/
def State.drawFree (s : State) : BitVec 64 × State := (Config.freeValue s.freeCtr, s.onFreeCtr (· + 1))

/-- Draw `n` free bytes (log 7). -/
def State.drawBytes (n : Nat) (s : State) : List Byte × State :=
  (((List.range ((n + 7) / 8)).map (fun k => leBytes 8 (Config.freeValue (s.freeCtr + k)).toNat)).flatten.take n,
    s.onFreeCtr (· + (n + 7) / 8))

/-! ## Delay-list events (R157, R318) -/

/-- An event that falls due at `t` and is addressed to a ledger entry, where `ix` is one. -/
def State.event (s : State) (ix : Option Nat) (t : Ns) : Event :=
  { due := t, ent := ix.map (fun i => (i, SMap.getD s.ldg.gens i 0)) }

/-- The first 1 µs tick at or after the due time has come (R157). -/
def State.fired (s : State) (e : Option Event) : Bool :=
  match e with
  | some e => s.reached (e.due + BitVec.ofNat 64 ((1000 - e.due.toNat % 1000) % 1000))
  | none => false

/-- The events that a delay list holds. -/
def Events.all (v : Events) : List Event :=
  v.poll.toList ++ v.run.toList ++ v.win.toList ++ v.merge.toList ++ v.backoff.toList ++ v.patrol.toList ++ v.temp.toList

/-- An event has fired and none that comes before it waits: in due-time order, then in order of LUN index (R157). -/
def State.delivers (s : State) (l : Nat) (e : Option Event) : Bool :=
  match e with
  | none => false
  | some x => s.fired e && s.luns.all (fun m => m.2.ev.all.all (fun y =>
      !(s.fired (some y) && (y.due.toNat < x.due.toNat || (y.due == x.due && m.1 < l)))))

/-- A timed event of a thread (R157): its effect while the ledger runs; in Soak and Bank it stands and wakes the instance (R414). -/
def State.onEvent (l : Nat) (e : Option Event) (f : State → State) (s : State) : Res :=
  if s.dozing then onlyIf (s.delivers l e) (·.wake 5) s else onlyIf (s.going && s.delivers l e) f s

/-- The due time `n` ns behind an event; behind one that a sleep has held up it counts from the exit (R412). -/
def State.nextDue (s : State) (e : Event) (n : Nat) : Ns :=
  (match s.time.woke with
    | some w => if (w - e.due).toNat < 2 ^ 63 then w else e.due
    | none => e.due) + BitVec.ofNat 64 n

/-! ## Ledger -/

/-- The unit entry at an index, where one is in use. -/
def State.unit? (s : State) (ix : Nat) : Option LUnit := SMap.get? s.ldg.units ix

/-- The command whose first context entry is at an index. -/
def State.cmd? (s : State) (ctx : Nat) : Option Cmd := SMap.get? s.ldg.cmds ctx

/-- Change the unit entry at an index. -/
def State.onUnit (ix : Nat) (f : LUnit → LUnit) (s : State) : State :=
  s.onLdg (fun l => { l with units := SMap.upd l.units ix f })

/-- Change the command at a first context entry. -/
def State.onCmd (ctx : Nat) (f : Cmd → Cmd) (s : State) : State :=
  s.onLdg (fun l => { l with cmds := SMap.upd l.cmds ctx f })

/-- The GEN that the allocation map holds for an entry (R316, R318). -/
def State.genOf (s : State) (ix : Nat) : BitVec 16 := SMap.getD s.ldg.gens ix 0

/-- The entry is one of the 131,072 and is FREE (R314, R316). -/
def State.isFree (s : State) (ix : Nat) : Bool :=
  ix < 131072 && (s.unit? ix).isNone && !s.ldg.cmds.any (fun c => c.2.ixs.contains ix)

/-- The entry leaves FREE: its GEN is incremented (R318). -/
def State.bumpGen (ix : Nat) (s : State) : State :=
  s.onLdg (fun l => { l with gens := SMap.put 0 l.gens ix (SMap.getD l.gens ix 0 + 1) })

/-- Entries not FREE (R339): one per unit, five per command. -/
def State.inUse (s : State) : Nat := s.ldg.units.length + 5 * s.ldg.cmds.length

/-- An event addressed to an entry whose GEN does not match is discarded and counted (R319). -/
def State.stale (s : State) : State := s.onLdg (fun l => { l with staleCnt := l.staleCnt + 1 })

/-- The GEN of an event is not the entry's current one (R319). -/
def State.staleEvent (s : State) (e : Option Event) : Bool :=
  match e.bind Event.ent with
  | some (ix, gen) => s.genOf ix != gen
  | none => false

/-- What a ledger ECC finding does (R338): a single-bit error is counted, a double-bit error is recorded and halts the
instance with source 1. -/
def State.ecc (e : Ecc) (s : State) : State :=
  match e with
  | .ok => s
  | .single => s.onLdg (fun l => { l with corr := satInc 0xFF l.corr })
  | .double ix =>
    (s.onLdg (fun l =>
      { l with halted := true, faultValid := true,
               faultIndex := if l.faultValid then l.faultIndex else ix % 131072 })).raise 1

/-- A double-bit finding stops the step that met it (R338). -/
def eccHalts : Ecc → Bool
  | .double _ => true
  | _ => false

/-- The states in which a unit has ended (R99, R317). -/
def ended (u : LUnit) : Bool := u.st == .done || u.st == .cancelled

/-- The units of a command in address order, with their ledger indices. -/
def State.unitsOf (s : State) (c : Cmd) : List (Nat × LUnit) :=
  c.units.filterMap (fun ix => (s.unit? ix).map (fun u => (ix, u)))

/-! ## Urgency (R104) -/

/-- U of R104 for an elapsed time in ns and a deadline in µs. -/
def urgOfElapsed (e d : Nat) : Nat :=
  if d = 0 then 0 else if 900 * d ≤ e then 3 else if 750 * d ≤ e then 2 else if 500 * d ≤ e then 1 else 0

/-- URG of the HDP requests of a command: max(URG_CLASS, U). -/
def State.urgOf (s : State) (ctx : Nat) : Nat :=
  match s.cmd? ctx with
  | none => 0
  | some c => max (entUrg c.raw) (urgOfElapsed (s.time.ns - c.fetched).toNat c.deadline)

/-! ## HDP requests (R54-R58) -/

/-- The command whose urgency an HDP read carries (R104): predicate reads carry URG = 0. -/
def RdWhat.ctx? : RdWhat → Option Nat
  | .cons ctx => some ctx
  | .seg (.cmd ctx) | .link (.cmd ctx) | .src (.cmd ctx) _ _ _ _ => some ctx
  | _ => none

/-- The command that an HDP write is made for (R104). -/
def WrWhat.ctx? : WrWhat → Option Nat
  | .cqe ctx | .data ctx _ _ | .record ctx _ _ | .stream ctx | .bitmap ctx => some ctx
  | .segStatus (.cmd ctx) _ | .segFlags (.cmd ctx) _ => some ctx
  | _ => none

/-- A read as it is issued: the elapsed time that counts for its URG is that of the issue (R104). -/
def State.rdNow (s : State) (r : HdpRd) : HdpRd :=
  { r with urg := (match r.what.ctx? with
      | some ctx => s.urgOf ctx
      | none => r.urg) }

/-- A write as it is issued (R104). -/
def State.wrNow (s : State) (w : HdpWr) : HdpWr :=
  { w with urg := (match w.what.ctx? with
      | some ctx => s.urgOf ctx
      | none => w.urg) }

/-- A read tag that no outstanding read holds (R54): the lowest (log 101). -/
def Hdp.freeTag (h : Hdp) : Nat := ((List.range 1024).find? (fun t => !h.reads.any (fun r => r.tag == t))).getD 0

/-- A read goes out with a tag of its own (R54). -/
def Hdp.issue (h : Hdp) (r : HdpRd) : Hdp :=
  { h with reads := h.reads ++ [{ r with tag := h.freeTag, seq := if r.seq = 0 then h.nextSeq else r.seq }],
           nextSeq := h.nextSeq + 1 }

/-- A write goes out. -/
def Hdp.issueWr (h : Hdp) (w : HdpWr) : Hdp :=
  { h with writes := h.writes ++ [{ w with seq := if w.seq = 0 then h.nextSeq else w.seq }], nextSeq := h.nextSeq + 1 }

/-- A read that stands back stays back while its chain is halted (R130). -/
def State.rdHeld (s : State) (r : HdpRd) : Bool :=
  match r.what with
  | .seg (.cmd c) | .link (.cmd c) | .src (.cmd c) _ _ _ _ | .cons c => (SMap.get? s.dma.chains c).any (·.halted)
  | .seg .legSrc | .link .legSrc | .src .legSrc _ _ _ _ => s.dma.leg.srcChain.halted
  | .seg .legDst | .link .legDst | .src .legDst _ _ _ _ => s.dma.leg.dstChain.halted
  | _ => false

/-- Issue a read request. It stands back while the transactions of before a reset drain (R58), and while 1,024 reads
are outstanding (R55). -/
def State.hdpRead (r : HdpRd) (s : State) : State :=
  s.onHdp (fun h =>
    if h.blocked || h.heldReads.any (fun q => !s.rdHeld q) || 1024 ≤ h.reads.length then
      { h with heldReads := h.heldReads ++ [r] }
    else h.issue (s.rdNow r))

/-- Issue a write request; it stands back while the transactions of before a reset drain (R58). -/
def State.hdpWrite (w : HdpWr) (s : State) : State :=
  s.onHdp (fun h =>
    if h.blocked || !h.heldWrites.isEmpty then { h with heldWrites := h.heldWrites ++ [w] }
    else h.issueWr (s.wrNow w))

/-- Take the first element that satisfies `p` out of a list. -/
def takeFirst {α : Type} (p : α → Bool) : List α → Option (α × List α)
  | [] => none
  | a :: r => if p a then some (a, r) else (takeFirst p r).map (fun q => (q.1, a :: q.2))

/-- Reads that stood back for want of a tag are issued as answers come (R55), those of a halted chain excepted (R130). -/
def State.refill (s : State) : State :=
  if s.hdp.blocked then s
  else
    let free := s.hdp.heldReads.filter (fun r => !s.rdHeld r)
    let go := free.take (1024 - s.hdp.reads.length)
    let stay := free.drop (1024 - s.hdp.reads.length)
    s.onHdp (fun h =>
      go.foldl (fun (h : Hdp) r => h.issue (s.rdNow r))
        { h with heldReads := h.heldReads.filter s.rdHeld ++ stay })

/-- The answer to the oldest outstanding read that satisfies `p`: the request, and the state without it. -/
def State.popRead (p : HdpRd → Bool) (s : State) : Option (HdpRd × State) :=
  (takeFirst p s.hdp.reads).map (fun q => (q.1, (s.onHdp (fun h => { h with reads := q.2 })).refill))

/-- The answer to the outstanding read of a tag (R54), where it satisfies `p`. -/
def State.popTag (tag : Nat) (p : HdpRd → Bool) (s : State) : Option (HdpRd × State) :=
  s.popRead (fun r => r.tag == tag && p r)

/-- The acknowledge of the oldest outstanding write of an ID (R58: in issue order). -/
def State.popWrite (id : Nat) (s : State) : Option (HdpWr × State) :=
  (takeFirst (fun w => w.id == id) s.hdp.writes).map (fun q => (q.1, s.onHdp (fun h => { h with writes := q.2 })))

/-- META_COHERENT (R110). -/
def State.metaCoherent (s : State) : Bool := bit s.hif.cfg 2

/-- Record an HDP error on host-interface traffic (R116); while VALID is 1 further errors are not recorded. -/
def State.hifError (kind ring addr : Nat) (s : State) : State :=
  if s.hif.faultValid then s
  else
    (s.onHif (fun h => { h with faultValid := true, faultKind := BitVec.ofNat 2 kind,
                                faultRing := BitVec.ofNat 8 ring, faultAddr := BitVec.ofNat 57 addr })).raise 2

/-! ## Default records of the sparse tables -/

/-- An SQ after a cold reset: disabled (R83). -/
def Sq.off : Sq :=
  { en := false, base := 0, log2 := 0, bind := 0, coherent := false, flowOrder := false, latTarget := 0,
    pollOvr := false, pollPeriod := 0, head := 0, tail := 0, polled := 0, expired := false, notYet := false, fence := none }

/-- A CQ after a cold reset: disabled (R83). -/
def Cq.off : Cq :=
  { en := false, base := 0, log2 := 0, coherent := false, notify := 0, tail := 0, head := 0, held := false }

/-- A channel after a cold reset (R165-R168): CHE_CFG 0x0040020E, personality 0b11, every round-robin pointer at 15. -/
def Chan.init : Chan :=
  { cfg := 0x0040020E, fenced := false, pers := 3, suspCnt := 0, mergeCnt := 0, promoteCnt := 0, busy := 0,
    busyRest := 0, ptrs := [], grant := none, next := none, late := [], passes := [], setup := [] }

/-- A delay list with no event placed (R157). -/
def Events.none : Events :=
  { poll := .none, run := .none, win := .none, merge := .none, backoff := .none, patrol := .none, temp := .none }

/-- A schedule context at its reset value (R301). -/
def SchedCtx.init : SchedCtx :=
  { run := false, pc := 0, a := [0, 0, 0, 0], k := 0, s := 0, c := [0, 0, 0, 0], m := 0 }

/-- A LUN position with no die bound and nothing queued (R167: ABSENT). -/
def Lun.init : Lun :=
  { die := none, absent := true, ext := false, checked := false, readQ := [], orderQ := [], op := none, rd := none,
    cache := none, cacheIx := none, vec := none, vecFor := none, ev := Events.none, pollReq := false, suspReq := false, tempReq := false, tempS := .none,
    resetReq := false, resumeReq := false, holdR := none, holdO := none, sdr := true, sched := SchedCtx.init, rawOpen := none, rawReq := false,
    rawMoved := 0, rawS := [] }

/-- PHY settings at reset (R268-R270). -/
def Phy.init : Phy :=
  { rate := 7, trained := false, calCode := 0x3FF, tapStep := 0x33, rdVref := 0x20, wrVref := 0x20, dcc := 0x10,
    dqsTap := 0x40, retrain := 0, eyes := [], rdTaps := [], wrTaps := [] }

/-- A pair not yet in service. -/
def Pair.init : Pair :=
  { rate := 0, lpddr := false, inService := false, startRate := 0, stepDown := false, alone := none }

/-- A free peck (R170) with the power-on contents of log 4. -/
def Peck.free : Peck :=
  { alloc := false, sense := false, chan := 0, length := 0, kind := 0, flags := 0, entry := 0, gen := 0, cw := 0,
    iter := 0, step := 0, addr := 0, payload := [] }

/-- A queue after a reset (R177, R180): pointers 0, 64 credits. -/
def Queue.init : Queue :=
  { store := [], rptr := 0, rptr2 := 0, wptr := 0, wptr2 := 0, credits := 64, flush := false, closeShort := false }

/-- A channel. -/
def State.chan (s : State) (c : Nat) : Chan := SMap.getD s.che c Chan.init
/-- Change a channel. -/
def State.onChan (c : Nat) (f : Chan → Chan) (s : State) : State := s.onChe (fun m => SMap.on Chan.init m c f)
/-- A LUN position. -/
def State.lun (s : State) (l : Nat) : Lun := SMap.getD s.luns l Lun.init
/-- Change a LUN position. -/
def State.onLun (l : Nat) (f : Lun → Lun) (s : State) : State := s.onLuns (fun m => SMap.on Lun.init m l f)
/-- A PHY slice. -/
def State.phyOf (s : State) (c : Nat) : Phy := SMap.getD s.phy c Phy.init
/-- Change a PHY slice. -/
def State.onPhyOf (c : Nat) (f : Phy → Phy) (s : State) : State := s.onPhy (fun m => SMap.on Phy.init m c f)
/-- A channel pair. -/
def State.pair (s : State) (k : Nat) : Pair := SMap.getD s.pairs k Pair.init
/-- Change a channel pair. -/
def State.onPair (k : Nat) (f : Pair → Pair) (s : State) : State := s.onPairs (fun m => SMap.on Pair.init m k f)
/-- A submission ring. -/
def State.sq (s : State) (i : Nat) : Sq := SMap.getD s.hif.sqs i Sq.off
/-- Change a submission ring. -/
def State.onSq (i : Nat) (f : Sq → Sq) (s : State) : State :=
  s.onHif (fun h => { h with sqs := SMap.on Sq.off h.sqs i f })
/-- A completion ring. -/
def State.cq (s : State) (i : Nat) : Cq := SMap.getD s.hif.cqs i Cq.off
/-- Change a completion ring. -/
def State.onCq (i : Nat) (f : Cq → Cq) (s : State) : State :=
  s.onHif (fun h => { h with cqs := SMap.on Cq.off h.cqs i f })
/-- A peck. -/
def State.peck (s : State) (p : Nat) : Peck := SMap.getD s.pool.pecks p Peck.free
/-- Change a peck. -/
def State.onPeck (p : Nat) (f : Peck → Peck) (s : State) : State :=
  s.onPool (fun q => { q with pecks := SMap.on Peck.free q.pecks p f })

end Sys2Proof.Machine
end

