-- ==== Sys2Proof/Machine/NvsOps.lean ====
section
/-! DEFINITION. The NVS write port (R393-R400): requests in order of R394, what each line holds as its write starts, and
what asks for markers, grown-waster records, health records and snapshots. What a durable line sets off is in Nvs.lean. -/

namespace Sys2Proof.Machine

/-! ## Lines -/

/-- An NVS line; one never written reads zero (log 5). -/
def Nvs.line (n : Nvs) (l : Nat) : BitVec 256 := SMap.getD n.lines l 0

/-- First line of the grown-waster region (R393). -/
def wasterLine : Nat := 4096
/-- First line of the marker ring (R393). -/
def ringLine : Nat := 6144
/-- First line of the health region (R393). -/
def healthRegion : Nat := 14336
/-- First line of a calibration slot (R393). -/
def snapLine (slot : Bool) : Nat := if slot then 2048 else 0

/-- LOC of a block (R333), CAUSE zero. -/
def locOf (a : BitVec 64) : Nat := faLun a + faPlane a <<< 9 + faBlock a <<< 11

/-- 28 bytes and their CRC, as a line (R395, R397). -/
def withCrc (bs : List Byte) : BitVec 256 :=
  BitVec.ofNat 256 (leNat (bs ++ leBytes 4 (Codec.crc32c bs).toNat))

/-- A marker line (R395). -/
def markerLine (seq kind : Nat) (carried : Bool) (page loc : Nat) : BitVec 256 :=
  withCrc (leBytes 4 seq ++ leBytes 1 kind ++ leBytes 1 carried.toNat ++ leBytes 2 page ++ leBytes 4 loc ++ zeros 16)

/-- A health record (R397). -/
def healthRecord (h : Health) : BitVec 256 :=
  withCrc (leBytes 4 h.seq.toNat ++ leBytes 4 h.boot.toNat ++ leBytes 4 h.epoch.toNat ++ leBytes 4 h.hours.toNat ++
    leBytes 4 h.grown.toNat ++ leBytes 4 h.consol.toNat ++ zeros 4)

/-- The four words of a line. -/
def lineWords (w : BitVec 256) : List Nat := (List.range 4).map (fun k => fld w (64 * k) 64)

/-- A grown-waster word (R333, R398): GROWN = 1. -/
def wasterWord (loc cause : Nat) : Nat := loc + cause <<< 27 + 1 <<< 32

/-- The first word of the grown-waster region that reads zero, as (line, word). -/
def Nvs.freeWord (n : Nvs) : Option (Nat × Nat) :=
  ((List.range 2048).findSome? (fun i =>
    ((List.range 4).find? (fun k => fld (n.line (wasterLine + i)) (64 * k) 64 == 0)).map (fun k => (wasterLine + i, k))))

/-- Records in the grown-waster region (R335, R341). -/
def Nvs.records (n : Nvs) : Nat :=
  ((n.lines.filter (fun e => wasterLine ≤ e.1 && e.1 < ringLine)).map (fun e =>
    ((lineWords e.2).filter (· != 0)).length)).sum

/-! ## Snapshots (R399) -/

/-- A signed byte of a table. -/
def tableByte (m : SMap Int) (k : Nat) : Byte := BitVec.ofInt 8 (SMap.getD m k 0)

/-- The bytes of snapshot line `k`, 0 to 1,088, as the values stand now. -/
def State.snapBytes (s : State) (gen : Word) (k : Nat) : List Byte :=
  if k = 0 then leBytes 4 gen.toNat ++ leBytes 2 1090 ++ leBytes 2 1 ++ leBytes 8 s.time.ns.toNat ++ zeros 16
  else if k ≤ 1024 then (List.range 32).map (fun i => tableByte s.cal.d (32 * (k - 1) + i))
  else if k ≤ 1040 then (List.range 32).map (fun i => tableByte s.cal.t (32 * (k - 1025) + i))
  else if k ≤ 1056 then (List.range 32).map (fun i => tableByte s.cal.tCal (32 * (k - 1041) + i))
  else
    let p := s.phyOf (k - 1057)
    (List.range 8).map (fun d => BitVec.ofNat 8 ((p.rdTaps[d]?).getD 0x40)) ++
      (List.range 8).map (fun d => BitVec.ofNat 8 ((p.wrTaps[d]?).getD 0x40)) ++
      leBytes 1 p.rdVref.toNat ++ leBytes 1 p.wrVref.toNat ++ leBytes 1 p.dcc.toNat ++ leBytes 1 p.dqsTap.toNat ++
      leBytes 1 p.rate ++ zeros 1 ++ leBytes 2 p.calCode.toNat ++ zeros 8

/-- The slot a snapshot is written to (R400): the one that does not hold the newest valid snapshot; slot A where neither
is valid (log 15). -/
def Nvs.snapTarget (n : Nvs) : Bool := if n.snapValid then !n.snapSlot else false

/-! ## The write port (R394) -/

/-- Order of writes: markers, then grown-waster records, then health lines, then snapshot lines. -/
def NvsWhat.prio : NvsWhat → Nat
  | .marker _ _ => 0
  | .waster _ => 1
  | .clear => 1
  | .health => 2
  | .snapshot _ => 3

/-- The write is of a grown-waster record. -/
def NvsWhat.isWaster (w : NvsWhat) : Bool :=
  match w with
  | .waster _ => true
  | _ => false

/-- The request to write next: the first of the foremost kind. -/
def nvsPick (q : List NvsReq) : Option NvsReq :=
  q.foldl (fun (b : Option NvsReq) r =>
    match b with
    | some a => if r.what.prio < a.what.prio then some r else some a
    | none => some r) none

/-- The open marker on the ring line behind the one to be written next (R396). -/
def Nvs.inTheWay (n : Nvs) : Option OpenMark := n.opens.find? (fun m => m.line == ringLine + (n.markLine + 1) % 8192)

/-- A request as its write starts: its line and contents. A marker takes the next SEQ and ring line; an open marker that
stands behind that line is written again first with CARRIED = 1 (R396). Clearing leaves only the records of blocks that the image
does not hold yet (R387, R398). -/
def State.nvsPrepare (s : State) (r : NvsReq) : Option NvsReq :=
  let n := s.nvs
  match r.what with
  | .marker _ kind =>
    let seq := n.markHead.toNat + 1
    some { r with line := ringLine + n.markLine,
                  data := markerLine (seq % 2 ^ 32) kind (fld r.data 40 1 == 1) (fld r.data 48 16) (fld r.data 64 32) }
  | .waster _ =>
    n.freeWord.map (fun w =>
      { r with line := w.1, data := setFld (n.line w.1) (64 * w.2) 64 (fld r.data 0 64) })
  | .clear =>
    let keep (w : Nat) : Nat :=
      if w.testBit 32 && s.ldg.wasters.any (fun e => !e.consolidated && locOf (mkFa 0 e.lun e.plane e.block 0) == w % 2 ^ 27) then w
      else 0
    let ws := ((lineWords (n.line r.line)).zip (List.range 4)).foldl
      (fun (d : BitVec 256) (q : Nat × Nat) => setFld d (64 * q.2) 64 (keep q.1)) 0
    some { r with data := ws }
  | .health =>
    let h := { n.health with seq := n.health.seq + 1 }
    some { r with line := healthRegion + n.healthLine, data := healthRecord h }
  | .snapshot k =>
    let bytes := if k = 1089 then
        leBytes 4 n.snapNew.toNat ++ leBytes 4 (n.snapCrc ^^^ 0xFFFFFFFF#32).toNat ++ zeros 24
      else s.snapBytes n.snapNew k
    some { r with line := snapLine n.snapTarget + k, data := BitVec.ofNat 256 (leNat bytes) }

/-- Start the next write, one at a time (R394). -/
def State.nvsStart (s : State) : State :=
  if s.nvs.running.isSome then s
  else
    match nvsPick s.nvs.queue with
    | none => s
    | some r =>
      match r.what, s.nvs.inTheWay with
      | .marker _ _, some m =>
        match s.nvsPrepare
            { id := s.nvs.reqs, what := .marker none m.kind, line := 0,
              data := markerLine 0 m.kind true m.page m.loc, fails := 0 } with
        | some c => s.onNvs (fun n => { n with reqs := n.reqs + 1, running := some c })
        | none => s
      | _, _ =>
        let s := s.onNvs (fun n => { n with queue := n.queue.filter (fun q => q.id != r.id) })
        match s.nvsPrepare r with
        | some p => s.onNvs (fun n => { n with running := some p })
        | none => s

/-- Request a write. -/
def State.nvsAsk (what : NvsWhat) (line : Nat) (data : BitVec 256) (s : State) : State :=
  (s.onNvs (fun n =>
    { n with reqs := n.reqs + 1,
             queue := n.queue ++ [{ id := n.reqs, what := what, line := line, data := data, fails := 0 }] })).nvsStart

/-- Request a marker (R27, R386, R395). -/
def State.nvsMarker (unit : Option Nat) (kind loc page : Nat) (s : State) : State :=
  s.nvsAsk (.marker unit kind) 0 (markerLine 0 kind false page loc)

/-- A unit's marker is written again (R329): a request of it whose write has not begun gives way. -/
def State.nvsMarkerAgain (ix kind loc page : Nat) (s : State) : State :=
  let mine (r : NvsReq) : Bool := r.what == .marker (some ix) kind
  (s.onNvs (fun n => { n with queue := n.queue.filter (fun r => !mine r), retry := n.retry.filter (fun r => !mine r) })).nvsMarker
    (some ix) kind loc page

/-- Request an update of the health record (R397). -/
def State.nvsHealth (f : Health → Health) (s : State) : State :=
  (s.onNvs (fun n => { n with health := f n.health })).nvsAsk .health 0 0

/-- A block becomes a grown waster (R334, R335): in the table at once, unless that is full; its record is requested where the
region has room for it behind those already asked for; source 56 rises. -/
def State.growWaster (ix : Option Nat) (a : BitVec 64) (cause : Nat) (s : State) : State :=
  let known := s.ldg.wasters.any (fun w => w.lun == faLun a && w.plane == faPlane a && w.block == faBlock a)
  if known then s
  else if 65536 ≤ s.ldg.wasters.length then s.onLdg (fun l => { l with wasterFull := true })
  else
    let s := s.onLdg (fun l =>
      { l with wasters := l.wasters ++ [{ lun := faLun a, plane := faPlane a, block := faBlock a, cause := cause,
                                          grown := true, consolidated := false }] })
    let s := s.raise 56
    let queued := (s.nvs.queue ++ s.nvs.retry ++ s.nvs.running.toList).countP (fun r => r.what.isWaster)
    if s.nvs.records + queued < 8192 then
      s.nvsAsk (.waster ix) 0 (BitVec.ofNat 256 (wasterWord (locOf a) cause))
    else s

/-- An NVS write of a unit that the completion waits for (R27, R153, R334). -/
def State.nvsOwes (s : State) (ix : Nat) : Bool :=
  (s.nvs.queue ++ s.nvs.retry ++ s.nvs.running.toList).any (fun r =>
    match r.what with
    | .marker (some i) _ => i == ix
    | .waster (some i) => i == ix
    | _ => false)

/-- A snapshot is wanted; a request while one waits or runs joins the next (R400). -/
def State.wantSnapshot (s : State) : State := s.onNvs (fun n => { n with snapWant := true })

/-- NVS_CFG.AUTO_SNAP takes a snapshot after a completed training or a converged relearn (R400). -/
def State.autoSnapshot (s : State) : State := if bit s.nvs.cfg 0 then s.wantSnapshot else s

end Sys2Proof.Machine
end

