-- ==== Sys2Proof/Machine/PoolOps.lean ====
section
/-! DEFINITION. The channel queues (R177-R185): lines, packets, credits, flush and reset. The peck pool: counts,
allocation requests and release (R170-R175). -/

namespace Sys2Proof.Machine

/-! ## Queues -/

/-- The queue is empty (R177). -/
def Queue.empty (q : Queue) : Bool := q.rptr == q.wptr
/-- The queue is full: the pointers differ in the pass bit alone (R177). -/
def Queue.full (q : Queue) : Bool := q.rptr ^^^ q.wptr == 64
/-- Lines in the queue. -/
def Queue.depth (q : Queue) : Nat := (q.wptr - q.rptr).toNat
/-- The two copies of a pointer differ (R185). -/
def Queue.differs (q : Queue) : Bool := q.rptr != q.rptr2 || q.wptr != q.wptr2

/-- The producer writes a line, where it holds a credit, and spends it (R180). -/
def Queue.push (l : QLine) (q : Queue) : Queue :=
  if q.credits = 0 then q
  else { q with store := SMap.set q.store (q.wptr.toNat % 64) l, wptr := q.wptr + 1, wptr2 := q.wptr2 + 1,
                credits := q.credits - 1 }

/-- The consumer takes a line out, which returns its credit (R180); an empty queue gives none. -/
def Queue.pop (q : Queue) : Queue :=
  if q.empty then q else { q with rptr := q.rptr + 1, rptr2 := q.rptr2 + 1, credits := q.credits + 1 }

/-- The line last taken out of the queue, which a read of an empty queue returns in service mode (R182). -/
def Queue.lastTaken (q : Queue) : Option QLine := SMap.get? q.store ((q.rptr - 1).toNat % 64)

/-- Lines pass the queue: at most 16 stand in it before the first is taken (R181), and each further one is pushed as one
is taken. -/
def Queue.pass (ls : List QLine) (q : Queue) : Queue :=
  let q := (ls.take 16).foldl (fun (q : Queue) l => q.push l) q
  let q := (ls.drop 16).foldl (fun (q : Queue) l => (q.pop).push l) q
  (ls.take 16).foldl (fun (q : Queue) _ => q.pop) q

/-- A flush takes effect (R184): every line still queued is discarded, the pointers are equal, the credits return to 64,
and the producer resumes. -/
def Queue.flushed (q : Queue) : Queue :=
  { q with rptr := q.wptr, rptr2 := q.wptr2, credits := 64, flush := false, closeShort := false }

/-- A flush is requested (R184): the producer closes the packet it has open, where `busy` says that it has one. -/
def Queue.ask (busy : Bool) (q : Queue) : Queue := { q with flush := true, closeShort := q.closeShort || busy }

/-- A queue reset by a pointer mismatch (R185); a flush that was requested still takes effect. -/
def Queue.reset (q : Queue) : Queue := { Queue.init with flush := q.flush }

/-- The bytes of a packet behind its header slot of 24 bytes, cut into lines of 128, the last one padded with zeros; the
first line holds LENGTH in the header slot where the core pushes it, and zeros where the PHY does (R178, R179). The slot header's LENGTH
of a program peck is not the number of bytes at the pins: DESIGN CHOICE (log 136), the header slot carries the packet's own. -/
def packetQ (egress short flushed : Bool) (bytes : List Byte) : List QLine :=
  let all := pad 24 (if egress then leBytes 2 bytes.length else []) ++ bytes
  let n := (all.length + 127) / 128
  (List.range n).map (fun j =>
    let last := j + 1 == n
    { bytes := pad 128 (slice all (128 * j) 128), valid := if last then all.length - 128 * j else 128, first := j == 0,
      last := last, short := last && short, flushed := last && flushed })

/-- The bytes that lie behind the header slot of a packet's lines (R179): LENGTH of them. -/
def packetBytes (ls : List QLine) : List Byte :=
  ((ls.map (fun l => l.bytes.take l.valid)).flatten).drop 24

/-! ## Counts -/

/-- h_c of R174: pecks channel `c` holds, sense pecks not counted. -/
def Pool.held (p : Pool) (c : Nat) : Nat := p.pecks.countP (fun e => e.2.alloc && !e.2.sense && e.2.chan == c)
/-- Pecks allocated, of either kind. -/
def Pool.taken (p : Pool) : Nat := p.pecks.countP (fun e => e.2.alloc)
/-- SOFT_FREE of R174. -/
def Pool.softFree (p : Pool) : Nat := 8 - p.pecks.countP (fun e => e.2.alloc && e.2.sense)
/-- F of R174: free pecks outside the soft reserve. -/
def Pool.free (p : Pool) : Nat := 2048 - p.taken - p.softFree
/-- The reserves still owed: Σ max(0, 16 − h_d) (R174). -/
def Pool.owed (p : Pool) : Nat := ((List.range 32).map (fun d => 16 - p.held d)).sum
/-- SHARED_FREE of R174. -/
def Pool.sharedFree (p : Pool) : Nat := p.free - p.owed
/-- A request of `k` pecks by channel `c` is granted (R174). -/
def Pool.grants (p : Pool) (c k : Nat) : Bool :=
  p.held c + k ≤ 192 && k ≤ (16 - p.held c) + p.sharedFree

/-- Open folds on a channel (R154, R166): those that hold their pecks, from admission to completion. -/
def State.foldsOn (s : State) (c : Nat) : Nat :=
  s.ldg.units.countP (fun e => e.2.kind == .fold && e.2.bundle.isNone && e.2.chan == c && !e.2.pecks.isEmpty)

/-- Open folds in the instance (R154, R187). -/
def State.foldsOpen (s : State) : Nat := ((List.range 32).map s.foldsOn).sum

/-- The allocation queue of a channel (R175). -/
def Pool.queueOf (p : Pool) (c : Nat) : List AllocReq := SMap.getD p.allocQ c []

/-- A channel's head request is considered when it reaches the head; one not granted then is counted (R187). -/
def State.considerHead (c : Nat) (s : State) : State :=
  match s.pool.queueOf c with
  | [] => s
  | r :: rest =>
    if r.seen then s
    else s.onPool (fun p =>
      { p with allocQ := SMap.put [] p.allocQ c ({ r with seen := true } :: rest),
               waitCnt := if p.grants c r.count then p.waitCnt else p.waitCnt + 1 })

/-- Queue a request for `k` more pecks of unit `ix` on channel `c` (R175). -/
def State.askPecks (c ix k : Nat) (s : State) : State :=
  match s.unit? ix with
  | none => s
  | some u =>
    if u.pecksAsked || k = 0 then s
    else ((s.onUnit ix (fun u => { u with pecksAsked := true })).onPool (fun p =>
      { p with allocQ := SMap.put [] p.allocQ c (p.queueOf c ++ [{ ix := ix, count := k, seen := false }]) })).considerHead c

/-- Withdraw what a unit has asked of the pool. -/
def State.dropAsks (c ix : Nat) (s : State) : State :=
  ((s.onUnit ix (fun u => { u with pecksAsked := false })).onPool (fun p =>
    { p with allocQ := SMap.put [] p.allocQ c ((p.queueOf c).filter (fun r => r.ix != ix)),
             softQ := p.softQ.filter (fun q => q.1 != ix) })).considerHead c

/-- Release pecks; what they hold stays readable until the next allocation (R190). -/
def State.release (ps : List Nat) (s : State) : State :=
  ps.foldl (fun s p => s.onPeck p (fun k => { k with alloc := false, sense := false })) s

/-- The codeword numbers of a unit's pecks, in order (R171, R173). -/
def peckCws (u : LUnit) (count : Nat) : List Nat :=
  match u.kind with
  | .readSherd => [4]
  | .read | .readScan | .readStream => bitsOf 4 u.sel.toNat
  | .raw => List.range count
  | .fold => (List.range count).map (fun i => i % 4)
  | _ => List.range count

/-- The address in the header of a unit's peck of codeword `cw` (R171): the unit's flash address, that of a fold being its destination
(R315), with CODEWORD set, which is 0 for a sherd and for RAW. -/
def peckAddr (u : LUnit) (cw : Nat) : BitVec 64 :=
  match u.kind with
  | .readSherd => u.addr
  | .raw => faWithCw u.addr 0
  | _ => faWithCw u.addr cw

/-- Write the header fields the allocator writes (R171); the others read zero until their own write (log 11). -/
def State.allocPeck (ix : Nat) (u : LUnit) (sense : Bool) (p cw : Nat) (s : State) : State :=
  s.onPeck p (fun k =>
    { k with alloc := true, sense := sense, chan := u.chan, length := 0, kind := 0, flags := 0, entry := ix,
             gen := u.gen, cw := cw, iter := 0, step := 0, addr := peckAddr u cw })

/-- Pecks that can be taken: distinct, among the 2,048, free. -/
def State.freePecks (s : State) (ps : List Nat) : Bool :=
  ps.Nodup && ps.all (fun p => p < 2048 && !(s.peck p).alloc)

/-- SHARED_FREE has fallen and h_c has risen: the extremes that registers keep follow (R187, R191). -/
def State.notePecks (c : Nat) (s : State) : State :=
  s.onPool (fun p =>
    { p with sharedMin := min p.sharedMin p.sharedFree,
             peaks := SMap.put 0 p.peaks c (max (SMap.getD p.peaks c 0) (p.held c)) })

/-- The codewords of the pecks that a unit of `n` pecks does not hold. -/
def State.lacking (s : State) (u : LUnit) (n : Nat) : List Nat :=
  (peckCws u n).filter (fun q => !u.pecks.any (fun p => (s.peck p).cw == q))

/-- Give pecks to a unit (R173): it keeps those that it holds. -/
def State.givePecks (ix : Nat) (ps : List Nat) (s : State) : State :=
  match s.unit? ix with
  | none => s
  | some u =>
    let s := (ps.zip (if u.pecks.isEmpty then peckCws u ps.length else s.lacking u (u.pecks.length + ps.length))).foldl
      (fun s q => s.allocPeck ix u false q.1 q.2) s
    (s.onUnit ix (fun u => { u with pecks := u.pecks ++ ps, pecksAsked := false })).notePecks u.chan

/-- The peck of codeword `cw` of a unit, where it still holds one. -/
def State.peckOf (s : State) (ix cw : Nat) : Option Nat :=
  match s.unit? ix with
  | none => none
  | some u => u.pecks.find? (fun p => (s.peck p).alloc && (s.peck p).cw == cw && (s.peck p).entry == ix)

/-- Release the sense pecks of a unit's codeword (R173). -/
def State.dropSense (ix : Nat) (cw : Option Nat) (s : State) : State :=
  s.release ((s.pool.pecks.filter (fun e =>
    e.2.alloc && e.2.sense && e.2.entry == ix && (cw.isNone || cw == some e.2.cw))).map Prod.fst)

/-- Sense pecks a codeword of a unit holds. -/
def State.sensePecks (s : State) (ix cw : Nat) : List Nat :=
  (s.pool.pecks.filter (fun e => e.2.alloc && e.2.sense && e.2.entry == ix && e.2.cw == cw)).map Prod.fst

end Sys2Proof.Machine
end

