-- ==== Sys2Proof/Machine/Units.lean ====
section
/-! DEFINITION. Unit entries on their way: die queues (R142, R143), the checks of the issue path (R164), and how a unit
ends, stops its command (R99) and leaves every list. -/

namespace Sys2Proof.Machine

/-! ## What a unit is -/

/-- The unit is read-type: it joins the read list (R142). -/
def UKind.reads : UKind → Bool
  | .read | .readScan | .readSherd | .readStream | .patrol | .internal => true
  | _ => false

/-- The unit writes its block (R142). -/
def UKind.writes : UKind → Bool
  | .program | .programSlc | .fold | .erase => true
  | _ => false

/-- The unit writes the given plane and block of its LUN; a FOLD counts for its sources too (R142). -/
def touches (c : Option Cmd) (u : LUnit) (plane block : Nat) : Bool :=
  u.kind.writes && faPlane u.addr == plane &&
    (faBlock u.addr == block ||
      (u.kind == .fold && (match c with
        | some c => (List.range 4).any (fun k => entSrcBlock c.raw k == block)
        | none => false)))

/-- The command of a unit. -/
def State.cmdOf (s : State) (u : LUnit) : Option Cmd := u.ctx.bind s.cmd?

/-- The unit's command has a halted chain: its entries are held in their states (R130, log 127). -/
def State.unitHeld (s : State) (u : LUnit) : Bool :=
  u.ctx.any (fun ctx => (SMap.get? s.dma.chains ctx).any (·.halted))

/-- A read would be overtaking a write of its block that is linked or on the die (R142). -/
def State.behindWrite (s : State) (a : BitVec 64) : Bool :=
  s.ldg.units.any (fun e =>
    faLun e.2.addr == faLun a && e.2.linkPos.isSome && !ended e.2 && touches (s.cmdOf e.2) e.2 (faPlane a) (faBlock a))

/-- A read-list entry of the plane and block linked before position `p` has not reached DONE (R142). -/
def State.readBefore (s : State) (u : LUnit) (p : Nat) : Bool :=
  s.ldg.units.any (fun e =>
    faLun e.2.addr == faLun u.addr && e.2.kind.reads && !e.2.order && !ended e.2 && e.2.st != .cancelled &&
      (match e.2.linkPos with
       | some q => q < p
       | none => false) &&
      (u.kind == .raw || touches (s.cmdOf u) u (faPlane e.2.addr) (faBlock e.2.addr) ||
        (u.kind.reads && faPlane u.addr == faPlane e.2.addr && faBlock u.addr == faBlock e.2.addr)))

/-! ## Checks of the issue path -/

/-- The block is in the waster table (R333). -/
def State.isWaster (s : State) (a : BitVec 64) : Bool :=
  s.ldg.wasters.any (fun w => w.lun == faLun a && w.plane == faPlane a && w.block == faBlock a)

/-- The block is in the crazed set (R330). -/
def State.isCrazed (s : State) (a : BitVec 64) : Bool :=
  s.ldg.crazed.any (fun w => w.lun == faLun a && w.plane == faPlane a && w.block == faBlock a)

/-- The source address of step `k` of a FOLD: destination LUN and plane, SRC_BLOCKk, SRC_PAGEk (R96). -/
def foldSrc (c : Cmd) (u : LUnit) (k : Nat) : BitVec 64 :=
  faWithPage (faWithBlock u.addr (entSrcBlock c.raw k)) (entSrcPage c.raw k)

/-- The first check of R164 that refuses a unit: CHANNEL_FENCED, then WASTER, then CRAZED_BLOCK (R101). -/
def State.refuses (s : State) (u : LUnit) : Option Status :=
  if (s.chan (faChan u.addr)).fenced then some .channelFenced
  else if u.kind == .raw then none
  else if u.kind.writes && s.isWaster u.addr then some .waster
  else if u.kind != .erase && s.isCrazed u.addr then some .crazedBlock
  else if u.kind == .fold && (match s.cmdOf u with
      | some c => (List.range 4).any (fun k => s.isCrazed (foldSrc c u k))
      | none => false) then some .crazedBlock
  else none

/-! ## Lists -/

/-- Insert after the last element that satisfies `p`, or at the front where none does. -/
def insertAfterLast (p : Nat → Bool) (x : Nat) (l : List Nat) : List Nat :=
  let n := (l.reverse.dropWhile (fun y => !p y)).length
  l.take n ++ x :: l.drop n

/-- A predicate of the unit at a list position. -/
def State.unitIs (s : State) (p : LUnit → Bool) (ix : Nat) : Bool :=
  match s.unit? ix with
  | some u => p u
  | none => false

/-- Place a unit on its list: urgent reads ahead, behind the last urgent one; a unit placed again behind those placed
again before it in its class; others at the end (R143). -/
def State.enlist (ix : Nat) (again : Bool) (s : State) : State :=
  match s.unit? ix with
  | none => s
  | some u =>
    let l := faLun u.addr
    if u.order then
      s.onLun l (fun t =>
        { t with orderQ := if again then insertAfterLast (s.unitIs (fun v => v.again != 0)) ix t.orderQ
                           else t.orderQ ++ [ix] })
    else if again then
      s.onLun l (fun t =>
        { t with readQ := insertAfterLast (s.unitIs (fun v =>
            if u.urgent then v.urgent && v.again != 0 else v.urgent || v.again != 0)) ix t.readQ })
    else if u.urgent then s.onLun l (fun t => { t with readQ := insertAfterLast (s.unitIs (·.urgent)) ix t.readQ })
    else s.onLun l (fun t => { t with readQ := t.readQ ++ [ix] })

/-- The unit is in the urgent-read class: URG_CLASS ≥ 2 or E ≥ 0.90 × D (R104), or urgent patrol (R240). -/
def State.urgentNow (s : State) (u : LUnit) : Bool :=
  u.kind.reads &&
    (match u.ctx.bind s.cmd? with
     | some c => 2 ≤ entUrg c.raw ||
         (c.deadline != 0 && 900 * c.deadline ≤ (s.time.ns - c.fetched).toNat)
     | none => false)

/-- The multi-plane capability a merge of this kind needs: MP_READ, MP_PGM, MP_ERS (R149, R159). -/
def canMerge (d : DieType) (k : UKind) : Bool :=
  match k with
  | .program | .programSlc => bit d.caps 1
  | .erase => bit d.caps 2
  | .read | .readScan | .readSherd | .readStream | .patrol | .internal => bit d.caps 0
  | _ => false

/-- A head that a merge window holds (R150): a program or erase, or with READ_HOLD a read outside the urgent class, of a
die type with more planes than one that merges its kind. -/
def State.holds (s : State) (l : Nat) (u : LUnit) : Bool :=
  let cfg := (s.chan (lunChan l)).cfg
  fld cfg 8 8 != 0 && bit cfg 1 && !u.merged &&
    (match dieOf s l with
     | some d => canMerge d u.kind && 1 < d.planes
     | none => false) &&
    (u.kind.writes || (bit cfg 4 && !u.urgent))

/-- Arbitration class of an entry (R144, R145): 0 urgent read, 1 read, 2 program, 3 erase; a non-urgent patrol read is in
the erase class, a fold and a RAW in the program class. -/
def unitClass (u : LUnit) : Nat :=
  if u.kind == .patrol then (if u.urgent then 0 else 3)
  else if u.kind.reads then (if u.urgent then 0 else 1)
  else if u.kind == .erase then 3
  else 2

/-- A partner's own conditions (R149): same LUN and kind, same PAGE, another PLANE, same BLOCK unless MP_ANY_BLOCK; in the
read list not of a higher class than the head. The level vector of a merged read is its head's (log 16). -/
def partnerOk (d : DieType) (h u : LUnit) : Bool :=
  u.kind == h.kind && u.st == .queued && faPage u.addr == faPage h.addr && faPlane u.addr != faPlane h.addr &&
    (faBlock u.addr == faBlock h.addr || bit d.caps 3) && (h.order || unitClass h ≤ unitClass u)

/-- The partners that join the head of a list (R149), in list order: at most PLANES − 1, on distinct planes; in the order
list with no entry of the same plane between, and with every read that R142 puts before them DONE. -/
def State.partners (s : State) (l ix : Nat) : List Nat :=
  match s.unit? ix, dieOf s l with
  | some h, some d =>
    if !bit (s.chan (lunChan l)).cfg 1 || !canMerge d h.kind then []
    else
      let q := if h.order then (s.lun l).orderQ else (s.lun l).readQ
      ((q.filter (· != ix)).foldl (fun (a : List Nat × List Nat) j =>
        match s.unit? j with
        | none => a
        | some u =>
          let free := !a.2.contains (faPlane u.addr)
          if a.1.length + 1 < d.planes && free && partnerOk d h u && !s.unitHeld u &&
              !(h.order && s.readBefore u (u.linkPos.getD 0)) then
            (a.1 ++ [j], a.2 ++ [faPlane u.addr])
          else if h.order then (a.1, a.2 ++ [faPlane u.addr])
          else a) ([], [faPlane h.addr])).1
  | _, _ => []

/-- The head of a list is held by its merge window (R150): the hold has not ended and the group is not complete. -/
def State.held (s : State) (l ix : Nat) : Bool :=
  let t := s.lun l
  let runs (h : Option Hold) : Bool := h.any (fun h => h.ix == ix && h.due.isSome)
  (runs t.holdR || runs t.holdO) &&
    (match dieOf s l with
     | some d => (s.partners l ix).length + 1 < d.planes
     | none => false)

/-- The thread's die runs nothing and the thread has no other business with it (R141). -/
def Lun.free (t : Lun) : Bool := t.op.isNone && t.rd.isNone && t.cache.isNone && t.rawOpen.isNone && !t.resetReq

/-- An order-list entry may issue as far as R142 goes: QUEUED, and every read linked before it is DONE. -/
def State.orderReady (s : State) (u : LUnit) : Bool := u.st == .queued && !s.readBefore u (u.linkPos.getD 0)

/-- Prepare an erase that stands at the head of the order list (R27, R149, R153): the erase-start marker of every block of
its group is requested; the thread raises its request only once they are durable. -/
def State.prepare (l : Nat) (s : State) : State :=
  let t := s.lun l
  match t.orderQ.head? with
  | none => s
  | some ix =>
    match s.unit? ix with
    | none => s
    | some u =>
      if t.free && u.kind == .erase && u.mark == .none && s.orderReady u && !s.held l ix && !s.unitHeld u && (s.refuses u).isNone then
        (ix :: s.partners l ix).foldl (fun (s : State) j =>
          match s.unit? j with
          | some v =>
            if v.mark == .none then
              (s.onUnit j (fun v => { v with mark := .startAsked })).nvsMarker (some j) 1 (locOf v.addr) 0
            else s
          | none => s) s
      else s

/-- The entry that a LUN reads next: an issued one that a busy die has kept back (R302), else the first of its read list, those of
halted chains aside (R130). -/
def State.readFirst (s : State) (l : Nat) : Option Nat :=
  match (s.lun l).cacheIx with
  | some ix => some ix
  | none => (s.lun l).readQ.find? (fun ix => !s.unitIs s.unitHeld ix)

/-- The entry can begin an array read: QUEUED, or issued and kept back (R302). -/
def State.readReady (s : State) (l ix : Nat) (u : LUnit) : Bool := u.st == .queued || (s.lun l).cacheIx == some ix

/-- Decide whether the thread suspends its running operation (R155). Where only the run time is short, a run-time expiry
is placed and the decision is made again when it fires. -/
def State.decideSuspend (l : Nat) (s : State) : State :=
  let t := s.lun l
  match t.op, dieOf s l with
  | some o, some d =>
    let erase := o.phase == 4
    let wants := match s.readFirst l with
      | some ix => s.unitIs (fun u => unitClass u ≤ 1 && s.readReady l ix u) ix
      | none => false
    let allowed := bit (s.chan (lunChan l)).cfg 2 && bit d.caps (if erase then 7 else 6) &&
      o.susps < (if erase then d.suspMaxErs else d.suspMaxPgm)
    let runMin := 1000 * (if erase then d.runMinErs else d.runMinPgm)
    let running := !o.suspended && !o.checking && o.members.all (s.unitIs (fun u => u.st == .onDie))
    if !(running && wants && allowed) || t.suspReq then s
    else if s.passed o.runFrom runMin then s.onLun l (fun t => { t with suspReq := true })
    else s.onLun l (fun t =>
      { t with ev := { t.ev with run := some (s.event o.members.head? (o.runFrom + BitVec.ofNat 64 runMin)) } })
  | _, _ => s

/-- The group of a list head is complete (R150). -/
def State.groupFull (s : State) (l ix : Nat) : Bool :=
  (dieOf s l).any (fun d => d.planes ≤ (s.partners l ix).length + 1)

/-- The hold of a list as its head stands now (R150): a head that is to be held starts one, and keeps it while it is head. One that
a complete group has ended does not begin again. -/
def State.holdAt (s : State) (l : Nat) (q : List Nat) (h : Option Hold) : Option Hold :=
  match q.head?.filter (s.unitIs (s.holds l)) with
  | some ix =>
    if h.any (fun h => h.ix == ix) then
      (if s.groupFull l ix then h.map (fun h => { h with due := none }) else h)
    else some { ix := ix, due := some (s.after (1000 * fld (s.chan (lunChan l)).cfg 8 8)) }
  | none => none

/-- The thread's one merge-window event (R150, R157): that of the hold that ends first. -/
def State.mergeEvent (s : State) (t : Lun) : Option Event :=
  let ev (h : Option Hold) : Option Event := h.bind (fun h => h.due.map (s.event (some h.ix)))
  match ev t.holdO, ev t.holdR with
  | some a, some b => if b.due.toNat < a.due.toNat then some b else some a
  | some a, none => some a
  | none, b => b

/-- The merge-window event follows the holds. -/
def State.placeMerge (l : Nat) (s : State) : State :=
  s.onLun l (fun t => { t with ev := { t.ev with merge := s.mergeEvent t } })

/-- An entry of the read list is eligible during a suspension: QUEUED, and of the urgent-read or read class (R156);
or one that is issued still waits for its array read (R302). -/
def State.readsWait (s : State) (l : Nat) : Bool :=
  (s.lun l).cacheIx.isSome || (s.lun l).readQ.any (s.unitIs (fun u => u.st == .queued && !s.unitHeld u && unitClass u ≤ 1))

/-- The read list of a suspended operation has come to hold no eligible entry: no further read is issued in this suspension, and
the resume follows once what has been read has left the die (R156). -/
def State.latchResume (l : Nat) (s : State) : State :=
  s.onLun l (fun t => { t with op := t.op.map (fun o => if o.suspended && !s.readsWait l then { o with suspReads := 256 } else o) })

/-- An entry may have become head of its list, or left it: start its merge window (R150), prepare an erase that can go, decide a
suspend, end the reads of a suspension (R156). -/
def State.headEvent (l : Nat) (s : State) : State :=
  let s := (s.onLun l (fun t =>
    { t with holdR := s.holdAt l t.readQ t.holdR, holdO := s.holdAt l t.orderQ t.holdO })).placeMerge l
  ((s.prepare l).decideSuspend l).latchResume l

/-- The request of an entry that leaves its list ungranted is withdrawn: its pass count ends (R46). -/
def State.withdraw (l ix : Nat) (s : State) : State :=
  s.onChan (lunChan l) (fun c =>
    if (SMap.get? c.passes (l % 16)).any (fun p => p.ix == ix) then { c with passes := SMap.erase c.passes (l % 16) } else c)

/-- Take a unit off its die queue; the entry behind it may become head. Nothing waits on the die for it any more (R224, R302). -/
def State.unlist (ix : Nat) (s : State) : State :=
  match s.unit? ix with
  | none => s
  | some u =>
    let s := s.onLun (faLun u.addr) (fun t =>
      { t with vecFor := if t.vecFor == some ix then none else t.vecFor, cacheIx := if t.cacheIx == some ix then none else t.cacheIx })
    let t := s.lun (faLun u.addr)
    if t.readQ.contains ix || t.orderQ.contains ix then
      ((s.withdraw (faLun u.addr) ix).onLun (faLun u.addr) (fun t =>
        { t with readQ := t.readQ.filter (· != ix), orderQ := t.orderQ.filter (· != ix) })).headEvent (faLun u.addr)
    else s

/-- Link a unit on its die queue for the first time (R142): FETCHED, or DMA of a program page, to QUEUED (R317). A read
that arrives behind a held program or erase on the order list, and so would be delayed by the hold, ends it (R150). -/
def State.link (ix : Nat) (s : State) : State :=
  match s.unit? ix with
  | none => s
  | some u =>
    let ord := !u.kind.reads || u.kind == .internal || s.behindWrite u.addr
    let urg := s.urgentNow u || (u.kind == .patrol && u.urgent)
    let n := s.ldg.nextLink
    let s := (s.onLdg (fun l => { l with nextLink := n + 1 })).onUnit ix (fun u =>
      { u with st := .queued, order := ord, urgent := urg, linkPos := some n, again := 0 })
    let s := s.enlist ix false
    let l := faLun u.addr
    let s := if u.kind.reads && ord then
        (s.onLun l (fun t => { t with holdO := t.holdO.map (fun h =>
          if s.unitIs (fun v => v.kind.writes) h.ix then { h with due := none } else h) })).placeMerge l else s
    s.headEvent l

/-- Place a unit again at the head of its list (R143): by a refire step (R226) or by replay (R324). -/
def State.linkAgain (ix : Nat) (s : State) : State :=
  let n := s.ldg.nextAgain + 1
  let s := (s.onLdg (fun l => { l with nextAgain := n })).onUnit ix (fun u =>
    { u with st := .queued, again := n })
  match s.unit? ix with
  | some u => (s.enlist ix true).headEvent (faLun u.addr)
  | none => s

/-! ## How a unit ends -/

/-- The success statuses (R99). -/
def Status.good : Status → Bool
  | .ok | .okSoft | .skipped => true
  | _ => false

/-- The pecks a unit releases as it ends: none for a FOLD (R173: when its completion is written), those without data
on its way to host memory otherwise. R173 does not say when a RAW completes: DESIGN CHOICE (log 135), as its entry is DONE, even where
host writes of its last packets are still to be acknowledged. -/
def endingPecks (s : State) (u : LUnit) : List Nat :=
  if u.kind == .fold then []
  else u.pecks.filter (fun p => !(u.dmaLeft.any (fun d => d.1 == (s.peck p).cw && d.2 != 0)) || !u.kind.reads)

/-- Λ of R240. -/
def Patrol.limit (p : Patrol) : Nat := if p.hot then 4 else 8

/-- Patrol state of a LUN before its first accrual. -/
def Patrol.init : Patrol :=
  { block := 0, plane := 0, page := 0, debt := 0, period := 0, urgent := false, hot := false, last := 0,
    outstanding := false }

/-- A patrol read has reached DONE (R240, R242): the debt falls, urgency may end, and a weak page is logged with its
gravest reason (log 23). -/
def State.patrolEnded (u : LUnit) (status : Status) (s : State) : State :=
  let reason : Option Nat :=
    if status == .uncorrectable then some 3
    else if u.stepMax = 16 then some 2
    else if u.stepMax != 0 then some 1
    else if u.iter != 0 && fld s.cal.patrolCfg 8 8 ≤ u.iter then some 0
    else none
  s.onCal (fun c =>
    let c := { c with patrol := SMap.on Patrol.init c.patrol (faLun u.addr) (fun p =>
      { p with debt := p.debt - 1, outstanding := false, urgent := p.urgent && p.limit / 2 < p.debt - 1 }) }
    match reason with
    | none => c
    | some r =>
      let c := { c with logCount := satInc 0xFFFF c.logCount }
      if c.logValid then c else { c with logValid := true, logReason := BitVec.ofNat 2 r, logAddr := u.addr })

/-- End a unit (R317): its state and status, its place if it has none yet, its lists, requests and pecks. The command's
other units are untouched. -/
def State.endUnit (ix : Nat) (st : UState) (status : Status) (failCw : Nat) (s : State) : State :=
  match s.unit? ix with
  | none => s
  | some u =>
    if ended u then s
    else
      let rel := endingPecks s u
      let s := s.unlist ix
      let s := s.dropAsks u.chan ix
      let s := (s.dropSense ix none).release rel
      (s.onUnit ix (fun u =>
        { u with st := st, status := status, failCw := failCw, pend := 0,
                 place := if u.place.isNone then some false else u.place,
                 pecks := u.pecks.filter (fun p => !rel.contains p) })).prepare (faLun u.addr)
      |> (if u.kind == .patrol && u.bundle.isNone then
            (if st == .done then State.patrolEnded u status
             else State.onCal (fun c =>
               { c with patrol := SMap.on Patrol.init c.patrol (faLun u.addr) (fun p => { p with outstanding := false }) }))
          else id)

/-- The unit has not won issue and can be retired or cancelled: FETCHED, QUEUED, or DMA of a program page (R99, R108). -/
def unissued (u : LUnit) : Bool :=
  !u.won && (u.st == .fetched || u.st == .queued ||
    (u.st == .dma && (u.kind == .program || u.kind == .programSlc)))

/-- A failing unit stops its command: later units not yet issued are retired (R99). READ_SHERD and PATROL_NOW do not
stop, nor does the relearn of a CALIBRATE (R237, log 22). -/
def State.stopAfter (ctx pos : Nat) (s : State) : State :=
  match s.cmd? ctx with
  | none => s
  | some c =>
    if c.op = .readSherd ∨ c.op = .patrolNow ∨ c.op = .calibrate then s
    else
      let s := s.onCmd ctx (fun c => { c with stopped := true })
      c.units.foldl (fun s ix =>
        match s.unit? ix with
        | some u => if pos < u.pos && unissued u then s.endUnit ix .done .ok 0 else s
        | none => s) s

/-- End a unit and, where its status is a failure, stop its command (R99). -/
def State.finish (ix : Nat) (status : Status) (failCw : Nat) (s : State) : State :=
  match s.unit? ix with
  | none => s
  | some u =>
    if ended u then s
    else
      let s := s.endUnit ix (if status = .cancelled then .cancelled else .done) status failCw
      match u.ctx with
      | some ctx => if status.good then s else s.stopAfter ctx u.pos
      | none => s

/-- Refuse or retire every unit of a command that has not won issue, and give the command a status of its own (R99). -/
def State.failWhole (ctx : Nat) (status : Status) (s : State) : State :=
  match s.cmd? ctx with
  | none => s
  | some c =>
    let s := s.onCmd ctx (fun c => { c with whole := some status, stopped := true, predWait := false })
    c.units.foldl (fun s ix =>
      match s.unit? ix with
      | some u => if unissued u then s.endUnit ix .done status 0 else s
      | none => s) s

/-- Every unit entry has been taken, and each is DONE or CANCELLED (R99). -/
def State.unitsEnded (s : State) (c : Cmd) : Bool :=
  c.want == 0 && (s.unitsOf c).all (fun e => ended e.2)

/-- A unit entry as it is taken (R314, R317): FETCHED, its GEN incremented. -/
def LUnit.fresh (kind : UKind) (ctx : Option Nat) (gen : BitVec 16) (now : Ns) (pos : Nat) (addr : BitVec 64)
    (sel : BitVec 4) : LUnit :=
  { st := .fetched, gen := gen, kind := kind, ctx := ctx, fetched := now, pos := pos, addr := addr, sel := sel,
    cwOk := 0, pend := 0, erased := 0, failed := [], dec := 0, decided := false, rows := 0, step := 0, stepMax := 0,
    sense := 0, src := 0, conf := false, suspSent := false, replayed := false, urgent := false, order := false,
    merged := false, passes := 0, iter := 0, soft := false, status := .ok, failCw := 0, linkPos := none, again := 0,
    place := none, chan := faChan addr, pecks := [], pecksAsked := false, dmaLeft := [], dmaDone := false, mark := .none,
    contested := false, won := false, bundle := none, replay := .none, recPos := none, recTime := 0, recSent := false,
    sherds := [], raws := [], sherd := none, warm := false, relaySent := false, relayDone := false, relayNext := 0,
    softMap := 0, hardSum := 0, hardCws := 0 }

/-- Take a FREE entry for a unit of a command (R314). -/
def State.takeUnit (ix : Nat) (kind : UKind) (ctx : Option Nat) (pos : Nat) (addr : BitVec 64) (sel : BitVec 4)
    (s : State) : State :=
  let s := s.bumpGen ix
  let u := LUnit.fresh kind ctx (s.genOf ix) s.time.ns pos addr sel
  let s := s.onLdg (fun l => { l with units := SMap.set l.units ix u })
  match ctx with
  | some c => s.onCmd c (fun c => { c with units := c.units ++ [ix] })
  | none => s

end Sys2Proof.Machine
end

