-- ==== Sys2Proof/Machine/Flags.lean ====
section
/-! DEFINITION. Statuses, completion flags and the CQ entry and work item they stand in (R98-R101, R106). -/

namespace Sys2Proof.Machine

/-- The code of a status (R101). -/
def Status.code : Status → Nat
  | .ok => 0x00
  | .okSoft => 0x01
  | .skipped => 0x02
  | .uncorrectable => 0x10
  | .erasedPage => 0x11
  | .tagMismatch => 0x12
  | .programFail => 0x20
  | .eraseFail => 0x21
  | .crazedBlock => 0x22
  | .waster => 0x23
  | .cancelled => 0x30
  | .cancelTooLate => 0x31
  | .channelFenced => 0x40
  | .relayLost => 0x41
  | .routeUnknown => 0x42
  | .busError => 0x50
  | .foldTorn => 0x60
  | .spmConflict => 0x61
  | .invalidDescriptor => 0x70

/-- The status a code names (R101), for a COMPLETION frame. -/
def Status.ofCode (n : Nat) : Status :=
  ([.ok, .okSoft, .skipped, .uncorrectable, .erasedPage, .tagMismatch, .programFail, .eraseFail, .crazedBlock, .waster,
    .cancelled, .cancelTooLate, .channelFenced, .relayLost, .routeUnknown, .busError, .foldTorn, .spmConflict,
    .invalidDescriptor] : List Status).find? (fun t => t.code == n) |>.getD .invalidDescriptor

/-- Codes of the ledger states (R316). -/
def UState.code : UState → Nat
  | .fetched => 1
  | .queued => 2
  | .issued => 3
  | .onDie => 4
  | .data => 5
  | .decoding => 6
  | .dma => 7
  | .done => 8
  | .parked => 9
  | .cancelled => 10

/-- KIND codes of a unit entry (R315). -/
def UKind.code : UKind → Nat
  | .read => 1
  | .readScan => 2
  | .readSherd => 3
  | .readStream => 4
  | .program => 5
  | .programSlc => 6
  | .fold => 7
  | .erase => 8
  | .raw => 9
  | .patrol => 10
  | .internal => 11

/-- The first unit in address order that has ended without success (R99, R314). -/
def firstFailing (us : List (Nat × LUnit)) : Option LUnit :=
  (us.map Prod.snd).find? (fun u => u.st == .cancelled || (u.st == .done && !u.status.good))

/-- DONE_COUNT (R99): for READ_SHERD and PATROL_NOW the units processed, otherwise the leading units that succeeded; the
command's own count where it has no units or a count of its own. -/
def doneCount (c : Cmd) (us : List (Nat × LUnit)) : Nat :=
  match c.doneCount with
  | some n => n
  | none =>
    if c.op = .readSherd ∨ c.op = .patrolNow then (us.filter (fun u => u.2.st == .done)).length
    else (us.takeWhile (fun u => u.2.st == .done && u.2.status.good)).length

/-- The command's STATUS (R99, R101). -/
def cmdStatus (c : Cmd) (us : List (Nat × LUnit)) : Status :=
  match c.whole with
  | some st => st
  | none =>
    match firstFailing us with
    | some u => if u.st == .cancelled then .cancelled else u.status
    | none =>
      if (c.op = .readScan ∨ c.op = .readStream) ∧ !us.isEmpty ∧ us.all (fun u => u.2.status == .skipped) then .skipped
      else if us.any (fun u => u.2.soft) then .okSoft
      else .ok

/-- FAIL_ADDR (R98, R99): the failing unit's address with CODEWORD, zero for a success or a whole-command status: among these
is INVALID_DESCRIPTOR, which a unit can also bring from the owner of its die. -/
def failAddr (c : Cmd) (us : List (Nat × LUnit)) : BitVec 64 :=
  if c.whole.isSome then 0
  else match firstFailing us with
    | some u => if u.status == .invalidDescriptor then 0 else faWithCw u.addr u.failCw
    | none => 0

/-- REFIRE: the highest recovery step reached, 16 for soft (R98). -/
def refireReached (us : List (Nat × LUnit)) : Nat := us.foldl (fun m u => max m u.2.stepMax) 0

/-- ITER: the largest iteration count run (R98). -/
def iterRun (us : List (Nat × LUnit)) : Nat := us.foldl (fun m u => max m u.2.iter) 0

/-- FLAGS of the CQ entry less FLOW_ORDERED (R98, R99). -/
def cqFlags (us : List (Nat × LUnit)) (flow : Bool) : Nat :=
  (us.any (fun u => u.2.soft)).toNat + 2 * (us.any (fun u => u.2.status == .skipped)).toNat +
    4 * (us.any (fun u => u.2.replayed)).toNat + 8 * flow.toNat

/-- The phase of position `k` of a ring of 2^log2 entries (R87). -/
def phaseOf (k : Nat) (log2 : Nat) : Nat := 1 - (k / 2 ^ log2) % 2

/-- The 32 bytes of a CQ entry (R98), for CQ position `pos`. -/
def cqEntry (s : State) (c : Cmd) (flow : Bool) (pos : Nat) (log2 : Nat) : List Byte :=
  let us := s.unitsOf c
  leBytes 2 (entCmdId c.raw) ++ leBytes 1 c.sq ++ leBytes 1 (cmdStatus c us).code ++ leBytes 1 (cqFlags us flow) ++
    leBytes 1 (iterRun us) ++ leBytes 1 (refireReached us) ++ leBytes 1 (phaseOf pos log2) ++
    leBytes 4 (doneCount c us) ++ leBytes 8 (failAddr c us).toNat ++ leBytes 4 (s.time.ns.toNat % 2 ^ 32) ++
    leBytes 2 c.gen.toNat ++ zeros 6

/-- The work item of a CQ entry (R106), from the bytes written. -/
def workItem (c : Cmd) (entry : List Byte) (pos : Word) : BitVec 128 :=
  BitVec.ofNat 128 (num entry 0 2 + (c.sq % 256) <<< 16 + (num entry 3 1) <<< 24 + (num entry 4 1) <<< 32 +
    (c.cq % 256) <<< 40 + (num entry 8 4) <<< 48 + (num entry 24 2) <<< 80 + pos.toNat <<< 96)

end Sys2Proof.Machine
end

