-- ==== Sys2Proof/Machine/Chain.lean ====
section
/-! DEFINITION. Data chains (05_data_chains_and_host_port.md): walking segments, placing bytes, line writes and block
reads, write-backs, ends and appends. One description serves command chains and the two chains of a legacy copy. -/

namespace Sys2Proof.Machine

/-! ## Chains and their attributes -/

/-- A chain, where it is open. -/
def State.chain? (s : State) : ChainId → Option Chain
  | .cmd ctx => SMap.get? s.dma.chains ctx
  | .legSrc => if s.dma.leg.busy then some s.dma.leg.srcChain else none
  | .legDst => if s.dma.leg.busy then some s.dma.leg.dstChain else none

/-- Change a chain. -/
def State.onChain (id : ChainId) (f : Chain → Chain) (s : State) : State :=
  s.onDma (fun d =>
    match id with
    | .cmd ctx => { d with chains := SMap.upd d.chains ctx f }
    | .legSrc => { d with leg := { d.leg with srcChain := f d.leg.srcChain } }
    | .legDst => { d with leg := { d.leg with dstChain := f d.leg.dstChain } })

/-- Write ID (R57): the CQ of the command, 0x3FF for a legacy copy. -/
def State.chainWid (s : State) : ChainId → Nat
  | .cmd ctx => match s.cmd? ctx with
    | some c => c.cq
    | none => 0
  | _ => 0x3FF

/-- COHERENT: that of the command's SQ (R81), or of DMA_LEG_START (R136). -/
def State.chainCoh (s : State) : ChainId → Bool
  | .cmd ctx => match s.cmd? ctx with
    | some c => (s.sq c.sq).coherent
    | none => false
  | _ => s.dma.leg.coherent

/-- URG (R104); 0 for a legacy copy (R136). -/
def State.chainUrg (s : State) : ChainId → Nat
  | .cmd ctx => s.urgOf ctx
  | _ => 0

/-- The chain is halted (R130). -/
def State.chainHalted (s : State) (id : ChainId) : Bool := (s.chain? id).any (·.halted)

/-- An access that comes up while its chain is halted waits with the failed ones for RESUME (R130, R131). -/
def State.putOff (id : ChainId) (f : Failed) (s : State) : State :=
  s.onChain id (fun h => { h with failed := h.failed ++ [f] })

/-- An access that DISABLE keeps from going out, or whose response it discards, is remembered for a warm reset (R132, R473). -/
def State.loseAccess (f : Failed) (s : State) : State := s.onDma (fun d => { d with lost := d.lost ++ [f] })

/-- An answer to an access that nothing waits for any more is accepted and discarded. -/
def State.answerGone (s : State) : Res :=
  match s.popRead (fun r => r.what == .gone) with
  | some (_, t) => onlyIf s.live (fun _ => t) s
  | none => .next s

/-- Issue a chain read, unless all chain traffic is stopped (R132) or the chain is halted (R130). -/
def State.chainRead (id : ChainId) (what : RdWhat) (addr size : Nat) (s : State) : State :=
  let r : HdpRd := { what := what, tag := 0, seq := 0, addr := addr % 2 ^ 57, size := size, coherent := s.chainCoh id,
                     urg := s.chainUrg id }
  if s.dma.disable then s.loseAccess (.rd r) else if s.chainHalted id then s.putOff id (.rd r) else s.hdpRead r

/-- Issue a chain write, unless all chain traffic is stopped (R132) or the chain is halted (R130). -/
def State.chainWrite (id : ChainId) (what : WrWhat) (addr : Nat) (bytes : List Byte) (s : State) : State :=
  let w : HdpWr := { what := what, seq := 0, addr := addr % 2 ^ 57, bytes := bytes, id := s.chainWid id,
                     coherent := s.chainCoh id, urg := s.chainUrg id }
  if s.dma.disable then s.loseAccess (.wr w) else if s.chainHalted id then s.putOff id (.wr w) else s.hdpWrite w

/-- Cut bytes at an address into writes of one host line each (R124); `fuel` bounds their number. -/
def lineWrites (fuel addr : Nat) (bs : List Byte) : List (Nat × List Byte) :=
  match fuel with
  | 0 => []
  | n + 1 => if bs.isEmpty then [] else
      (addr, bs.take (128 - addr % 128)) :: lineWrites n (addr + (128 - addr % 128)) (bs.drop (128 - addr % 128))

/-- Issue the line writes of one run of bytes; `what` says of each offset within the run why it is written. -/
def State.writeLines (id : ChainId) (what : Nat → WrWhat) (addr : Nat) (bs : List Byte) (s : State) : State :=
  (lineWrites (bs.length / 128 + 2) addr bs).foldl (fun s w => s.chainWrite id (what (w.1 - addr)) w.1 w.2) s

/-- Issue the line writes of one run of bytes of one kind. -/
def State.writeRun (id : ChainId) (what : WrWhat) (addr : Nat) (bs : List Byte) (s : State) : State :=
  s.writeLines id (fun _ => what) addr bs

/-- The largest block of 8 to 128 bytes, aligned to its size, that starts at `a` and ends no later than `b` (both
multiples of 8) (R125). -/
def blockSize (a b : Nat) : Nat :=
  ([128, 64, 32, 16] : List Nat).find? (fun z => a % z == 0 && a + z ≤ b) |>.getD 8

/-- The naturally aligned blocks that cover the bytes from `a` to `b` (R125), as (address, size). -/
def coverBlocks (fuel a b : Nat) : List (Nat × Nat) :=
  match fuel with
  | 0 => []
  | n + 1 => if b ≤ a then [] else (a, blockSize a b) :: coverBlocks n (a + blockSize a b) b

/-- The blocks of a source range, each with the bytes of the range it holds: (address, size, start, length). -/
def srcBlocks (addr len : Nat) : List (Nat × Nat × Nat × Nat) :=
  (coverBlocks (len / 8 + 20) (addr / 8 * 8) ((addr + len + 7) / 8 * 8)).map (fun z =>
    let lo := max z.1 addr
    let hi := min (z.1 + z.2) (addr + len)
    (z.1, z.2, lo, hi - lo))

/-! ## Segment fields (R117) -/

/-- END of a LINK word. -/
def linkEnd (l : BitVec 64) : Bool := bit l 0
/-- The address a LINK word gives. -/
def linkAddr (l : BitVec 64) : Nat := fld l 5 52 * 32
/-- APPEND of a segment. -/
def segAppend (g : Seg) : Bool := bit g.flags 1
/-- OWN of a FLAGS word. -/
def flagsOwn (f : Word) : Bool := bit f 31

/-- A descriptor as read, at stream offset `base` (R117, R118). -/
def segOf (addr base : Nat) (d : BitVec 256) : Seg :=
  { addr := addr, link := BitVec.ofNat 64 (fld d 0 64), buf := fld d 64 57, len := min (fld d 128 32) 1048576,
    flags := BitVec.ofNat 32 (fld d 160 32), base := base, moved := 0, acc := 0, back := 0 }

/-- The STATUS word written back (R117): MOVED, USED, SHORT. -/
def segStatusWord (g : Seg) (short : Bool) : List Byte :=
  leBytes 8 (g.moved % 2 ^ 32 + 2 ^ 56 + short.toNat * 2 ^ 57)

/-- FLAGS as read, with OWN = 0 (R122). -/
def segFlagsWord (f : Word) : List Byte := leBytes 4 (f.toNat % 2 ^ 31)

/-! ## Places of a unit's bytes (R96) -/

/-- Bytes a page of a command takes in the stream. -/
def placeSize (c : Cmd) : Nat :=
  match c.op with
  | .readSherd => 80
  | .program | .programSlc => if entNoSherd c.raw then 16384 else 16456
  | _ => 4096 * popCount 4 (entCwMask c.op c.raw).toNat

/-- The longest stream the command can call for; descriptors beyond it are spare and are not read (R120, R121). -/
def State.streamMax (s : State) : ChainId → Nat
  | .cmd ctx => match s.cmd? ctx with
    | some c => if c.op = .raw then entRawLen c.raw else entCount c.raw * placeSize c
    | none => 0
  | _ => 2 ^ 64

/-! ## Walking -/

/-- The chain issues requests: open, not halted, not aborted (R130, R131). -/
def Chain.moves (h : Chain) : Bool := !h.halted && !h.aborted

/-- Read the next descriptor (R119). -/
def State.readSeg (id : ChainId) (s : State) : State :=
  match s.chain? id with
  | none => s
  | some h =>
    match h.next with
    | none => s
    | some a =>
      if h.reading || !h.moves then s
      else (s.onChain id (fun h => { h with reading := true })).chainRead id (.seg id) a 32

/-- Read again the LINK word of the last segment (R120). -/
def State.readLink (id : ChainId) (a : Nat) (s : State) : State :=
  match s.chain? id with
  | none => s
  | some h =>
    if h.reading || !h.moves then s
    else (s.onChain id (fun h => { h with reading := true, park := none })).chainRead id (.link id) a 8

/-- The segment is the last one read. -/
def Chain.lastSeg (h : Chain) (g : Seg) : Bool := h.segs.getLast?.map Seg.addr == some g.addr

/-- A segment has been finished with (R122): every byte accounted for, an empty one once passed over (R118), the last one
of an ending chain only once that end is known to be short or not; every segment used once the command's last byte of
`most` has moved, or it moves no further one. -/
def segFinished (most : Nat) (h : Chain) (g : Seg) : Bool :=
  if h.closing || most ≤ (h.segs.map Seg.acc).sum then g.acc != 0 || (g.len == 0 && g.base < h.reach)
  else (!linkEnd g.link || h.short || !h.lastSeg g) && g.acc == g.len && (g.len != 0 || g.base < h.reach)

/-- Write back the finished segments (R122): STATUS, then FLAGS; with FENCE_COMPLETION the second waits for the
acknowledge of the first. -/
def State.writeBacks (id : ChainId) (s : State) : State :=
  match s.chain? id with
  | none => s
  | some h =>
    if !h.moves || s.dma.disable then s
    else
      let fence := bit s.hif.cfg 1
      let most := s.streamMax id
      let due := h.segs.filter (fun g => g.back == 0 && segFinished most h g)
      let s := due.foldl (fun s g =>
        let s := s.chainWrite id (.segStatus id g.addr) (g.addr + 24)
          (segStatusWord g (h.short && h.lastSeg g))
        if fence then s else s.chainWrite id (.segFlags id g.addr) (g.addr + 20) (segFlagsWord g.flags)) s
      s.onChain id (fun h =>
        { h with segs := h.segs.map (fun g => if g.back == 0 && segFinished most h g then
                            { g with back := if fence then 1 else 2 } else g) })

/-- The stream offset at which a unit's bytes begin, once every earlier unit has its place or has none (R96). -/
def State.placeOf (s : State) (id : ChainId) (ix : Nat) : Option Nat :=
  match id with
  | .cmd ctx =>
    match s.cmd? ctx, s.unit? ix with
    | some c, some u =>
      match c.op with
      | .raw => some 0
      | .read | .readScan =>
        let before := (s.unitsOf c).filter (fun e => e.2.pos < u.pos)
        if before.all (fun e => e.2.place.isSome) && u.place == some true then
          some ((before.countP (fun e => e.2.place == some true)) * placeSize c)
        else none
      | _ => some (u.pos * placeSize c)
    | _, _ => none
  | _ => some 0

/-- Go on to the next descriptor (R119, R120): read it once the bytes of the last segment begin to move and fewer than
two unfinished ones are held; at an end with bytes called for beyond it, read the LINK word again. `beyond` says that
bytes are called for beyond the segments read. -/
def State.advance (id : ChainId) (beyond : Bool) (s : State) : State :=
  match s.chain? id with
  | none => s
  | some h =>
    if !h.moves || h.closing || h.ended || h.reading || h.ownWait.isSome || h.park.isSome || s.dma.disable then s
    else
      match h.segs.getLast? with
      | none => if h.next.isSome then s.readSeg id else s
      | some g =>
        if !linkEnd g.link then
          if (g.acc != 0 || (g.len == 0 && g.base < h.reach) || (g.len == 0 && beyond)) && h.base < s.streamMax id &&
              (h.segs.filter (fun k => k.acc != k.len)).length < 2 then
            (s.onChain id (fun h => { h with next := some (linkAddr g.link) })).readSeg id
          else s
        else if beyond && (match id with
            | .cmd _ => true
            | _ => false) then s.readLink id g.addr
        else s

/-! ## Unit bookkeeping -/

/-- `n` bytes of a unit's codeword have been acknowledged, returned, or will never be written; at zero its peck is
released (R173), but for RAW. -/
def State.dmaLess (ix cw n : Nat) (s : State) : State :=
  match s.unit? ix with
  | none => s
  | some u =>
    match u.dmaLeft.find? (fun d => d.1 == cw) with
    | none => s
    | some d =>
      let left := d.2 - n
      let s := s.onUnit ix (fun u =>
        { u with dmaLeft := if left = 0 then u.dmaLeft.filter (fun d => d.1 != cw)
                            else u.dmaLeft.map (fun d => if d.1 == cw then (cw, left) else d) })
      if left = 0 && u.kind.reads then
        match s.peckOf ix cw with
        | some p => (s.release [p]).onUnit ix (fun u => { u with pecks := u.pecks.filter (· != p) })
        | none => s
      else s

/-- Success of a read page: OK_SOFT where a codeword was soft-decoded (R101). -/
def goodStatus (u : LUnit) : Status := if u.soft then .okSoft else .ok

/-- Read pages in DMA whose last write request has been issued become DONE (R24, R25, R317). -/
def State.dmaDones (ctx : Nat) (s : State) : State :=
  match s.cmd? ctx, s.chain? (.cmd ctx) with
  | some c, some h =>
    if h.stream.isSome then s
    else c.units.foldl (fun s ix =>
      match s.unit? ix with
      | some u =>
        if u.st == .dma && u.kind.reads && (u.bundle.isNone || u.relayDone) && !h.todo.any (fun d => d.ix == ix) then s.endUnit ix .done (goodStatus u) 0
        else s
      | none => s) s
  | _, _ => s

/-! ## Moving bytes -/

/-- Put `n` bytes from stream offset `p` into the segments read: the segment parts, as (stream offset of the segment, buffer address,
start within the range, length). -/
def segParts (segs : List Seg) (p n : Nat) : List (Nat × Nat × Nat × Nat) :=
  segs.filterMap (fun g =>
    let lo := max p g.base
    let hi := min (p + n) (g.base + g.len)
    if lo < hi then some (g.base, g.buf + (lo - g.base), lo - p, hi - lo) else none)

/-- Account `n` bytes of the segment at a stream offset, moved or never to be written (R122). -/
def Chain.account (h : Chain) (base n : Nat) (moved : Bool) : Chain :=
  { h with segs := h.segs.map (fun g =>
      if g.base == base && g.len != 0 then
        { g with acc := min g.len (g.acc + n), moved := if moved then min g.len (g.moved + n) else g.moved }
      else g) }

/-- Take back the account of bytes that a repeated read moves again (R322): `n` bytes of the segment at an offset. -/
def Chain.unaccount (h : Chain) (base n : Nat) : Chain :=
  { h with segs := h.segs.map (fun g =>
      if g.base == base && g.len != 0 && g.back == 0 then { g with acc := g.acc - n, moved := g.moved - n } else g) }

/-- Write the parts of one delivery that fall within segments already read; what lies beyond stays (R119). -/
def State.pushOne (id : ChainId) (s : State) (d : Deliver) : State :=
  match s.chain? id with
  | none => s
  | some h =>
    let keep (d : Deliver) (s : State) : State := s.onChain id (fun h => { h with todo := h.todo ++ [d] })
    match s.placeOf id d.ix with
    | none => keep d s
    | some b =>
      let p := b + d.off
      let cut := min d.len (h.base - p)
      let what : WrWhat := match id with
        | .cmd ctx => .data ctx d.ix d.cw
        | _ => .legData
      let s := s.onChain id (fun h => { h with reach := max h.reach (p + d.len) })
      let s := (segParts h.segs p cut).foldl (fun s q =>
        let s := s.onChain id (fun h => h.account q.1 q.2.2.2 (!d.bytes.isEmpty))
        if d.bytes.isEmpty then s
        else
          let s := (s.writeRun id what q.2.1 (slice d.bytes q.2.2.1 q.2.2.2)).onDma (fun m =>
            { m with bytesWr := m.bytesWr + BitVec.ofNat 32 q.2.2.2 })
          match id with
          | .cmd _ => s
          | _ => s.onDma (fun m => { m with leg := { m.leg with
                    bytes := m.leg.bytes + BitVec.ofNat 32 q.2.2.2, copied := m.leg.copied + q.2.2.2 } })) s
      if cut < d.len then
        if h.short then s.dmaLess d.ix d.cw (if d.bytes.isEmpty then 0 else d.len - cut)
        else keep { d with off := d.off + cut, len := d.len - cut, bytes := d.bytes.drop cut } s
      else s

/-- Issue the reads of one wanted source range that fall within segments already read (R125). Bytes beyond a chain that ends
short do not come (R120): for a RAW, of which R120 says nothing, they count off the packet 0 that they were called for with,
and the RAW waits for the packets it lacks (log 128). -/
def State.pullOne (id : ChainId) (s : State) (d : Deliver) : State :=
  match s.chain? id with
  | none => s
  | some h =>
    let keep (d : Deliver) (s : State) : State := s.onChain id (fun h => { h with todo := h.todo ++ [d] })
    match s.placeOf id d.ix with
    | none => keep d s
    | some b =>
      let p := b + d.off
      let cut := min d.len (h.base - p)
      let s := s.onChain id (fun h => { h with reach := max h.reach (p + d.len) })
      let s := (segParts h.segs p cut).foldl (fun s q =>
        (srcBlocks q.2.1 q.2.2.2).foldl (fun s z =>
          s.chainRead id (.src id d.ix (d.off + q.2.2.1 + (z.2.2.1 - q.2.1)) z.2.2.2 (z.2.2.1 - z.1)) z.1 z.2.1) s) s
      if cut < d.len then
        if h.short then s.dmaLess d.ix d.cw (d.len - cut)
        else keep { d with off := d.off + cut, len := d.len - cut } s
      else s

/-- The chain is a source: data moves from host memory. -/
def State.isSource (s : State) : ChainId → Bool
  | .cmd ctx => match s.cmd? ctx with
    | some c => opPrograms c.op || (c.op == .raw && entRawOut c.raw)
    | none => false
  | .legSrc => true
  | .legDst => false

/-- Move what can be moved, go on to further descriptors, and write back what is finished. -/
def State.pump (id : ChainId) (s : State) : State :=
  match s.chain? id with
  | none => s
  | some h =>
    if !h.moves || s.dma.disable || h.stream.isSome then s
    else
      let src := s.isSource id
      let s := h.todo.foldl (if src then State.pullOne id else State.pushOne id)
        (s.onChain id (fun h => { h with todo := [] }))
      let beyond := match s.chain? id with
        | some h => h.todo.any (fun d => match s.placeOf id d.ix with
            | some b => h.base < b + d.off + d.len
            | none => false)
        | none => false
      let s := (s.writeBacks id).advance id beyond
      match id with
      | .cmd ctx => s.dmaDones ctx
      | _ => s

/-- Hand bytes to a chain (R119): `bytes` empty means that `len` bytes at this place will never be written (R96). -/
def State.deliver (id : ChainId) (ix cw off len : Nat) (bytes : List Byte) (s : State) : State :=
  match s.chain? id with
  | none => s
  | some h =>
    if h.aborted then s
    else
      let s := if bytes.isEmpty then s
        else s.onUnit ix (fun u => { u with dmaLeft := u.dmaLeft ++ [(cw, len)] })
      (s.onChain id (fun h =>
        { h with todo := h.todo ++ [{ ix := ix, cw := cw, off := off, len := len, bytes := bytes }] })).pump id

/-- Call for a source range (R119). -/
def State.want (id : ChainId) (ix cw off len : Nat) (s : State) : State :=
  (s.onChain id (fun h =>
    { h with todo := h.todo ++ [{ ix := ix, cw := cw, off := off, len := len, bytes := [] }] })).pump id

/-- Open the chain of a command and read its head descriptor. -/
def State.openChain (ctx : Nat) (h : Chain) (s : State) : State :=
  (s.onDma (fun d => { d with chains := SMap.set d.chains ctx h })).readSeg (.cmd ctx)

/-- The chain ends short (R120): no byte beyond it moves. -/
def State.endShort (id : ChainId) (s : State) : State :=
  (s.onChain id (fun h => { h with ended := true, short := true })).pump id

/-! ## Closing -/

/-- Outstanding or held HDP writes of a command's chain. -/
def wrOfCmd (ctx : Nat) (w : HdpWr) : Bool :=
  match w.what with
  | .data c _ _ => c == ctx
  | .record c _ _ => c == ctx
  | .segStatus (.cmd c) _ => c == ctx
  | .segFlags (.cmd c) _ => c == ctx
  | .stream c => c == ctx
  | .bitmap c => c == ctx
  | _ => false

/-- Outstanding or held HDP reads of a command's chain. -/
def rdOfCmd (ctx : Nat) (r : HdpRd) : Bool :=
  match r.what with
  | .seg (.cmd c) => c == ctx
  | .link (.cmd c) => c == ctx
  | .cons c => c == ctx
  | .src (.cmd c) _ _ _ _ => c == ctx
  | _ => false

/-- A command has HDP writes of its chain that are not yet acknowledged, or that DISABLE has kept back. -/
def State.writesOut (s : State) (ctx : Nat) : Bool :=
  s.hdp.writes.any (wrOfCmd ctx) || s.hdp.heldWrites.any (wrOfCmd ctx) || s.dma.lost.any (fun f => match f with
    | .wr w => wrOfCmd ctx w
    | .rd _ => false)

/-- The write carries data of a command: that of a codeword, a sherd record or a stream record (R134). -/
def dataOfCmd (ctx : Nat) (w : HdpWr) : Bool :=
  match w.what with
  | .data c _ _ => c == ctx
  | .record c _ _ => c == ctx
  | _ => false

/-- A command has data writes that are not yet acknowledged (R134). -/
def State.dataOut (s : State) (ctx : Nat) : Bool :=
  s.hdp.writes.any (dataOfCmd ctx) || s.hdp.heldWrites.any (dataOfCmd ctx)

/-- The RESULT_ADDR bitmap of a READ_SCAN (R96): bit p set when page p took a place. -/
def scanBitmap (c : Cmd) (us : List (Nat × LUnit)) : List Byte :=
  leBytes ((entCount c.raw + 7) / 8)
    (us.foldl (fun n e => if e.2.place == some true then n ||| (1 <<< e.2.pos) else n) 0)

/-- When every unit has ended and no delivery waits, the chain closes: the segments used are written back (R122), and
the result bitmap of a READ_SCAN is written (R96). -/
def State.closeChain (ctx : Nat) (s : State) : State :=
  match s.cmd? ctx, s.chain? (.cmd ctx) with
  | some c, some h =>
    if !s.unitsEnded c || h.closing || !h.moves || h.stream.isSome || s.dma.disable || h.todo.any (fun d => !d.bytes.isEmpty) then s
    else
      let s := (s.onChain (.cmd ctx) (fun h =>
        { h with closing := true, todo := [], ownWait := none, park := none, next := none })).writeBacks (.cmd ctx)
      if c.op = .readScan ∧ entResultAddr c.raw ≠ 0 ∧ c.whole.isNone then
        (s.onChain (.cmd ctx) (fun h => { h with bitmapSent := true })).writeRun (.cmd ctx) (.bitmap ctx)
          (entResultAddr c.raw) (scanBitmap c (s.unitsOf c))
      else s
  | _, _ => s

/-- Everything the command's chain still had to issue has been issued (R25, R122, R134); with FENCE_COMPLETION its data
writes have been acknowledged. No command of a stopped chain completes (R132). -/
def State.chainQuiet (s : State) (ctx : Nat) : Bool :=
  match s.chain? (.cmd ctx) with
  | none => true
  | some h =>
    !s.dma.disable && (h.aborted ||
      (h.closing && h.moves && h.failed.isEmpty && h.todo.isEmpty && h.segs.all (fun g => g.back == 2 || !segFinished (s.streamMax (.cmd ctx)) h g) &&
        (!bit s.hif.cfg 1 || !s.dataOut ctx)))

/-! ## Errors (R130) -/

/-- A chain access failed: the chain halts and joins the queue of halted chains; source 2 rises as VALID does. So does a
chain that ABORT has ended and one of whose accesses fails afterwards (log 109). -/
def State.haltChain (ctx : Nat) (f : Failed) (s : State) : State :=
  match s.chain? (.cmd ctx) with
  | none => s
  | some h =>
    let first := s.dma.haltQ.isEmpty
    let s := s.onChain (.cmd ctx) (fun h => { h with failed := h.failed ++ [f], halted := true })
    let s := if h.halted then s else s.onDma (fun d => { d with haltQ := d.haltQ ++ [ctx] })
    if first then s.raise 2 else s

/-- The place of a failed access in the order of issue; one never issued comes last (R131). -/
def Failed.order : Failed → Nat
  | .rd r => if r.seq = 0 then 2 ^ 64 else r.seq
  | .wr w => if w.seq = 0 then 2 ^ 64 else w.seq

/-- Insert a failed access in the order of issue. -/
def Failed.insert (f : Failed) : List Failed → List Failed
  | [] => [f]
  | g :: r => if f.order < g.order then f :: g :: r else g :: f.insert r

/-- Failed accesses in the order of their first issue (R131). -/
def inIssueOrder (fs : List Failed) : List Failed := fs.foldl (fun r f => f.insert r) []

/-- Issue a failed access again. -/
def State.reissue (s : State) : Failed → State
  | .rd r => if s.dma.disable then s.loseAccess (.rd r) else s.hdpRead r
  | .wr w => if s.dma.disable then s.loseAccess (.wr w) else s.hdpWrite w

end Sys2Proof.Machine
end

