-- ==== Sys2Proof/Machine/Rings.lean ====
section
/-! DEFINITION. The ring table (R80-R85), doorbell cycles (R86-R90), SQ fetches (R92), the predicate cache (R103). -/

namespace Sys2Proof.Machine

/-! ## Ring table -/

/-- SQ_LOG2 and SQ_BASE, or CQ_LOG2 and CQ_BASE, are in range and aligned for entries of `size` bytes (R80). -/
def ringBaseOk (size base log2 : Nat) : Bool :=
  4 ≤ log2 && log2 ≤ 16 && base % min (size * 2 ^ log2) 4096 == 0

/-- SQ_EN of a ring-table entry. -/
def rtSqEn (e : BitVec 512) : Bool := bit e 152
/-- CQ_EN of a ring-table entry. -/
def rtCqEn (e : BitVec 512) : Bool := bit e 153
/-- SQ_BASE. -/
def rtSqBase (e : BitVec 512) : Nat := fld e 0 57
/-- CQ_BASE. -/
def rtCqBase (e : BitVec 512) : Nat := fld e 64 57
/-- SQ_LOG2. -/
def rtSqLog2 (e : BitVec 512) : Nat := ent e 16 1
/-- CQ_LOG2. -/
def rtCqLog2 (e : BitVec 512) : Nat := ent e 17 1
/-- CQ_BIND. -/
def rtBind (e : BitVec 512) : Nat := ent e 18 1

/-- A ring-table entry is valid (R80). -/
def ringEntryValid (e : BitVec 512) : Bool :=
  fld e 57 7 == 0 && fld e 121 7 == 0 && !bit e 159 && ent e 28 36 == 0 &&
    (!rtSqEn e || ringBaseOk 64 (rtSqBase e) (rtSqLog2 e)) && (!rtCqEn e || ringBaseOk 32 (rtCqBase e) (rtCqLog2 e))

/-- An open command of this instance whose completion is bound to a CQ (R84); one held for an upstream instance is not. -/
def State.openOnCq (s : State) (c : Nat) : Bool :=
  s.ldg.cmds.any (fun e => e.2.cq == c && !e.2.acked && e.2.origin.isNone)

/-- The fetch that is outstanding, which a STOP lets finish (R82), comes from an SQ bound to a CQ: its completion will go there
(R84). -/
def State.fetchBinds (s : State) (c : Nat) : Bool := s.hif.fetch.any (fun f => (s.sq f.1).bind == c)

/-- The CQ part of an entry is refused (R84). -/
def State.refusesCq (s : State) (i : Nat) (e : BitVec 512) : Bool :=
  let c := s.cq i
  !ringEntryValid e ||
    (if rtCqEn e then c.en && (c.base != rtCqBase e || c.log2 != rtCqLog2 e)
     else c.en && (s.hif.sqs.any (fun q => q.2.en && q.2.bind == i) || s.fetchBinds i || s.openOnCq i))

/-- A STOP of an SQ still waits: a fetch from it is outstanding (R82). -/
def State.stopWaits (s : State) (q : Nat) : Bool := s.hif.fetch.any (fun f => f.1 == q)

/-- The SQ part of an entry is refused (R84). -/
def State.refusesSq (s : State) (i : Nat) (e : BitVec 512) : Bool :=
  let q := s.sq i
  !ringEntryValid e ||
    (rtSqEn e && (!(s.cq (rtBind e)).en ||
      (q.en && (q.base != rtSqBase e || q.log2 != rtSqLog2 e || q.bind != rtBind e))))

/-- Apply the CQ part of an entry (R83, R84). -/
def State.applyCq (i : Nat) (e : BitVec 512) (s : State) : State :=
  if s.refusesCq i e then s
  else s.onCq i (fun c =>
    if rtCqEn e then
      { c with en := true, base := rtCqBase e, log2 := rtCqLog2 e, coherent := bit e 154,
               notify := BitVec.ofNat 2 (fld e 156 2), tail := if c.en then c.tail else 0,
               head := if c.en then c.head else 0, held := c.en && c.held }
    else { c with en := false })

/-- Apply the SQ part of an entry (R83, R84); SQ_EN = 0 acts as STOP. -/
def State.applySq (i : Nat) (e : BitVec 512) (s : State) : State :=
  if s.refusesSq i e then s
  else s.onSq i (fun q =>
    if rtSqEn e then
      { q with en := true, base := rtSqBase e, log2 := rtSqLog2 e, bind := rtBind e, coherent := bit e 154,
               flowOrder := bit e 155, latTarget := ent e 20 4, pollOvr := bit e 158, pollPeriod := ent e 24 4,
               head := if q.en then q.head else 0, tail := if q.en then q.tail else 0,
               polled := if q.en then q.polled else s.time.ns, expired := q.en && q.expired, notYet := q.en && q.notYet,
               fence := if q.en then q.fence else none }
    else { q with en := false })

/-- Begin the read of all 256 ring-table entries (R82), once the block is READY (R374). -/
def State.readTable (s : State) : State :=
  if s.hif.ready && !s.hif.tableAll then
    let s := s.onHif (fun h =>
      { h with tableWait := List.range 256, tableGot := [], tableAll := true, enableDue := false })
    (List.range 256).foldl (fun s i =>
      s.hdpRead { what := .ring i, tag := 0, seq := 0, addr := s.hif.ringTable.toNat + 64 * i, size := 64, coherent := s.metaCoherent,
                  urg := 0 }) s
  else s.onHif (fun h => { h with enableDue := true })

/-! ## Doorbell cycles -/

/-- A poll period in ns: units of 10 ns, held to 25-100,000 (R80, R113). -/
def pollNs (p : Nat) : Nat := 10 * (if p < 25 then 25 else if 100000 < p then 100000 else p)

/-- READY, ENABLE = 1, the ring table read (R82, R85). -/
def Hif.on (h : Hif) : Bool := h.ready && bit h.cfg 0 && !h.tableAll && !h.enableDue

/-- Doorbell cycles and SQ fetches run (R82, R85). -/
def State.ringsRun (s : State) : Bool := s.live && s.hif.on

/-- Start a doorbell cycle, or merge the event into the one further cycle (R89). Step 1: swap SUMMARY (R56, R88). -/
def State.startCycle (polls : List Nat) (all : Bool) (s : State) : State :=
  if s.hif.cycle.isSome then
    s.onHif (fun h => { h with again := true, againPolls := h.againPolls ++ polls, againAll := h.againAll || all })
  else
    (s.onHif (fun h =>
      { h with cycle := some { polls := polls, all := all, swap := true, tails := [], heads := [], found := false } })).hdpRead
      { what := .swap, tag := 0, seq := 0, addr := s.hif.db.toNat, size := 32, coherent := s.metaCoherent, urg := 0 }

/-- The one further cycle into which events have been merged starts (R89). -/
def State.startAgain (s : State) : State :=
  if s.hif.again && bit s.hif.cfg 0 then
    let polls := s.hif.againPolls
    let all := s.hif.againAll
    (s.onHif (fun h => { h with again := false, againPolls := [], againAll := false })).startCycle polls all
  else s

/-! ## Applying the table -/

/-- The read at ENABLE has ended: CQ parts of all entries first, then SQ parts; the lowest ring refused is reported
(R84). An entry that could not be read is refused (R82). The HIF_POLL period counts from here (log 61). A kick that came in
the meantime starts its cycle now (R89). -/
def State.applyTable (s : State) : State :=
  let entry (i : Nat) : BitVec 512 := (SMap.get? s.hif.tableGot i).getD 0
  let got (i : Nat) : Bool := (SMap.get? s.hif.tableGot i).isSome
  let step1 : State × List Nat := (List.range 256).foldl (fun a i =>
    if !got i || a.1.refusesCq i (entry i) then (a.1, a.2 ++ [i]) else (a.1.applyCq i (entry i), a.2)) (s, [])
  let step2 : State × List Nat := (List.range 256).foldl (fun a i =>
    if !got i || a.1.refusesSq i (entry i) then (a.1, a.2 ++ [i]) else (a.1.applySq i (entry i), a.2)) step1
  let s := step2.1.onHif (fun h =>
    { h with tableAll := false, tableGot := [], pollFrom := s.time.ns, cmdErr := h.cmdErr || !step2.2.isEmpty,
             cmdRing := match step2.2.min? with
               | some r => BitVec.ofNat 8 r
               | none => h.cmdRing })
  if s.hif.enableDue && bit s.hif.cfg 0 then s.readTable else s.startAgain

/-! ## HIF_CFG and HIF_RING_CMD -/

/-- A write of HIF_CFG (R110): ENABLE going from 0 to 1 reads the ring table (R82), ENABLE = 0 stops doorbell cycles and
fetches and changes no ring (R85). An expiry whose further cycle is thereby dropped may ask for one again (R89). -/
def State.writeHifCfg (data : Word) (s : State) : State :=
  let rise := bit data 0 && !bit s.hif.cfg 0
  let s := s.onHif (fun h =>
    { h with cfg := data &&& 0xF, enableDue := h.enableDue && bit data 0, again := h.again && bit data 0,
             againPolls := if bit data 0 then h.againPolls else [], againAll := h.againAll && bit data 0,
             sqs := if bit data 0 then h.sqs else h.sqs.map (fun r =>
               (r.1, { r.2 with expired := r.2.expired && !h.againPolls.contains r.1 })) })
  if rise then s.readTable else s

/-- A write of HIF_RING_CMD (R82, R114): ignored while BUSY; LOAD reads one entry, STOP ends fetching from the SQ, and takes
effect when the fetch already requested from it has ended. -/
def State.writeRingCmd (data : Word) (s : State) : State :=
  if s.hif.cmdBusy then s
  else
    let r := fld data 0 8
    let s := s.onHif (fun h => { h with cmdRing := BitVec.ofNat 8 r })
    if fld data 16 2 = 1 then
      (s.onHif (fun h => { h with cmdBusy := true, cmdErr := false })).hdpRead
        { what := .ring r, tag := 0, seq := 0, addr := s.hif.ringTable.toNat + 64 * r, size := 64, coherent := s.metaCoherent, urg := 0 }
    else if fld data 16 2 = 2 then
      (s.onHif (fun h => { h with cmdErr := false, cmdBusy := s.stopWaits r, stopping := s.stopWaits r })).onSq r (fun q =>
        { q with en := false })
    else s

/-- The entry of a ring arrives (`none`: its read failed): part of the read at ENABLE, or of a LOAD. -/
def State.ringEntryIn (r : Nat) (e : Option (BitVec 512)) (s : State) : State :=
  match s.popRead (fun q => q.what == .ring r) with
  | none => s
  | some (q, s) =>
    let s := if e.isNone then s.hifError 3 0 q.addr else s
    if s.hif.tableAll && s.hif.tableWait.contains r then
      let s := s.onHif (fun h =>
        { h with tableWait := h.tableWait.filter (· != r),
                 tableGot := match e with
                   | some e => SMap.set h.tableGot r e
                   | none => h.tableGot })
      if s.hif.tableWait.isEmpty then s.applyTable else s
    else
      match e with
      | none => s.onHif (fun h => { h with cmdBusy := false, cmdErr := true })
      | some e =>
        let badC := s.refusesCq r e
        let s := s.applyCq r e
        let badS := s.refusesSq r e
        let waits := !badS && !rtSqEn e && s.stopWaits r
        (s.applySq r e).onHif (fun h => { h with cmdBusy := waits, stopping := waits, cmdErr := badC || badS })

/-! ## A cycle as it runs -/

/-- The cycle ends once nothing is awaited; the merged further cycle then starts (R89). -/
def State.endCycle (s : State) : State :=
  match s.hif.cycle with
  | none => s
  | some c =>
    if c.swap || !c.tails.isEmpty || !c.heads.isEmpty then s
    else (s.onHif (fun h => { h with cycle := none, again := h.again && bit h.cfg 0 })).startAgain

/-- A chain that waits on the OWN bit of a descriptor reads it again (R119). -/
def State.reOwn (id : ChainId) (s : State) : State :=
  match s.chain? id with
  | none => s
  | some h =>
    match h.ownWait with
    | some a =>
      if h.moves then (s.onChain id (fun h => { h with ownWait := none, next := some a })).readSeg id else s
    | none => s

/-- Chains that wait at their end or on an OWN bit, and paused streams, of the SQs whose cycle it is, are looked at
again (R88 step 4, R119, R120, R128). A legacy chain, which has no SQ, reads a descriptor that had OWN = 0 again in every
doorbell cycle (log 108). -/
def State.reRead (sqs : List Nat) (s : State) : State :=
  s.dma.chains.foldl (fun s e =>
    match s.cmd? e.1 with
    | none => s
    | some c =>
      if sqs.contains c.sq && e.2.moves then
        let s := s.reOwn (.cmd e.1)
        let s := match e.2.park with
          | some a => s.readLink (.cmd e.1) a
          | none => s
        match e.2.stream with
        | some t =>
          if t.paused && t.known && !t.asking then
            (s.onChain (.cmd e.1) (fun h => { h with stream := h.stream.map (fun t => { t with asking := true }) })).chainRead
              (.cmd e.1) (.cons e.1) (t.ctrl + 16) 8
          else s
        | none => s
      else s) ((s.reOwn .legSrc).reOwn .legDst)

/-- The SUMMARY arrives: the tail blocks of the SQs whose bit was set or whose POLL_OVR period has elapsed, and the head
blocks of exhausted CQs, are read; step 4 serves those SQs, and in a HIF_POLL cycle every enabled one (R88). A slot found
unwritten is read again where the tail is beyond it, whether or not its bit was set, or in a poll cycle (R92, log 111). -/
def State.summaryIn (bits : BitVec 256) (s : State) : State :=
  match s.hif.cycle with
  | none => s
  | some c =>
    let due (q : Nat) : Bool :=
      let r := s.sq q
      r.en && r.pollOvr && (r.expired || s.passed r.polled (pollNs r.pollPeriod))
    let sqs := (List.range 256).filter (fun q => bits.getLsbD q || due q)
    let served := (List.range 256).filter (fun q => sqs.contains q || (c.all && (s.sq q).en))
    let tails := (sqs.map (· / 16)).eraseDups
    let full (i : Nat) : Bool := let r := s.cq i; r.en && 2 ^ r.log2 ≤ (r.tail - r.head).toNat
    let heads := (((List.range 256).filter full).map (· / 16)).eraseDups
    let s := s.onHif (fun h =>
      { h with cycle := some { c with swap := false, polls := sqs, tails := tails, heads := heads, found := bits ≠ 0 },
               sqs := h.sqs.map (fun r => (r.1, { r.2 with notYet := r.2.notYet && r.2.tail == r.2.head && !c.all })) })
    let s := tails.foldl (fun s b =>
      s.hdpRead { what := .tails b, tag := 0, seq := 0, addr := s.hif.db.toNat + 0x40 + 64 * b, size := 64, coherent := s.metaCoherent,
                  urg := 0 }) s
    let s := heads.foldl (fun s b =>
      s.hdpRead { what := .heads b, tag := 0, seq := 0, addr := s.hif.db.toNat + 0x440 + 64 * b, size := 64, coherent := s.metaCoherent,
                  urg := 0 }) s
    (s.reRead served).endCycle

/-- A tail block arrives: the 16 tails it holds (R88); a slot found unwritten is read again where the tail is beyond it
(R92); the SQ's own period starts anew (R89). -/
def State.tailsIn (b : Nat) (ts : List Word) (s : State) : State :=
  match s.hif.cycle with
  | none => s
  | some _ =>
    let s := (List.range 16).foldl (fun s k =>
      match ts[k]? with
      | some t =>
        let q := 16 * b + k
        if (s.sq q).en then
          s.onSq q (fun r => { r with tail := t, polled := s.time.ns, expired := false, notYet := r.notYet && t == r.head })
        else s
      | none => s) s
    (s.onHif (fun h => { h with cycle := h.cycle.map (fun c => { c with tails := c.tails.filter (· != b) }) })).endCycle

/-- A CQ_HEAD block arrives (R88, R100). -/
def State.headsIn (b : Nat) (hs : List Word) (s : State) : State :=
  let s := (List.range 16).foldl (fun s k =>
    match hs[k]? with
    | some t => if (s.cq (16 * b + k)).en then s.onCq (16 * b + k) (fun r => { r with head := t }) else s
    | none => s) s
  (s.onHif (fun h => { h with cycle := h.cycle.map (fun c => { c with heads := c.heads.filter (· != b) }) })).endCycle

/-- A read belongs to a doorbell cycle. -/
def isDoorbell : RdWhat → Bool
  | .swap => true
  | .tails _ => true
  | .heads _ => true
  | _ => false

/-- An HDP error on a doorbell read abandons the cycle (R89); answers still to come for it are discarded. The periods of
the SQs that it was to read count as elapsed anew (log 112). -/
def State.abandonCycle (s : State) : State :=
  let drop (r : HdpRd) : HdpRd := if isDoorbell r.what then { r with what := .gone } else r
  let s := s.onHdp (fun h => { h with reads := h.reads.map drop, heldReads := h.heldReads.filter (fun r => !isDoorbell r.what) })
  (s.onHif (fun h =>
    { h with cycle := h.cycle.map (fun c => { c with swap := false, tails := [], heads := [] }),
             sqs := h.sqs.map (fun r => (r.1, { r.2 with expired := false })) })).endCycle

/-! ## SQ fetches -/

/-- An SQ has an entry to fetch (R92): enabled, tail beyond head, not found unwritten, no RING_FENCE open on it. -/
def State.hasWork (s : State) (q : Nat) : Bool :=
  let r := s.sq q
  r.en && r.tail != r.head && !r.notYet && r.fence.isNone

/-- The SQ that round-robin serves next (R92). -/
def State.nextSq (s : State) : Option Nat := rrFind 256 (s.hif.lastSq + 1) s.hasWork

/-- The next SQ entry read can be requested (R92): no fetch open, the last command has taken its entries. -/
def State.canFetch (s : State) : Bool :=
  s.ringsRun && !s.ldg.halted && !s.ldg.replaying && s.hif.fetch.isNone && s.hif.waiting.isNone

/-! ## Predicate cache (R103) -/

/-- Make PRED_ID the one last bound, with its contents; 64 entries are kept. -/
def Hif.bindPred (id : Nat) (bits : BitVec 1024) (h : Hif) : Hif :=
  { h with preds := ((id, bits) :: h.preds.filter (fun e => e.1 != id)).take 64 }

/-! ## Meanings: ring control -/

/-- HIF_ENABLE (R82): a write of HIF_CFG with ENABLE = 1. -/
def execHifEnable (data : Word) (s : State) : Res :=
  hcpAccess (fun s => if bit data 0 then s.writeHifCfg data else s) s

/-- HIF_DISABLE (R85): a write of HIF_CFG with ENABLE = 0. -/
def execHifDisable (data : Word) (s : State) : Res :=
  hcpAccess (fun s => if !bit data 0 then s.writeHifCfg data else s) s

/-- RING_LOAD (R82): HIF_RING_CMD with ACTION = LOAD. -/
def execRingLoad (data : Word) (s : State) : Res :=
  hcpAction (fun _ => fld data 16 2 == 1) (fun s => if fld data 16 2 == 1 then s.writeRingCmd data else s) s

/-- RING_STOP (R82): HIF_RING_CMD with ACTION = STOP. -/
def execRingStop (data : Word) (s : State) : Res :=
  hcpAction (fun _ => fld data 16 2 == 2) (fun s => if fld data 16 2 == 2 then s.writeRingCmd data else s) s

/-- RING_TABLE_DATA (R83, R84). -/
def execRingTableData (ring : Nat) (entry : BitVec 512) (s : State) : Res :=
  onlyIf s.live (·.ringEntryIn ring (some entry)) s

/-- RING_TABLE_READ_ERROR (R82, R116). -/
def execRingTableReadError (ring : Nat) (s : State) : Res := onlyIf s.live (·.ringEntryIn ring none) s

/-- Predicate fetches that are outstanding for PRED_IDs of `p` answer with memory as it may have stood before the
invalidation: their answers bind, and are not cached (R103). -/
def State.overtake (p : Nat → Bool) (s : State) : State :=
  let out := (s.hdp.reads ++ s.hdp.heldReads).filterMap (fun r =>
    match r.what with
    | .pred ctx => some ctx
    | _ => none)
  s.onHif (fun h =>
    { h with preds := h.preds.filter (fun e => !p e.1),
             predStale := h.predStale ++ out.filter (fun ctx => (s.cmd? ctx).any (fun c => p (entPredId c.raw))) })

/-- A write of HIF_PRED_INV (R103, R115): PRED_ID, or with ALL = 1 every entry, leaves the cache. -/
def State.writePredInv (v : Word) (s : State) : State := s.overtake (fun p => bit v 16 || p == fld v 0 12)

/-- PRED_INVALIDATE (R103, R115): PRED_ID leaves the cache. -/
def execPredInvalidate (data : Word) (s : State) : Res :=
  hcpAction (fun _ => !bit data 16) (fun s => if !bit data 16 then s.writePredInv data else s) s

/-- PRED_INVALIDATE_ALL (R103, R115): the cache is emptied. -/
def execPredInvalidateAll (data : Word) (s : State) : Res :=
  hcpAction (fun _ => bit data 16) (fun s => if bit data 16 then s.writePredInv data else s) s

/-- Clearing HIF_FAULT.VALID lets the held CQ writes be tried again (R100). -/
def State.clearHifFault (s : State) : State :=
  let retry := s.hif.cqRetry
  let s := s.onHif (fun h =>
    { h with faultValid := false, cqRetry := [], cqs := h.cqs.map (fun c => (c.1, { c.2 with held := false })) })
  retry.foldl (fun s w => s.hdpWrite w) s

/-- HIF_FAULT_CLEAR (R116): a write of HIF_FAULT with VALID = 1. -/
def execHifFaultClear (data : Word) (s : State) : Res :=
  hcpAccess (fun s => if bit data 31 && s.hif.faultValid then s.clearHifFault else s) s

/-! ## Meanings: doorbells and fetching -/

/-- KICK_IN (R89): a rising edge starts a doorbell cycle while KICK_EN = 1 and ENABLE = 1, which waits while the ring table
has still to be read (R82, R374), and the idle timers restart (R417); in Soak and Bank the edge is latched as a wake event (R414,
R416). -/
def execKickIn (s : State) : Res :=
  if s.pwr.st = .soak ∨ s.pwr.st = .bank then onlyIf (!s.inReset) (·.wake 1) s
  else onlyIf (s.live && bit s.hif.cfg 0 && bit s.hif.cfg 3) (fun s =>
    let s := s.wake 1
    if s.ringsRun then s.startCycle [] false else s.onHif (fun h => { h with again := true })) s

/-- A poll timer expires (R89, R414) and asks for a cycle. In Soak and Bank it wakes the instance, and the cycle follows the
exit. -/
def State.pollDue (sqs : List Nat) (all : Bool) (s : State) : State :=
  if s.dozing then
    (s.onHif (fun h => { h with again := true, againPolls := h.againPolls ++ sqs, againAll := h.againAll || all })).wake 5
  else s.startCycle sqs all

/-- POLL_TIMER_EXPIRY (R89, R113): a cycle of every enabled SQ. -/
def execPollTimerExpiry (s : State) : Res :=
  onlyIf ((s.live || s.dozing) && s.hif.on && s.hif.poll != 0 && s.passed s.hif.pollFrom (pollNs s.hif.poll.toNat))
    (fun s => (s.onHif (fun h => { h with pollFrom := s.time.ns })).pollDue [] true) s

/-- SQ_POLL_EXPIRY (R89): the POLL_PERIOD of an enabled SQ with POLL_OVR = 1, once until its tail is read. -/
def execSqPollExpiry (sq : Nat) (s : State) : Res :=
  onlyIf ((s.live || s.dozing) && s.hif.on && sq < 256 && (s.sq sq).en && (s.sq sq).pollOvr && !(s.sq sq).expired &&
      s.passed (s.sq sq).polled (pollNs (s.sq sq).pollPeriod)) (fun s =>
    (s.onSq sq (fun r => { r with expired := true })).pollDue [sq] false) s

/-- SUMMARY_SWAP_DATA (R88). -/
def execSummarySwapData (bits : BitVec 256) (s : State) : Res :=
  match s.popRead (fun q => q.what == .swap) with
  | some (_, t) => if s.live then .next (t.summaryIn bits) else .next s
  | none => .next s

/-- TAIL_BLOCK_DATA (R88, R92). -/
def execTailBlockData (block : Nat) (tails : List Word) (s : State) : Res :=
  match s.popRead (fun q => q.what == .tails block) with
  | some (_, t) => if s.live then .next (t.tailsIn block tails) else .next s
  | none =>
    s.answerGone

/-- CQ_HEAD_DATA (R88, R100). -/
def execCqHeadData (block : Nat) (heads : List Word) (s : State) : Res :=
  match s.popRead (fun q => q.what == .heads block) with
  | some (_, t) => if s.live then .next (t.headsIn block heads) else .next s
  | none =>
    s.answerGone

/-- The tag of the doorbell read that an error answers: where several are outstanding a free value says which (R116, log 126). -/
def State.doorbellTag (s : State) : Nat × State :=
  let tags := (s.hdp.reads.filter (fun q => isDoorbell q.what)).map HdpRd.tag
  match tags with
  | [] => (0, s)
  | [t] => (t, s)
  | _ => (tags.getD (s.drawFree.1.toNat % tags.length) 0, s.drawFree.2)

/-- DOORBELL_READ_ERROR (R54, R89): KIND 0 with the address of the read that failed; the cycle is abandoned. -/
def execDoorbellReadError (s : State) : Res :=
  if s.live then
    match s.doorbellTag.2.popTag s.doorbellTag.1 (fun q => isDoorbell q.what) with
    | some (q, t) => .next ((t.hifError 0 0 q.addr).abandonCycle)
    | none => .next s
  else .next s

/-- SQ_FETCH_REQUEST (R92): one 64-byte read of the next entry, round-robin over the SQs that have work. -/
def execSqFetchRequest (s : State) : Res :=
  match s.nextSq with
  | some q =>
    let r := s.sq q
    onlyIf s.canFetch (fun s =>
      (s.onHif (fun h => { h with fetch := some (q, r.head), lastSq := q })).hdpRead
        { what := .sq q, tag := 0, seq := 0, addr := r.base + 64 * (r.head.toNat % 2 ^ r.log2), size := 64, coherent := r.coherent,
          urg := 0 }) s
  | none => .next s

/-- The answer to the open SQ fetch: the SQ, the position, and the state without the read; a STOP that waited for it takes
effect (R82). -/
def State.fetched (s : State) : Option (Nat × Word × State) :=
  match s.hif.fetch with
  | none => none
  | some (q, k) =>
    (s.popRead (fun r => r.what == .sq q)).map (fun a => (q, k, a.2.onHif (fun h =>
      let stops := h.stopping && h.cmdRing.toNat == q
      { h with fetch := none, cmdBusy := h.cmdBusy && !stops, stopping := h.stopping && !stops })))

/-- OWN of an entry equals the phase of its position (R87, R92). -/
def State.ownMatches (s : State) (q : Nat) (k : Word) (e : BitVec 512) : Bool :=
  (entOwn e).toNat == phaseOf k.toNat (s.sq q).log2

/-- OWN_MISMATCH (R92, R94): the entry and every later position count as not yet written. -/
def execOwnMismatch (entry : BitVec 512) (s : State) : Res :=
  match s.fetched with
  | some (q, k, t) => onlyIf (s.live && !s.ownMatches q k entry) (fun _ => t.onSq q (fun r => { r with notYet := true })) s
  | none => .next s

/-- SQ_READ_ERROR (R92): the SQ stops as STOP does; KIND 1 is recorded. -/
def execSqReadError (s : State) : Res :=
  match s.fetched with
  | some (q, k, t) =>
    onlyIf s.live (fun s => (t.onSq q (fun r => { r with en := false })).hifError 1 q
      ((s.sq q).base + 64 * (k.toNat % 2 ^ (s.sq q).log2))) s
  | none => .next s

/-- WORK_ITEM_TRANSFER (R59, R106) takes the oldest item; SCH_VALID is 0 in reset, and clamped to 0 in Ember and Cold. -/
def execWorkItemTransfer (s : State) : Res :=
  onlyIf (!s.inReset && s.pwr.st != .ember && s.pwr.st != .cold && !s.hif.items.isEmpty) (·.onHif (fun h => { h with items := h.items.drop 1 })) s

end Sys2Proof.Machine
end

