-- ==== Sys2Proof/Machine/Link.lean ====
section
/-! DEFINITION. The shared operations of a relay link (14_relay_and_systems.md): routes, frames, the send window,
acknowledges, credits and the queueing of units. -/

namespace Sys2Proof.Machine

/-! ## Routes and bundles -/

/-- The bundle at a first channel. -/
def State.link? (s : State) (b : Nat) : Option Link := SMap.get? s.rly.links b

/-- Change a bundle. -/
def State.onLink (b : Nat) (f : Link → Link) (s : State) : State :=
  s.onRly (fun r => { r with links := SMap.upd r.links b f })

/-- The bundle a channel belongs to. -/
def State.bundleOf (s : State) (ch : Nat) : Option Nat :=
  (s.rly.links.find? (fun e => e.1 ≤ ch && ch < e.1 + e.2.size)).map Prod.fst

/-- The host bundle that leads to an instance (R29, R356): none where VALID = 0 or BUNDLE names no host bundle. -/
def State.routeOf (s : State) (inst : Nat) : Option Nat :=
  let e := SMap.getD s.rly.routes inst 0
  if bit e 15 then
    match s.link? (fld e 0 5) with
    | some l => if l.target then none else some (fld e 0 5)
    | none => none
  else none

/-- Channels of a bundle in its service (R352). -/
def Link.channels (l : Link) (b : Nat) : List Nat := (bitsOf l.size l.mask.toNat).map (fun k => b + k)

/-- The bundle channel with the lowest holding, the lowest-numbered among equals (R351). -/
def State.lowestHeld (s : State) (b : Nat) (l : Link) : Nat :=
  ((List.range l.size).map (fun k => b + k)).foldl
    (fun best c => if s.pool.held c < s.pool.held best then c else best) b

/-- A bundle as the image configures it (R344), with no session kept. -/
def Link.fresh (target : Bool) (size : Nat) : Link :=
  { target := target, size := size, st := .down, mask := 0, resumed := false, partner := 0, identified := [],
    kept := false, host := 0, tgt := 0, txSeq := 0, rxSeq := 0, unacked := [], reorder := [], nakDue := false,
    creditDue := false, cmdSent := 0, cmdRecv := 0, cmdCredit := 0, dataSent := 0, dataCredit := 0, dataPecks := [],
    dataAsked := false, held := [], log := [], waiting := [], txq := [], retryQ := [], helloSent := false,
    lastRx := [], lastTx := [], crcRun := [], sending := [], holdDue := none, trainDue := none, trainAsked := none,
    polled := [], toTrain := [], pins := [] }

/-! ## Frames (R347) -/

/-- A frame of a TYPE with every other field zero. -/
def mkFrame (t : Nat) : RFrame :=
  { typ := t, nak := false, seq := 0, ack := 0, bootHost := 0, bootTarget := 0, pred := false, cmdCredit := 0, dataCredit := 0,
    src := 0, hops := 0, last := false, cw := 0, entry := 0, gen := 0, remain := 0, status := 0, resume := false,
    cflags := 0, iter := 0, refire := 0, decision := 0, cwOk := 0, rows := 0, payload := [], doneCount := 0, failCw := 0,
    boot := 0, size := 0, pers := 0, mask := 0, hold := 0, pair := 0 }

/-- INFO of a frame (R348). -/
def frameInfo (f : RFrame) : List Byte :=
  pad 28 (match f.typ with
    | 1 => leBytes 4 f.remain.toNat
    | 3 => leBytes 1 f.status.toNat ++ leBytes 1 f.cflags.toNat ++ leBytes 1 f.iter ++ leBytes 1 f.refire ++ leBytes 1 f.decision ++
        leBytes 1 f.cwOk.toNat ++ leBytes 2 f.rows.toNat ++ leBytes 4 f.doneCount ++ leBytes 1 f.failCw
    | 6 => leBytes 4 f.boot.toNat ++ leBytes 1 f.size ++ leBytes 1 f.pers ++ leBytes 1 f.resume.toNat ++ leBytes 1 f.mask.toNat
    | 7 => leBytes 4 f.hold ++ leBytes 1 f.pair
    | _ => [])

/-- The bytes of a frame (R347): header, INFO, payload, and the CRC-32C of all before it. -/
def frameBytes (f : RFrame) : List Byte :=
  let b := leBytes 1 f.typ ++ leBytes 1 (f.nak.toNat + 2 * f.pred.toNat + 4 * f.last.toNat) ++ leBytes 2 f.seq.toNat ++
    leBytes 2 f.ack.toNat ++ leBytes 2 f.payload.length ++ leBytes 4 f.bootHost.toNat ++ leBytes 4 f.bootTarget.toNat ++
    leBytes 2 f.cmdCredit.toNat ++ leBytes 2 f.dataCredit.toNat ++ leBytes 2 f.src.toNat ++ leBytes 1 f.hops ++
    leBytes 1 f.cw.toNat ++ leBytes 4 f.entry ++ leBytes 2 f.gen.toNat ++ zeros 2 ++ frameInfo f ++ f.payload
  b ++ leBytes 4 (Codec.crc32c b).toNat

/-- TYPE 1-3 are sequenced (R350). -/
def sequenced (f : RFrame) : Bool := 1 ≤ f.typ && f.typ ≤ 3

/-- The fields every frame carries as it is sent (R347, R350, R351): SRC, SESSION, ACK, NAK and credits. -/
def State.stamp (s : State) (l : Link) (f : RFrame) : RFrame :=
  { f with src := s.sys.instance_, bootHost := l.host, bootTarget := l.tgt, ack := l.rxSeq - 1, nak := l.nakDue,
           cmdCredit := if l.target then l.cmdCredit else 0, dataCredit := if l.target then l.dataCredit else 0 }

/-- Put a frame on a channel (R352), down with C4h or in answer to a pull with C5h (R345); a new sequenced frame takes the next SEQ and
joins the retry buffer (R350). -/
def State.sendOn (b ch : Nat) (f : RFrame) (isNew : Bool) (s : State) : State :=
  match s.link? b with
  | none => s
  | some l =>
    let g := s.stamp l (if isNew && sequenced f then { f with seq := l.txSeq } else f)
    s.onLink b (fun l =>
      { l with sending := SMap.set l.sending ch g, pins := SMap.set l.pins ch [.cmd (if l.target then 0xC5 else 0xC4), .din (frameBytes g)],
               lastTx := SMap.set l.lastTx ch s.time.ns, nakDue := false,
               creditDue := false,
               txSeq := if isNew && sequenced f then l.txSeq + 1 else l.txSeq,
               unacked := if !sequenced f then l.unacked
                 else if isNew then l.unacked ++ [(g, s.time.ns)]
                 else l.unacked.map (fun u => if u.1.seq == f.seq then (u.1, s.time.ns) else u) })

/-- The next HELLO frame to send. -/
def Link.nextHello (l : Link) : Option (RFrame × Bool × Link) :=
  (takeFirst (fun (f : RFrame) => !sequenced f) l.txq).map (fun q => (q.1, true, { l with txq := q.2 }))

/-- The next frame to send: a HELLO frame first, the only one while the link is not up; then one to be sent
again, else a queued one the window admits (R350), else a CREDIT frame where there is acknowledge or credit state to
report (R351). The flag marks a new frame. -/
def Link.nextFrame (l : Link) : Option (RFrame × Bool × Link) :=
  match l.nextHello with
  | some x => some x
  | none =>
    if l.st != .up then none
    else match l.retryQ with
    | f :: r => some (f, false, { l with retryQ := r })
    | [] =>
      match l.txq with
      | f :: r =>
        if l.unacked.length < 64 then some (f, true, { l with txq := r })
        else if l.creditDue || l.nakDue then some (mkFrame 4, true, l) else none
      | [] => if l.creditDue || l.nakDue then some (mkFrame 4, true, l) else none

/-- The host end puts queued frames on its free channels, the lowest-numbered first (R345, R352), a TRAIN frame on each (R358); none
while the channel's pair trains or is out of service (R258, R264). -/
def State.fillOne (b : Nat) (s : State) (ch : Nat) : State :=
  match s.link? b with
  | none => s
  | some l =>
    if l.target || (SMap.get? l.sending ch).isSome || (s.chan ch).fenced || bit s.cal.active (ch / 2) || !(s.pair (ch / 2)).inService then s
    else match takeFirst (fun (q : Nat × RFrame) => q.1 == ch) l.toTrain with
      | some (q, r) => (s.onLink b (fun l => { l with toTrain := r })).sendOn b ch q.2 true
      | none =>
        match l.nextFrame with
        | some (f, isNew, l') => (s.onLink b (fun _ => l')).sendOn b ch f isNew
        | none => s

/-- Send what can be sent on a bundle's channels in service. -/
def State.fillChannels (b : Nat) (s : State) : State :=
  match s.link? b with
  | none => s
  | some l => if l.st == .up || l.st == .bringing then (l.channels b).foldl (State.fillOne b) s else s

/-- Queue a frame on a bundle. -/
def State.queueFrame (b : Nat) (f : RFrame) (s : State) : State :=
  (s.onLink b (fun l => { l with txq := l.txq ++ [f] })).fillChannels b

/-! ## Upstream units -/

/-- The 64-byte SQ entry copy of a unit (R353), as a bit vector: the unit's address, COUNT 1, CHAIN, byte 63 and
RESULT_ADDR zero; a READ_STREAM page as READ_SCAN or READ. -/
def relayEntry (c : Cmd) (u : LUnit) : BitVec 512 :=
  let e := setFld (setFld (setFld (setFld c.raw 64 64 u.addr.toNat) 192 32 1) 128 64 0) 504 8 0
  match c.op with
  | .readScan => setFld e 320 64 0
  | .readStream =>
    if bindsPred c.op c.raw then setFld (setFld e 0 8 0x02) 280 8 0
    else setFld (setFld (setFld (setFld e 0 8 0x01) 256 16 (entCwMask c.op c.raw).toNat) 272 8 0) 280 8 0
  | .calibrate | .patrolNow => setFld (setFld c.raw 128 64 0) 504 8 0
  | _ => e

/-- Deadline left in µs as a COMMAND frame is queued (R348); 0: none. -/
def State.remain (s : State) (c : Cmd) : Nat :=
  if c.deadline = 0 then 0 else max 1 (c.deadline - (s.time.ns - c.fetched).toNat / 1000)

/-- The COMMAND frame of a unit (R30, R353): HOPS is 1, or one more than that with which the command came (R355). -/
def State.commandFrame (s : State) (ix : Nat) (c : Cmd) (u : LUnit) : RFrame :=
  let pred := match c.pred with
    | some p => leBytes 128 p.toNat
    | none => []
  { mkFrame 1 with
      pred := !pred.isEmpty, entry := ix, gen := u.gen, remain := BitVec.ofNat 32 (s.remain c),
      hops := (match c.origin with
        | some o => o.hops + 1
        | none => 1),
      payload := leBytes 64 (relayEntry c u).toNat ++ pred }

/-- The DATA frame of one peck (R349): its slot header, then `n` payload bytes. CW is zero for a sherd (R347). -/
def State.dataFrame (s : State) (ix p n : Nat) (last : Bool) : RFrame :=
  let k := s.peck p
  let header := leBytes 2 n ++ leBytes 1 k.kind ++ leBytes 1 k.flags.toNat ++ leBytes 4 k.entry ++ leBytes 2 k.gen.toNat ++
    leBytes 1 k.cw ++ leBytes 1 k.chan ++ leBytes 1 k.iter ++ leBytes 1 k.step ++ zeros 2 ++ leBytes 8 k.addr.toNat
  { mkFrame 2 with last := last, cw := BitVec.ofNat 8 (if k.kind = 1 then 0 else k.cw), entry := ix, gen := k.gen,
                         payload := header ++ pad n k.payload }

/-- DATA frames a unit sends behind its COMMAND: the four codewords of a program page, the packets of a host-to-die
RAW (R349, R351). -/
def sendsData (c : Cmd) : Bool := opPrograms c.op || (c.op == .raw && entRawOut c.raw)

/-- Pecks a relayed unit takes at the upstream end before its COMMAND frame is queued (R173, R351); the data of a command
sent onward come in the pecks behind DATA_CREDIT. -/
def relayPecks (c : Cmd) (u : LUnit) : Nat :=
  if c.origin.isSome && sendsData c then 0
  else match c.op with
  | .read | .readScan | .readStream => popCount 4 u.sel.toNat
  | .readSherd => 1
  | .raw => min 16 ((entRawLen c.raw + 4583) / 4584)
  | .program | .programSlc => 4
  | _ => 0

/-- A free-running count is beyond another, modulo 65,536 (R351). -/
def beyond (a b : BitVec 16) : Bool := a != b && (a - b).toNat < 0x8000

/-- A unit's COMMAND frame can be queued (R351, R354, R355): credit, its pecks in hand, its program data read. The packets of a
host-to-die RAW follow it one by one. -/
def canCommand (l : Link) (c : Cmd) (u : LUnit) : Bool :=
  l.st == .up && beyond l.cmdCredit l.cmdSent && !c.predWait && u.st == .queued &&
    (if c.op == .raw && entRawOut c.raw then entRawLen c.raw == 0 || (!u.pecks.isEmpty && relayPecks c u ≤ u.pecks.length)
     else if sendsData c then u.dmaDone
     else relayPecks c u ≤ u.pecks.length)

/-- An earlier unit of the command still waits for its COMMAND frame: units are sent in unit order (R353). -/
def State.behindUnit (s : State) (c : Cmd) (u : LUnit) : Bool :=
  (s.unitsOf c).any (fun e => e.2.pos < u.pos && !e.2.won && !ended e.2)

/-- Queue a unit's COMMAND frame: the issue wins (R108, R354). -/
def State.sendCommand (b ix : Nat) (s : State) : State :=
  match s.unit? ix with
  | none => s
  | some u =>
    match s.cmdOf u with
    | none => s
    | some c =>
      let f := s.commandFrame ix c u
      ((s.onUnit ix (fun u =>
        { u with st := .issued, won := true, place := if u.kind == .read then some true else u.place })).onLink b (fun l =>
        { l with cmdSent := l.cmdSent + 1, waiting := l.waiting.filter (· != ix) })).queueFrame b f

/-- The COMMAND frame of a unit has been queued and its result is owed: ISSUED, or QUEUED again with a resumed session
(R317, R354). -/
def relayIssued (u : LUnit) : Bool := u.won && (u.st == .issued || u.st == .queued)

/-- The peck that holds packet `k` of a RAW (R171, R172). -/
def State.rawPeck (s : State) (u : LUnit) (k : Nat) : Option Nat :=
  u.pecks.find? (fun p => (s.peck p).kind == 2 && (s.peck p).cw == k % 256)

/-- Queue the DATA frames of a program page whose COMMAND frame has been queued, once credits cover them all (R351): the
issue of its data-in (R354). -/
def State.sendPage (b ix : Nat) (u : LUnit) (l : Link) (s : State) : State :=
  let n := u.pecks.length
  if relayIssued u && u.dmaDone && !u.relaySent && n != 0 && beyond (l.dataCredit + 1) (l.dataSent + BitVec.ofNat 16 n) then
    let frames := (u.pecks.zip (List.range n)).map (fun q =>
      s.dataFrame ix q.1 (if q.2 = 3 then 4176 else 4096) (q.2 + 1 == n))
    let s := (s.onUnit ix (fun u => { u with st := .data, relaySent := true })).onLink b (fun l =>
      { l with dataSent := l.dataSent + BitVec.ofNat 16 n })
    frames.foldl (fun s f => s.queueFrame b f) s
  else s

/-- Queue the next packets of a host-to-die RAW, each once its bytes stand in their peck and one credit covers it (R173,
R351). They change no state: a RAW's starting step ends with its COMMAND frame (R354). -/
def State.sendPackets (b ix : Nat) (u : LUnit) (c : Cmd) (s : State) : State :=
  let total := (entRawLen c.raw + 4583) / 4584
  if !(relayIssued u || u.st == .onDie) then s
  else (List.range 16).foldl (fun (s : State) _ =>
    match s.unit? ix, s.link? b with
    | some u, some l =>
      let k := u.relayNext
      if k < total && beyond l.dataCredit l.dataSent && u.dmaLeft.all (fun d => d.1 != k || d.2 == 0) then
        match s.rawPeck u k with
        | some p =>
          let s := (s.onUnit ix (fun u => { u with relayNext := k + 1, relaySent := k + 1 == total })).onLink b
            (fun l => { l with dataSent := l.dataSent + 1 })
          s.queueFrame b (s.dataFrame ix p (s.peck p).length (k + 1 == total))
        | none => s
      else s
    | _, _ => s) s

/-- Queue what data of a unit can follow its COMMAND frame (R351). -/
def State.sendData (b ix : Nat) (s : State) : State :=
  match s.unit? ix, s.link? b with
  | some u, some l =>
    if u.bundle != some b then s
    else match s.cmdOf u with
      | some c => if c.op = .raw then (if entRawOut c.raw then s.sendPackets b ix u c else s) else s.sendPage b ix u l
      | none => s
  | _, _ => s

/-- Queue what a bundle's waiting units can send: COMMAND frames in unit order while credit lasts (R353), those of a halted chain held
(R130), then data. -/
def State.relayPump (b : Nat) (s : State) : State :=
  match s.link? b with
  | none => s
  | some l =>
    let s := s.onLink b (fun l =>
      { l with waiting := l.waiting.filter (fun ix => match s.unit? ix with
          | some u => u.st == .queued && u.bundle == some b
          | none => false) })
    let s := l.waiting.foldl (fun s ix =>
      match s.unit? ix, s.link? b with
      | some u, some l =>
        (match s.cmdOf u with
         | some c => if canCommand l c u && !s.unitHeld u && !s.behindUnit c u then s.sendCommand b ix else s
         | none => s)
      | _, _ => s) s
    let s := (s.ldg.units.filter (fun e => e.2.bundle == some b && (relayIssued e.2 || e.2.st == .onDie))).foldl
      (fun s e => s.sendData b e.1) s
    s.fillChannels b

/-- Stand a unit in its bundle's queue (R108, R354), with a request for its pecks. -/
def State.relayQueue (ix : Nat) (s : State) : State :=
  match s.unit? ix with
  | none => s
  | some u =>
    match u.bundle, s.cmdOf u with
    | some b, some c =>
      let s := (s.onUnit ix (fun u => { u with st := .queued })).onLink b (fun l => { l with waiting := l.waiting ++ [ix] })
      (s.askPecks u.chan ix (relayPecks c u - u.pecks.length)).relayPump b
    | _, _ => s

/-- Bind a unit to a bundle (R29): its pecks are charged to the bundle channel with the lowest holding (log 12). -/
def State.bindBundle (ix b : Nat) (s : State) : State :=
  match s.link? b with
  | none => s
  | some l => s.onUnit ix (fun u => { u with bundle := some b, chan := s.lowestHeld b l })

/-! ## Owner side -/

/-- CMD_CREDIT of the owner (R351): commands received, plus 4,096, less the units held. -/
def Link.grantCmds (l : Link) : Link :=
  if l.target then
    { l with cmdCredit := l.cmdRecv + BitVec.ofNat 16 (4096 - l.held.length), creditDue := true }
  else l

/-- Ask for one more peck behind DATA_CREDIT, up to 16 × b of them (R351). Index 131,072 + b stands for the bundle. -/
def State.askCredit (b : Nat) (s : State) : State :=
  match s.link? b with
  | none => s
  | some l =>
    if l.target && l.st == .up && !l.dataAsked && l.dataPecks.length < 16 * l.size then
      let c := s.lowestHeld b l
      ((s.onLink b (fun l => { l with dataAsked := true })).onPool (fun p =>
        { p with allocQ := SMap.put [] p.allocQ c (p.queueOf c ++ [{ ix := 131072 + b, count := 1, seen := false }]) })).considerHead c
    else s

/-- A peck granted behind DATA_CREDIT. -/
def State.giveCredit (b c p : Nat) (s : State) : State :=
  let s := s.onPeck p (fun k =>
    { k with alloc := true, sense := false, chan := c, length := 0, kind := 0, flags := 0, entry := 0, gen := 0,
             cw := 0, iter := 0, step := 0, addr := 0 })
  let s := s.onLink b (fun l =>
    { l with dataPecks := l.dataPecks ++ [p], dataCredit := l.dataCredit + 1, dataAsked := false, creditDue := true })
  ((s.notePecks c).askCredit b).fillChannels b

/-- The COMPLETION frame of an owner's command (R348, R355). -/
def completionFrame (c : Cmd) (us : List (Nat × LUnit)) (o : Origin) : RFrame :=
  let u := (us.map Prod.snd).head?
  let st := cmdStatus c us
  { mkFrame 3 with
      entry := o.entry, gen := o.gen, status := BitVec.ofNat 8 st.code,
      cflags := BitVec.ofNat 8 (cqFlags us false), iter := iterRun us, refire := refireReached us,
      decision := (match u with
        | some u => if u.kind == .readScan then u.dec else 0
        | none => 0),
      cwOk := (match u with
        | some u => if u.kind.reads then u.cwOk else 0
        | none => 0),
      rows := (match u with
        | some u => u.rows
        | none => 0),
      doneCount := (match c.op with
        | .calibrate | .patrolNow => doneCount c us
        | _ => st.good.toNat),
      failCw := (match u with
        | some u => u.failCw
        | none => 0) }

/-- The RETRACT form of a COMPLETION frame (R362). -/
def retractFrame (o : Origin) : RFrame := { mkFrame 3 with entry := o.entry, gen := o.gen, cflags := 8 }

/-! ## Acknowledges (R350) -/

/-- The DATA frame of a RAW packet has been acknowledged (R173, R351): its peck is free, to be filled again at the end that
reads host memory. -/
def State.packetAcked (ix : Nat) (u : LUnit) (c : Cmd) (s : State) : State :=
  let s := match if c.origin.isSome then s.rawPeck u u.src else none with
    | some p => (s.release [p]).onUnit ix (fun u => { u with pecks := u.pecks.filter (· != p) })
    | none => s
  s.onUnit ix (fun u => { u with src := u.src + 1 })

/-- What the acknowledge of one frame does: at the upstream end the starting step of a unit has ended (R354); at the
owner a peck is free, or a result leaves the log (R351, R362). -/
def State.ackedFrame (b : Nat) (target : Bool) (s : State) (f : RFrame) : State :=
  if target then
    if f.typ = 2 then
      match s.ldg.units.find? (fun e => (match s.cmdOf e.2 with
          | some c => (match c.origin with
            | some o => o.bundle == b && o.entry == f.entry && o.gen == f.gen
            | none => false)
          | none => false)) with
      | some (ix, u) => s.dmaLess ix (if u.kind == .readSherd then 4 else f.cw.toNat) (f.payload.length - 24)
      | none => s
    else if f.typ = 3 then
      match s.ldg.cmds.find? (fun e => (match e.2.origin with
          | some o => o.bundle == b && o.entry == f.entry && o.gen == f.gen && e.2.cqPos.isSome
          | none => false)) with
      | some (ctx, _) =>
        (s.onCmd ctx (fun c => { c with acked := true })).onLink b (fun l =>
          ({ l with held := l.held.filter (· != ctx), log := l.log.filter (fun r => r.ctx != ctx) }).grantCmds)
      | none => s
    else s
  else
    match s.unit? f.entry with
    | some u =>
      if u.gen == f.gen && u.bundle == some b then
        match s.cmdOf u with
        | some c =>
          let s := if f.typ = 2 && c.op == .raw then s.packetAcked f.entry u c else s
          if f.typ = 1 && !opPrograms c.op && relayIssued u then s.onUnit f.entry (fun u => { u with st := .onDie })
          else if f.typ = 2 && f.last && opPrograms c.op && (u.st == .data || relayIssued u) then s.onUnit f.entry (fun u => { u with st := .onDie })
          else s
        | none => s
      else s
    | none => s

/-- ACK = a acknowledges every frame up to SEQ a (R350). -/
def State.ackUpTo (b : Nat) (a : BitVec 12) (s : State) : State :=
  match s.link? b with
  | none => s
  | some l =>
    match l.unacked.findIdx? (fun u => u.1.seq == a) with
    | none => s
    | some i =>
      let s := s.onLink b (fun l => { l with unacked := l.unacked.drop (i + 1) })
      (l.unacked.take (i + 1)).foldl (fun s u => s.ackedFrame b l.target u.1) s

/-- Send every unacknowledged frame again, in SEQ order; each is counted (R350, R370). -/
def State.replayFrames (b : Nat) (s : State) : State :=
  match s.link? b with
  | none => s
  | some l =>
    ((s.onLink b (fun l => { l with retryQ := l.unacked.map Prod.fst })).onRly (fun r =>
      { r with retryCnt := r.retryCnt + BitVec.ofNat 32 l.unacked.length })).fillChannels b

end Sys2Proof.Machine
end

