-- ==== Sys2Proof/Machine/Deliver.lean ====
section
/-! DEFINITION. What a unit gives out: bytes into its chain, records into its stream (R126-R129, R286, R287), DATA and
COMPLETION frames to an upstream instance (R355); and what happens as a unit or a page ends. -/

namespace Sys2Proof.Machine

/-! ## Streams -/

/-- RLEN of a page's record (R286). -/
def recLen (u : LUnit) : Nat := if u.decided && u.dec == 1 then 32 else 32 + 4096 * popCount 4 u.sel.toNat

/-- The page has no record: it was retired or cancelled without being read (R286). -/
def noRecord (u : LUnit) : Bool := ended u && !u.won && (u.status == .ok || u.st == .cancelled)

/-- Write a record at position `p` of the circular segment, one write for each host line it lies in (R124); it continues at
BUF past the top (R126). -/
def State.streamRun (ctx ix : Nat) (t : Stream) (buf p : Nat) (bs : List Byte) (s : State) : State :=
  let size := 2 ^ t.wrap
  let at_ := p % size
  let first := bs.take (size - at_)
  let rest := bs.drop (size - at_)
  let s := s.writeLines (.cmd ctx) (.record ctx ix) (buf + at_) first
  let s := if rest.isEmpty then s else s.writeLines (.cmd ctx) (fun o => .record ctx ix (first.length + o)) buf rest
  s.onDma (fun m => { m with bytesWr := m.bytesWr + BitVec.ofNat 32 bs.length })

/-- The 32-byte header of a page's record (R286). R284 gives a page that ended before any decision no code: DESIGN CHOICE (log 139), its
DECISION is 0. -/
def recHeader (u : LUnit) : List Byte :=
  leBytes 4 (recLen u) ++ leBytes 1 (if u.st == .dma then goodStatus u else u.status).code ++ leBytes 1 u.dec ++
    leBytes 1 u.cwOk.toNat ++ leBytes 1 u.iter ++ leBytes 8 (faWithCw u.addr 0).toNat ++ leBytes 1 u.stepMax ++
    leBytes 1 u.replayed.toNat ++ leBytes 2 (if u.dec ≤ 1 then u.rows.toNat else 0) ++ leBytes 4 u.recTime.toNat ++ zeros 8

/-- Change a stream's control state. -/
def State.onStream (ctx : Nat) (f : Stream → Stream) (s : State) : State :=
  s.onChain (.cmd ctx) (fun h => { h with stream := h.stream.map f })

/-- The stream of a command. -/
def State.stream? (s : State) (ctx : Nat) : Option Stream := (s.chain? (.cmd ctx)).bind Chain.stream

/-- Fix the position of every page whose own decision is made and whose predecessors are fixed (R287). -/
def State.streamFix (ctx : Nat) (s : State) : State :=
  match s.cmd? ctx with
  | none => s
  | some c =>
    (c.units.foldl (fun (a : State × Bool) ix =>
      match a.1.unit? ix, a.1.stream? ctx with
      | some u, some t =>
        if u.recPos.isSome || noRecord u then a
        else if a.2 && (u.decided || ended u) then
          ((a.1.onUnit ix (fun u => { u with recPos := some t.fixed, recTime := BitVec.ofNat 32 a.1.now })).onStream ctx
            (fun t => { t with fixed := t.fixed + BitVec.ofNat 64 (recLen u),
                               admitted := t.admitted - (32 + 4096 * popCount 4 u.sel.toNat) }), true)
        else (a.1, false)
      | _, _ => a) (s, true)).1

/-- The body of a page's record (R286): the selected codewords in order, zeros for one that did not succeed. -/
def recBody (u : LUnit) (got : List Deliver) : List Byte :=
  if recLen u = 32 then []
  else ((bitsOf 4 u.sel.toNat).map (fun k =>
    match got.find? (fun d => d.cw == k) with
    | some d => pad 4096 d.bytes
    | none => zeros 4096)).flatten

/-- Write the record of every page that has ended and whose position is fixed; a page in DMA becomes DONE (R286, R287). -/
def State.streamPut (ctx : Nat) (s : State) : State :=
  match s.cmd? ctx with
  | none => s
  | some c =>
    c.units.foldl (fun s ix =>
      match s.unit? ix, s.chain? (.cmd ctx) with
      | some u, some h =>
        match u.recPos, h.stream, h.segs.head? with
        | some p, some t, some g =>
          if !u.recSent && ((u.st == .dma && (u.bundle.isNone || u.relayDone)) || ended u) then
            let got := h.todo.filter (fun d => d.ix == ix)
            let s := s.onChain (.cmd ctx) (fun h => { h with todo := h.todo.filter (fun d => d.ix != ix) })
            let s := s.streamRun ctx ix t g.buf p.toNat (recHeader u ++ recBody u got)
            let s := s.onUnit ix (fun u => { u with recSent := true })
            if u.st == .dma then s.endUnit ix .done (goodStatus u) 0 else s
          else s
        | _, _, _ => s
      | _, _ => s) s

/-- Write PROD and STATE of the control block (R127, R128). -/
def State.streamControl (ctx : Nat) (s : State) : State :=
  match s.stream? ctx with
  | none => s
  | some t =>
    s.chainWrite (.cmd ctx) (.stream ctx) t.ctrl
      (leBytes 8 t.prod.toNat ++ leBytes 4 (t.paused.toNat + 2 * t.ended.toNat))

/-- The position up to which every record has been written (R128). -/
def State.streamWritten (s : State) (c : Cmd) (t : Stream) : BitVec 64 :=
  ((s.unitsOf c).foldl (fun (a : BitVec 64 × Bool) e =>
    if !a.2 || noRecord e.2 then a
    else match e.2.recPos with
      | some p => if e.2.recSent then (p + BitVec.ofNat 64 (recLen e.2), true) else (a.1, false)
      | none => (a.1, false)) (t.prod, true)).1

/-- Advance PROD; a fill at or above HIGH first calls for a fresh read of CONS, behind one that is outstanding (R128). -/
def State.streamProd (ctx : Nat) (s : State) : State :=
  match s.cmd? ctx, s.stream? ctx with
  | some c, some t =>
    let w := s.streamWritten c t
    if w = t.prod || t.confirming then s
    else
      let s := s.onStream ctx (fun t => { t with prod := w })
      if !t.paused && t.high.toNat ≤ (w - t.cons).toNat then
        if t.asking then s.onStream ctx (fun t => { t with confirming := true, again := true })
        else
          (s.onStream ctx (fun t => { t with confirming := true, asking := true })).chainRead (.cmd ctx) (.cons ctx)
            (t.ctrl + 16) 8
      else s.streamControl ctx
  | _, _ => s

/-- After the last page: PROD with ENDED = 1, then OWN of the circular segment is cleared (R126, R128). -/
def State.streamEnd (ctx : Nat) (s : State) : State :=
  match s.cmd? ctx, s.chain? (.cmd ctx) with
  | some c, some h =>
    match h.stream, h.segs.head? with
    | some t, some g =>
      if t.ended || t.confirming || !s.unitsEnded c || !(t.left = 0 || c.stopped) ||
          !((s.unitsOf c).all (fun e => e.2.recSent || noRecord e.2)) then s
      else
        let s := ((s.onStream ctx (fun t => { t with ended := true })).streamControl ctx).chainWrite (.cmd ctx)
          (.segFlags (.cmd ctx) g.addr) (g.addr + 20) (segFlagsWord t.flags)
        s.onChain (.cmd ctx) (fun h =>
          { h with closing := true, segs := h.segs.map (fun g => { g with acc := 0, back := 2 }) })
    | _, _ => s
  | _, _ => s

/-- All that a stream can do now. -/
def State.streamSettle (ctx : Nat) (s : State) : State :=
  match s.chain? (.cmd ctx) with
  | some h =>
    if h.stream.isSome && h.moves && !s.dma.disable then
      (((s.streamFix ctx).streamPut ctx).streamProd ctx).streamEnd ctx
    else s
  | none => s

/-! ## Ends of units and commands -/

/-- An earlier command of the SQ, or with SCOPE_CQ of the CQ, is not yet acknowledged (R96). -/
def State.fenceWaits (s : State) (c : Cmd) : Bool :=
  s.ldg.cmds.any (fun e => e.2.seq < c.seq && !e.2.acked && e.2.origin.isNone &&
    (e.2.sq == c.sq || (bit c.raw 256 && e.2.cq == c.cq)))

/-- What the opcode itself still has to do (R96, R237). -/
def State.opDone (s : State) (c : Cmd) : Bool :=
  c.whole.isSome || c.doneCount.isSome ||
    (match c.op with
     | .ringFence => !s.fenceWaits c
     | .calibrate | .nvsSync => false
     | .patrolNow => c.units.length == entCount c.raw || c.stopped
     | _ => true)

/-- A command taken from a bundle completes into a COMPLETION frame (R355); after a link loss the result waits in the
log (R362). -/
def State.originDone (ctx : Nat) (s : State) : State :=
  match s.cmd? ctx with
  | none => s
  | some c =>
    match c.origin with
    | none => s
    | some o =>
      if c.cqPos.isSome || !s.unitsEnded c || !s.opDone c || c.units.any s.nvsOwes then s
      else
        let f := if c.loss = 1 then retractFrame o
          else if c.loss = 2 then { completionFrame c (s.unitsOf c) o with status := BitVec.ofNat 8 Status.relayLost.code }
          else completionFrame c (s.unitsOf c) o
        let s := s.onCmd ctx (fun c => { c with cqPos := some 0 })
        let s := if c.op = .fold then
            c.units.foldl (fun (s : State) ix => match s.unit? ix with
              | some u => (s.release u.pecks).onUnit ix (fun u => { u with pecks := [] })
              | none => s) s
          else s
        match s.link? o.bundle with
        | none => s.onCmd ctx (fun c => { c with acked := true })
        | some l =>
          if !l.held.contains ctx then s.onCmd ctx (fun c => { c with acked := true })
          else
            let s := s.onLink o.bundle (fun l => { l with log := l.log ++ [{ ctx := ctx, frame := f }] })
            if l.st == .up then s.queueFrame o.bundle f else s

/-- The relearn of a CALIBRATE ends without convergence once its last read has ended and no sample of it waits (R237): D is
restored, DONE_COUNT is 0; STATUS is that of its units (R99, log 22). -/
def State.calSettle (ctx : Nat) (s : State) : State :=
  match s.cmd? ctx with
  | none => s
  | some c =>
    if c.op != .calibrate || c.stage != 2 || c.doneCount.isSome || !s.unitsEnded c ||
        s.cal.samples.any (fun p => p.internal == some ctx) then s
    else
      let a := entAddr c.raw
      let key := 64 * faLun a + (match dieOf s (faLun a) with
        | some d => blockGroup d (faBlock a)
        | none => 0)
      (s.onCmd ctx (fun c => { c with doneCount := some 0 })).onCal (fun k =>
        { k with d := SMap.put 0 k.d key c.savedD })

/-- What follows the end of any unit of a command: its stream and chain go on, and close with the last unit. -/
def State.settle (ctx : Nat) (s : State) : State :=
  ((((s.pump (.cmd ctx)).streamSettle ctx).closeChain ctx).calSettle ctx).originDone ctx

/-- Give the bytes of one codeword, record or packet to whoever waits for them (R119, R287, R355): `off` is the offset
within the unit's place. -/
def State.giveOut (ctx ix cw off : Nat) (bytes : List Byte) (last : Bool) (s : State) : State :=
  match s.cmd? ctx with
  | none => s
  | some c =>
    match c.origin with
    | some o =>
      match if c.loss = 0 then s.peckOf ix cw else none with
      | some p =>
        let f := s.dataFrame ix p bytes.length last
        let s := s.onUnit ix (fun u => { u with dmaLeft := u.dmaLeft ++ [(cw, bytes.length)] })
        s.queueFrame o.bundle { f with entry := o.entry, gen := o.gen, payload := f.payload.take 24 ++ bytes }
      | none => s
    | none =>
      let s := s.deliver (.cmd ctx) ix cw off bytes.length bytes
      s.streamSettle ctx

/-- Offset of codeword `cw` within the place of a page: the selected codewords below it, 4,096 bytes each; in a stream
behind the 32-byte header (R96, R286). -/
def cwOffset (c : Cmd) (u : LUnit) (cw : Nat) : Nat :=
  (if c.op = .readStream then 32 else 0) + 4096 * popCount cw u.sel.toNat

/-- The bytes of `cws` of a page that takes a place will never be written (R96). -/
def State.skipCws (ctx ix : Nat) (cws : List Nat) (s : State) : State :=
  match s.cmd? ctx, s.unit? ix with
  | some c, some u =>
    if c.origin.isSome || c.op == .readStream || u.place != some true then s
    else cws.foldl (fun s cw => s.deliver (.cmd ctx) ix cw (cwOffset c u cw) 4096 []) s
  | _, _ => s

/-- End a unit under R99 and let its command go on: the codewords a page with a place did not deliver are passed over;
a record that will not come leaves its 80 bytes alone; after ABORT every unit ends BUS_ERROR (R131). -/
def State.endUnder (ix : Nat) (status : Status) (failCw : Nat) (s : State) : State :=
  match s.unit? ix with
  | none => s
  | some u =>
    if ended u then s
    else
      match u.ctx with
      | none => s.finish ix status failCw
      | some ctx =>
        let aborted := match s.chain? (.cmd ctx) with
          | some h => h.aborted
          | none => false
        let status := if aborted then .busError else status
        let s := s.skipCws ctx ix (bitsOf 4 (u.sel &&& ~~~u.cwOk).toNat)
        let s := if u.kind == .readSherd && !u.dmaDone then s.deliver (.cmd ctx) ix 4 0 80 [] else s
        (s.finish ix status failCw).settle ctx

/-- Every selected codeword of a read page has ended (R24, R99): all passed, and the page is in DMA until its last
write request; or the page takes the status of its lowest-numbered failing codeword. While the chain is halted the page stays as
it is (R130); after ABORT it ends BUS_ERROR (R131). -/
def State.pageEnd (ix : Nat) (s : State) : State :=
  match s.unit? ix with
  | none => s
  | some u =>
    if s.unitHeld u then s
    else match u.failed.foldl (fun (b : Option (Nat × Status)) f => match b with
        | some g => if f.1 < g.1 then some f else some g
        | none => some f) none with
    | some (cw, st) => s.endUnder ix st cw
    | none =>
      match u.ctx with
      | none => s.endUnit ix .done (goodStatus u) 0
      | some ctx =>
        if (s.chain? (.cmd ctx)).any (·.aborted) then s.endUnder ix .busError 0
        else
        let s := s.onUnit ix (fun u => { u with st := .dma })
        match s.cmd? ctx with
        | some c =>
          if c.origin.isSome then (s.endUnit ix .done (goodStatus u) 0).settle ctx
          else s.settle ctx
        | none => s

end Sys2Proof.Machine
end

