-- ==== Sys2Proof/Machine/Commands.lean ====
section
/-! DEFINITION. Fetched commands: taking a command (R92, R97, R314), its units, its chain and predicate; READ to NOP of
R95; CANCEL (R107-R109); entries taken and freed. CALIBRATE, PATROL_NOW and NVS_SYNC continue in their own families. -/

namespace Sys2Proof.Machine

/-! ## Taking a command -/

/-- The five context entries are distinct and FREE (R314). -/
def State.ctxFree (s : State) (ctx : List Nat) : Bool := ctx.length == 5 && ctx.Nodup && ctx.all s.isFree

/-- A command as it is taken: nothing of it has happened yet. -/
def Cmd.fresh (op : Op) (raw : BitVec 512) (sq : Nat) (pos : Word) (cq : Nat) (gen : BitVec 16) (ixs : List Nat)
    (now : Ns) (deadline seq : Nat) : Cmd :=
  { op := op, raw := raw, sq := sq, pos := pos, cq := cq, gen := gen, ixs := ixs, units := [], want := 0,
    fetched := now, deadline := deadline, seq := seq, whole := none, doneCount := none, stage := 0, asked := 0,
    pred := none, predWait := false, stopped := false, cqPos := none, cqBytes := [], acked := false, origin := none,
    flowWait := false, loss := 0, trained := false, savedD := 0 }

/-- Take five context entries for a command (R314, R318); the first one's GEN is the command's (R98). Idleness ends (R410,
R411). -/
def State.takeCmd (ctx : List Nat) (mk : BitVec 16 → Cmd) (s : State) : State :=
  let s := (ctx.foldl (fun s i => s.bumpGen i) s).onPwr (fun p => { p with idleSince := none })
  match ctx.head? with
  | some c0 =>
    s.onLdg (fun l => { l with cmds := SMap.set l.cmds c0 (mk (SMap.getD l.gens c0 0)), nextSeq := l.nextSeq + 1 })
  | none => s

/-- Bind the predicate of a scan (R103): from the cache, or by a read of the table (R48). VALID = 0 in the bound copy is
INVALID_DESCRIPTOR (R97, R282), which comes before a ROUTE_UNKNOWN that the fetch has found (R101). -/
def State.bindPredicate (ctx : Nat) (s : State) : State :=
  match s.cmd? ctx with
  | none => s
  | some c =>
    if !bindsPred c.op c.raw || c.whole.any (· != .routeUnknown) then s
    else
      let id := entPredId c.raw
      match s.hif.preds.find? (fun e => e.1 == id) with
      | some (_, bits) =>
        let s := (s.onHif (Hif.bindPred id bits)).onCmd ctx (fun c => { c with pred := some bits })
        if bit bits 0 then s else s.onCmd ctx (fun c => { c with whole := some .invalidDescriptor, want := 0 })
      | none =>
        (s.onCmd ctx (fun c => { c with predWait := true })).hdpRead
          { what := .pred ctx, tag := 0, seq := 0, addr := s.hif.predBase.toNat + 128 * id, size := 128, coherent := s.metaCoherent,
            urg := 0 }

/-- The command uses a chain (R95). -/
def opensChain (c : Cmd) : Bool :=
  opReads c.op || opPrograms c.op || (c.op == .raw && entRawLen c.raw != 0)

/-- Begin a command that has been taken: refuse it (R97, R29), or bind its predicate, open its chain and let its unit
entries be taken. -/
def State.beginCmd (ctx : Nat) (s : State) : State :=
  match s.cmd? ctx with
  | none => s
  | some c =>
    if c.whole.isSome then s.bindPredicate ctx
    else
      let s := s.onCmd ctx (fun c => { c with want := unitsAtFetch c.op c.raw })
      let s := s.bindPredicate ctx
      match s.cmd? ctx with
      | none => s
      | some c =>
        if c.whole.isSome then s
        else
          let s := if c.want = 0 then s else s.onHif (fun h => { h with waiting := some ctx })
          if opensChain c && c.origin.isNone then
            let h := Chain.start (entChain c.raw % 2 ^ 57)
            s.openChain ctx { h with walk := if opPrograms c.op then some { page := 0, data := 0, sherd := false } else none }
          else s

/-- The refusal a command meets at fetch: INVALID_DESCRIPTOR, then ROUTE_UNKNOWN (R97, R29, R101). -/
def State.fetchRefusal (s : State) (op : Op) (e : BitVec 512) : Option Status :=
  if !entryValid s op e then some .invalidDescriptor
  else if opAddressed op && faInst (entAddr e) != s.sys.instance_.toNat && (s.routeOf (faInst (entAddr e))).isNone then
    some .routeUnknown
  else none

/-- Accept an SQ entry whose OWN matches and whose OP is of this row (R92, R97, R314): the head moves on, the context
entries are taken, and the command begins. -/
def State.acceptEntry (op : Op) (e : BitVec 512) (ctx : List Nat) (s : State) : Option (Nat × State) :=
  if !s.going || !s.ctxFree ctx then none
  else
    match s.fetched with
    | none => none
    | some (q, k, t) =>
      if !s.ownMatches q k e || opOf (entOp e) ≠ op then none
      else
        let r := t.sq q
        let t := t.onSq q (fun r => { r with head := r.head + 1 })
        let d := if entDeadline e = 0 then r.latTarget else entDeadline e
        let t := t.takeCmd ctx (fun g =>
          { Cmd.fresh op e q k r.bind g ctx t.time.ns d t.ldg.nextSeq with whole := t.fetchRefusal op e })
        match ctx.head? with
        | some c0 => some (c0, t.beginCmd c0)
        | none => none

/-- The meaning of a fetched entry: `go` says what the opcode does beyond R314. -/
def fetchedMeaning (op : Op) (e : BitVec 512) (ctx : List Nat) (go : Nat → State → State) (s : State) : Res :=
  match s.acceptEntry op e ctx with
  | some (c0, t) =>
    match t.cmd? c0 with
    | some c => .next (if c.whole.isSome then t else go c0 t)
    | none => .next t
  | none => .next s

/-! ## Units -/

/-- Link a unit of a local command, or refuse it under R164 (R317). -/
def State.tryLink (ix : Nat) (s : State) : State :=
  match s.unit? ix with
  | none => s
  | some u =>
    match s.refuses u with
    | some st => s.endUnder ix st 0
    | none => s.link ix

/-- The packets a RAW moves at a time (R173). -/
def rawPecks (c : Cmd) : Nat := min 16 ((entRawLen c.raw + 4583) / 4584)

/-- The pages of a program command request their pecks in page order, each once the page before it has been granted
(R173). -/
def State.progAsk (ctx : Nat) (s : State) : State :=
  match s.cmd? ctx with
  | none => s
  | some c =>
    if !opPrograms c.op then s
    else match (s.unitsOf c).find? (fun e => !ended e.2 && e.2.pecks.isEmpty) with
      | some (ix, u) => if u.pecksAsked then s else s.askPecks u.chan ix 4
      | none => s

/-- Where a byte of a source unit's data goes (R172): the peck (of a RAW the packet), the offset in its payload, and how
many bytes follow there. The sherd of a program page stands behind the tag place of codeword 3. -/
def srcPlace (c : Cmd) (off : Nat) : Nat × Nat × Nat :=
  if c.op = .raw then (off / 4584, off % 4584, 4584 - off % 4584)
  else
    let pre := if entNoSherd c.raw then 0 else 72
    if off < pre then (3, 4104 + off, pre - off)
    else ((off - pre) / 4096, (off - pre) % 4096, 4096 - (off - pre) % 4096)

/-- The bytes that a source unit awaits, peck by peck (of a RAW packet by packet). -/
def srcLefts (c : Cmd) : List (Nat × Nat) :=
  if c.op = .raw then
    (List.range ((entRawLen c.raw + 4583) / 4584)).map (fun k => (k, min 4584 (entRawLen c.raw - 4584 * k)))
  else [(0, 4096), (1, 4096), (2, 4096), (3, if entNoSherd c.raw then 4096 else 4168)]

/-- Begin the DMA of a program page (R121, R164, R317): its pecks in hand and the chain's shape known. -/
def State.startDma (ix : Nat) (s : State) : State :=
  match s.unit? ix with
  | none => s
  | some u =>
    match u.ctx, s.cmdOf u with
    | some ctx, some c =>
      match s.chain? (.cmd ctx) with
      | none => s
      | some h =>
        if u.st != .fetched || u.pecks.isEmpty || !h.shaped || h.halted then s
        else
          match (if u.bundle.isSome then none else s.refuses u) with
          | some st => s.endUnder ix st 0
          | none =>
            let s := s.onUnit ix (fun u => { u with st := .dma, dmaLeft := srcLefts c, dmaDone := false })
            s.want (.cmd ctx) ix 0 0 (placeSize c)
    | _, _ => s

/-- Packets of a host-to-die RAW that have left the egress queue. -/
def State.rawSent (s : State) (ix : Nat) (u : LUnit) : Nat :=
  let t := s.lun (faLun u.addr)
  if u.bundle.isNone && t.rawOpen == some ix then t.rawMoved / 4584 else u.src

/-- Call for the next packets of a host-to-die RAW: a peck is filled again once its packet has left the egress queue
(R173). -/
def State.rawRefill (ix : Nat) (s : State) : State :=
  match s.unit? ix with
  | none => s
  | some u =>
    match u.ctx, s.cmdOf u with
    | some ctx, some c =>
      if c.op ≠ .raw ∨ !entRawOut c.raw ∨ u.pecks.isEmpty then s
      else
        let asked := c.asked
        let upto := min (entRawLen c.raw) (4584 * (s.rawSent ix u + u.pecks.length))
        if asked < upto then (s.onCmd ctx (fun c => { c with asked := upto })).want (.cmd ctx) ix 0 asked (upto - asked)
        else s
    | _, _ => s

/-- A unit of another instance is bound to the bundle of its route, where there is one (R353). -/
def State.bindRoute (ix inst : Nat) (s : State) : State :=
  if inst != s.sys.instance_.toNat then
    match s.routeOf inst with
    | some b => s.bindBundle ix b
    | none => s
  else s

/-- A host-to-die RAW notes what its chain is to bring (R116, R321). -/
def State.noteSources (c : Cmd) (ix : Nat) (s : State) : State :=
  if c.op = .raw ∧ entRawOut c.raw ∧ entRawLen c.raw ≠ 0 then s.onUnit ix (fun u => { u with dmaLeft := srcLefts c }) else s

/-- A unit that goes over a bundle begins (R353, R354): a program asks for its data first. -/
def State.beginAway (ctx : Nat) (c : Cmd) (ix : Nat) (s : State) : State :=
  if opPrograms c.op then s.progAsk ctx else if c.predWait then s else (s.noteSources c ix).relayQueue ix

/-- A unit of this instance begins (R141, R172): a program asks for its data, the others are linked, and a RAW asks for its pecks. -/
def State.beginHere (ctx : Nat) (c : Cmd) (ix : Nat) (s : State) : State :=
  if opPrograms c.op then s.progAsk ctx
  else if c.predWait then s
  else
    let s := (s.noteSources c ix).tryLink ix
    match s.unit? ix with
    | none => s
    | some u =>
      if c.op = .raw ∧ !ended u then
        (s.onUnit ix (fun u => { u with dmaDone := entRawLen c.raw == 0 || !entRawOut c.raw })).askPecks u.chan ix (rawPecks c)
      else s

/-- What a unit does as soon as it has been taken (R314, R317): a unit of a command whose chain has been aborted ends
BUS_ERROR (R131), one of a foreign instance whose route has gone since the fetch ROUTE_UNKNOWN (R29); while its chain is halted it stays FETCHED
(R130). -/
def State.beginUnit (ix : Nat) (s : State) : State :=
  match s.unit? ix with
  | none => s
  | some u =>
    match u.ctx, s.cmdOf u with
    | some ctx, some c =>
      if (s.chain? (.cmd ctx)).any (·.aborted) then s.endUnder ix .busError 0
      else if s.unitHeld u then s
      else if c.stopped && c.op != .readSherd then
        (s.endUnit ix .done (match c.whole with
          | some st => st
          | none => .ok) 0).settle ctx
      else
        let inst := faInst u.addr
        let s := s.bindRoute ix inst
        if inst != s.sys.instance_.toNat && ((s.unit? ix).bind LUnit.bundle).isNone then
          (if c.predWait then s else s.endUnder ix .routeUnknown 0)
        else if ((s.unit? ix).bind LUnit.bundle).isSome then s.beginAway ctx c ix else s.beginHere ctx c ix
    | _, _ => s

/-- The codewords a unit of an opcode moves. -/
def unitSel (op : Op) (e : BitVec 512) : BitVec 4 :=
  match op with
  | .read | .readScan | .readStream => entCwMask op e
  | .fold | .patrolNow | .calibrate => 0xF
  | _ => 0

/-- The (block, plane) places of a block group that patrol does not pass over, in patrol order (R237, R239). -/
def State.groupPlaces (s : State) (d : DieType) (a : BitVec 64) : List (Nat × Nat) :=
  let g := groupShift d
  let first := blockGroup d (faBlock a) <<< g
  ((List.range (2 ^ g)).flatMap (fun b => (List.range d.planes).map (fun p => (first + b, p)))).filter (fun q =>
    let at_ := faWithPlane (faWithBlock a q.1) q.2
    q.1 < d.blocks && !s.isWaster at_ && !s.isCrazed at_)

/-- How many internal reads a relearn issues: at most 64 (R237). -/
def State.groupReads (s : State) (a : BitVec 64) : Nat :=
  match dieOf s (faLun a) with
  | some d => min 64 ((s.groupPlaces d a).length * d.pages)
  | none => 0

/-- The address of internal read `n` of a relearn, in patrol order within the group (R237, R239). -/
def State.groupAddr (s : State) (a : BitVec 64) (n : Nat) : BitVec 64 :=
  match dieOf s (faLun a) with
  | some d =>
    match (s.groupPlaces d a)[n / d.pages]? with
    | some q => faWithPage (faWithPlane (faWithBlock a q.1) q.2) (n % d.pages)
    | none => a
  | none => a

/-- Take one unit entry of the waiting command (R314). -/
def State.takeNext (ctx ix : Nat) (s : State) : State :=
  match s.cmd? ctx with
  | none => s
  | some c =>
    let pos := c.units.length
    let a := if c.op = .calibrate ∧ faInst (entAddr c.raw) = s.sys.instance_.toNat then s.groupAddr (entAddr c.raw) pos
      else unitAddr c.op c.raw pos
    let s := s.takeUnit ix (unitKind c.op) (some ctx) pos a (unitSel c.op c.raw)
    let s := s.onCmd ctx (fun c => { c with want := c.want - 1 })
    let s := if c.want ≤ 1 ∧ s.hif.waiting = some ctx then s.onHif (fun h => { h with waiting := none }) else s
    s.beginUnit ix

/-- UNIT_ENTRY_TAKEN (R314, R317, R318, R338). -/
def execUnitEntryTaken (ctx ix : Nat) (ecc : Ecc) (s : State) : Res :=
  match s.cmd? ctx with
  | some c =>
    onlyIf (s.going && c.want != 0 && s.isFree ix && !c.ixs.contains ix)
      (fun s => let t := s.ecc ecc; if eccHalts ecc then t else t.takeNext ctx ix) s
  | none => .next s

/-- No event inside the instance is addressed to an entry any more (R320): no decode item, no packet on its way, no delay-list
event, no grant. -/
def State.eventsGone (s : State) (ix : Nat) : Bool :=
  !(s.dec.hardQ ++ s.dec.softQ ++ s.dec.bchQ).any (fun i => i.ix == ix) && !s.dec.busy.any (fun e => e.2.1.ix == ix) &&
    s.che.all (fun c => !c.2.late.any (fun e => e.ix == ix) &&
      (c.2.grant.toList ++ c.2.next.toList).all (fun g => !g.expect.any (fun e => e.ix == ix) && !g.members.contains ix)) &&
    s.luns.all (fun l => l.2.ev.all.all (fun e => !(e.ent.any (fun q => q.1 == ix))))

/-- An entry returns to FREE (R317, R320): the command's CQ write has been acknowledged, nothing of it is under way, and
2 µs have passed since the entry became FETCHED. Naming any of a command's five context entries frees the five. -/
def State.freeable (s : State) (ix : Nat) : Bool :=
  match s.unit? ix with
  | some u =>
    ended u && s.passed u.fetched 2000 && u.pecks.isEmpty && s.eventsGone ix &&
      (match u.ctx with
       | some ctx => (match s.cmd? ctx with
         | some c => c.acked && !s.writesOut ctx && !(s.chain? (.cmd ctx)).any (fun h => h.halted)
         | none => true)
       | none => true)
  | none =>
    match s.ldg.cmds.find? (fun e => e.2.ixs.contains ix) with
    | some (ctx, c) => c.acked && s.passed c.fetched 2000 && c.units.isEmpty && !s.writesOut ctx &&
        !(s.chain? (.cmd ctx)).any (fun h => h.halted)
    | none => false

/-- ENTRY_FREE (R317, R320). -/
def execEntryFree (ix : Nat) (s : State) : Res :=
  onlyIf (s.live && s.freeable ix) (fun s =>
    match s.unit? ix with
    | some u =>
      let s := s.onLdg (fun l => { l with units := SMap.erase l.units ix })
      match u.ctx with
      | some ctx => s.onCmd ctx (fun c => { c with units := c.units.filter (· != ix) })
      | none => s
    | none =>
      match s.ldg.cmds.find? (fun e => e.2.ixs.contains ix) with
      | some (ctx, _) =>
        (s.onLdg (fun l => { l with cmds := SMap.erase l.cmds ctx })).onDma (fun d =>
          { d with chains := SMap.erase d.chains ctx })
      | none => s) s

/-! ## The opcodes -/

/-- UNKNOWN_OPCODE (R95, R97): completes INVALID_DESCRIPTOR. -/
def execUnknownOpcode (entry : BitVec 512) (ctx : List Nat) (s : State) : Res :=
  fetchedMeaning .unknown entry ctx (fun _ s => s) s

/-- READ (R96): one unit entry a page, into the chain. -/
def execRead (entry : BitVec 512) (ctx : List Nat) (s : State) : Res := fetchedMeaning .read entry ctx (fun _ s => s) s

/-- READ_SCAN (R96, R103): as READ, with a predicate bound. -/
def execReadScan (entry : BitVec 512) (ctx : List Nat) (s : State) : Res :=
  fetchedMeaning .readScan entry ctx (fun _ s => s) s

/-- READ_SHERD (R96): one 80-byte record a page. -/
def execReadSherd (entry : BitVec 512) (ctx : List Nat) (s : State) : Res :=
  fetchedMeaning .readSherd entry ctx (fun _ s => s) s

/-- READ_STREAM (R96, R126, R128): pages are admitted one by one (STREAM_PAGE_ADMIT). -/
def execReadStream (entry : BitVec 512) (ctx : List Nat) (s : State) : Res :=
  fetchedMeaning .readStream entry ctx (fun _ s => s) s

/-- PROGRAM (R96, R121): the chain's shape is walked, the pages take pecks and data in order. -/
def execProgram (entry : BitVec 512) (ctx : List Nat) (s : State) : Res :=
  fetchedMeaning .program entry ctx (fun _ s => s) s

/-- PROGRAM_SLC (R96): as PROGRAM. -/
def execProgramSlc (entry : BitVec 512) (ctx : List Nat) (s : State) : Res :=
  fetchedMeaning .programSlc entry ctx (fun _ s => s) s

/-- FOLD (R96, R154): one unit, linked on its order list. -/
def execFold (entry : BitVec 512) (ctx : List Nat) (s : State) : Res := fetchedMeaning .fold entry ctx (fun _ s => s) s

/-- ERASE (R96, R153): one unit a block, linked on its order list. -/
def execErase (entry : BitVec 512) (ctx : List Nat) (s : State) : Res := fetchedMeaning .erase entry ctx (fun _ s => s) s

/-- RAW (R96): one unit, linked on its order list. -/
def execRaw (entry : BitVec 512) (ctx : List Nat) (s : State) : Res := fetchedMeaning .raw entry ctx (fun _ s => s) s

/-- NOP (R96): completes OK. -/
def execNop (entry : BitVec 512) (ctx : List Nat) (s : State) : Res := fetchedMeaning .nop entry ctx (fun _ s => s) s

/-- RING_FENCE (R96): no later entry of its SQ is fetched until it has completed. -/
def execRingFence (entry : BitVec 512) (ctx : List Nat) (s : State) : Res :=
  fetchedMeaning .ringFence entry ctx (fun c0 s =>
    match s.cmd? c0 with
    | some c => s.onSq c.sq (fun q => { q with fence := some c0 })
    | none => s) s

/-! ## CANCEL -/

/-- The target of a CANCEL (R107): the oldest open command with TGT_CMD_ID fetched from TGT_SQ before it. -/
def State.cancelTarget (s : State) (c : Cmd) : Option (Nat × Cmd) :=
  (s.ldg.cmds.filter (fun e => e.2.sq == ent c.raw 32 1 && entCmdId e.2.raw == ent c.raw 34 2 && e.2.seq < c.seq &&
      opCancellable e.2.op && e.2.cqPos.isNone && e.2.origin.isNone)).foldl
    (fun b e => match b with
      | some a => if e.2.seq < a.2.seq then some e else some a
      | none => some e) none

/-- The cancel wins an entry (R108): it becomes CANCELLED, leaves its lists, and its pecks are released. A replayed page
that had taken a place leaves it unwritten (R96, R325). -/
def State.cancelUnit (ix : Nat) (s : State) : State :=
  match s.unit? ix with
  | none => s
  | some u =>
    let s := s.endUnit ix .cancelled .cancelled 0
    let s := s.onUnit ix (fun u => { u with pecks := [], dmaLeft := [] })
    let s := s.release u.pecks
    let s := match u.bundle with
      | some b => s.onLink b (fun l => { l with waiting := l.waiting.filter (· != ix) })
      | none => s
    match u.ctx with
    | some ctx =>
      (s.onChain (.cmd ctx) (fun h => { h with todo := h.todo.filter (fun d => d.ix != ix) })).skipCws ctx ix
        (bitsOf 4 u.sel.toNat)
    | none => s

/-- Contest every undecided entry of the target (R108, R109): those without issue are cancelled, the others lost. -/
def State.cancelAll (target : Nat) (s : State) : State × Nat × Nat :=
  match s.cmd? target with
  | none => (s, 0, 0)
  | some t =>
    let open_ := (s.unitsOf t).filter (fun e => !ended e.2 && !e.2.contested)
    let a := open_.foldl (fun (a : State × Nat × Nat) e =>
      let s := a.1.onUnit e.1 (fun u => { u with contested := true })
      if unissued e.2 then (s.cancelUnit e.1, a.2.1 + 1, a.2.2) else (s, a.2.1, a.2.2 + 1)) (s, 0, 0)
    let first := (open_.filter (fun e => unissued e.2)).foldl (fun m e => min m e.2.pos) (2 ^ 32)
    let s := if a.2.1 = 0 then a.1 else ((a.1.stopAfter target first).progAsk target).settle target
    (s, a.2.1, a.2.2)

/-- CANCEL (R107-R109): CANCELLED where it won for every entry it contested, CANCEL_TOO_LATE otherwise; DONE_COUNT is the
number of entries cancelled. -/
def execCancel (entry : BitVec 512) (ctx : List Nat) (s : State) : Res :=
  fetchedMeaning .cancel entry ctx (fun c0 s =>
    match s.cmd? c0 with
    | none => s
    | some c =>
      let r := match s.cancelTarget c with
        | some (t, _) => s.cancelAll t
        | none => (s, 0, 0)
      r.1.onCmd c0 (fun c =>
        { c with doneCount := some r.2.1,
                 whole := some (if 0 < r.2.1 ∧ r.2.2 = 0 then .cancelled else .cancelTooLate) })) s

/-! ## Predicates -/

/-- The binding of a command's predicate has ended (R48, R103, R282): its units are linked. A command whose route the fetch did
not find keeps ROUTE_UNKNOWN (R101). -/
def State.predBound (ctx : Nat) (s : State) : State :=
  match s.cmd? ctx with
  | none => s
  | some c =>
    match c.whole with
    | some _ => s
    | none => c.units.foldl (fun s ix =>
        match s.unit? ix with
        | some u => if u.st == .fetched then s.beginUnit ix else s
        | none => s) s

/-- A command that is refused takes no further unit entry (R92). -/
def State.stopTaking (ctx : Nat) (s : State) : State :=
  let s := s.onCmd ctx (fun c => { c with want := 0 })
  if s.hif.waiting = some ctx then s.onHif (fun h => { h with waiting := none }) else s

/-- A command that ends for its predicate moves no data: its chain closes without a write. -/
def State.predRefused (ctx : Nat) (status : Status) (s : State) : State :=
  let s := s.failWhole ctx status
  let s := s.stopTaking ctx
  let s := s.onChain (.cmd ctx) (fun h => { h with closing := true, segs := [], todo := [], stream := none, next := none })
  s.originDone ctx

/-- PREDICATE_DATA (R102, R103): what an invalidation has overtaken binds without being cached. -/
def execPredicateData (ctx : Nat) (bits : BitVec 1024) (s : State) : Res :=
  match s.popRead (fun r => r.what == .pred ctx) with
  | none => .next s
  | some (_, t) =>
    match t.cmd? ctx with
    | none => onlyIf s.live (fun _ => t) s
    | some c =>
      onlyIf s.live (fun _ =>
        let t := (t.onHif (fun h =>
          let h' := if h.predStale.contains ctx then h else h.bindPred (entPredId c.raw) bits
          { h' with predStale := h.predStale.filter (· != ctx) })).onCmd ctx (fun c =>
          { c with pred := some bits, predWait := false })
        if bit bits 0 then t.predBound ctx else t.predRefused ctx .invalidDescriptor) s

/-- PREDICATE_FETCH_ERROR (R103): BUS_ERROR, and KIND 3 is recorded. DESIGN CHOICE (log 140): so too for a command whose route the
fetch did not find; R101 orders ROUTE_UNKNOWN behind INVALID_DESCRIPTOR alone. -/
def execPredicateFetchError (ctx : Nat) (s : State) : Res :=
  match s.popRead (fun r => r.what == .pred ctx) with
  | none => .next s
  | some (r, t) => onlyIf s.live (fun _ => (t.hifError 3 0 r.addr).predRefused ctx .busError) s

end Sys2Proof.Machine
end

