-- ==== Sys2Proof/Machine/Dma.lean ====
section
/-! DEFINITION. Meanings of the chain rows: descriptors and data that return, acknowledges, bus errors, RESUME and ABORT,
the chain disable, streams, and what happens to the HDP around a reset. -/

namespace Sys2Proof.Machine

/-! ## The shape walk of a program chain (R121) -/

/-- One descriptor of the walk: the walk goes on, or `none` where the chain is of the wrong shape. -/
def walkStep (noSherd : Bool) (w : Walk) (g : Seg) : Option Walk :=
  if g.len = 0 then some w
  else if !noSherd && !w.sherd then
    if bit g.flags 0 && g.len == 72 then some { w with sherd := true } else none
  else if bit g.flags 0 || 16384 < w.data + g.len then none
  else if w.data + g.len = 16384 then some { page := w.page + 1, data := 0, sherd := false }
  else some { w with data := w.data + g.len }

/-- A chain of the wrong shape: INVALID_DESCRIPTOR, and no page is programmed (R96, R121). -/
def State.wrongShape (ctx : Nat) (s : State) : State :=
  let s := (s.failWhole ctx .invalidDescriptor).stopTaking ctx
  (s.onChain (.cmd ctx) (fun h => { h with closing := true, segs := [], todo := [], next := none, walk := none })).originDone ctx

/-- The shape holds: the chain is walked again from its head for the data, and granted pages begin their DMA. -/
def State.shapeDone (ctx : Nat) (s : State) : State :=
  match s.cmd? ctx with
  | none => s
  | some c =>
    let s := s.onChain (.cmd ctx) (fun h =>
      { Chain.start h.head with shaped := true, halted := h.halted, failed := h.failed })
    let s := s.readSeg (.cmd ctx)
    c.units.foldl (fun s ix => s.startDma ix) s

/-- A descriptor of the walk has been read (R121). -/
def State.walkSeg (ctx : Nat) (g : Seg) (w : Walk) (s : State) : State :=
  match s.cmd? ctx with
  | none => s
  | some c =>
    match walkStep (entNoSherd c.raw) w g with
    | none => s.wrongShape ctx
    | some w =>
      if w.page = entCount c.raw then s.shapeDone ctx
      else
        let s := s.onChain (.cmd ctx) (fun h => { h with walk := some w, segs := [g], next := none })
        if linkEnd g.link then s.readLink (.cmd ctx) g.addr
        else (s.onChain (.cmd ctx) (fun h => { h with next := some (linkAddr g.link) })).readSeg (.cmd ctx)

/-! ## Legacy copy (R136) -/

/-- The length at which a legacy copy ends, once an end is in reach: that of the shorter stream. -/
def legacyEnd (a b : Chain) : Option Nat :=
  let atEnd (h : Chain) : Bool := match h.segs.getLast? with
    | some g => linkEnd g.link
    | none => h.ended
  if atEnd a && atEnd b then some (min a.base b.base)
  else if atEnd a && a.base ≤ b.base then some a.base
  else if atEnd b && b.base ≤ a.base then some b.base
  else none

/-- Writes of the legacy copy not yet acknowledged. -/
def State.legacyOut (s : State) : Bool :=
  (s.hdp.writes ++ s.hdp.heldWrites).any (fun w => w.id == 0x3FF && w.what != .gone)

/-- DONE and not BUSY once the last write-back has been acknowledged (R136), at once where nothing is left to be
acknowledged; not while the copy is halted or a failed access of it waits. -/
def State.legacyDone (s : State) : State :=
  let l := s.dma.leg
  let settled (h : Chain) : Bool := h.segs.all (fun g => g.back == 2 || !segFinished (2 ^ 64) h g)
  if l.busy && l.finish && !l.halt && l.srcChain.failed.isEmpty && l.dstChain.failed.isEmpty && !s.legacyOut && settled l.srcChain && settled l.dstChain then
    s.onDma (fun d => { d with leg := { d.leg with busy := false, done := true } })
  else s

/-- Go on with a legacy copy: read what both streams are known to hold, and after the last byte write back the segments
that remain. -/
def State.legacyPump (s : State) : State :=
  if !s.dma.leg.busy || s.dma.leg.halt || s.dma.disable then s
  else
    let l := s.dma.leg
    let upto := min l.srcChain.base l.dstChain.base
    let s := if l.asked < upto then
        (s.onDma (fun d => { d with leg := { d.leg with asked := upto } })).want .legSrc 0 255 l.asked (upto - l.asked)
      else (s.pump .legSrc)
    let s := s.pump .legDst
    let l := s.dma.leg
    match legacyEnd l.srcChain l.dstChain with
    | none => s
    | some n =>
      if n ≤ l.copied && !l.finish then
        let close (h : Chain) : Chain := { h with closing := true, todo := [], next := none, ownWait := none }
        let s := s.onDma (fun d =>
          { d with leg := { d.leg with finish := true, srcChain := close d.leg.srcChain, dstChain := close d.leg.dstChain } })
        ((s.writeBacks .legSrc).writeBacks .legDst).legacyDone
      else s

/-! ## Returned descriptors and links -/

/-- A circular segment (R117, R126): the stream of a READ_STREAM, whose CONS, HIGH and LOW are then read (R128). -/
def State.openStream (ctx : Nat) (g : Seg) (d : BitVec 256) (s : State) : State :=
  match s.cmd? ctx with
  | none => s
  | some c =>
    let w := fld g.flags 8 6
    let t : Stream :=
      { wrap := if w < 12 then 12 else if 32 < w then 32 else w, ctrl := fld d 198 51 * 64, prod := 0, cons := 0,
        high := 0, low := 0, fixed := 0, known := false, paused := false, confirming := false, again := false, ended := false,
        addr := entAddr c.raw, left := entCount c.raw, admitted := 0, seg := g.addr, flags := g.flags, asking := true }
    (s.onChain (.cmd ctx) (fun h => { h with segs := [g], next := none, stream := some t })).chainRead (.cmd ctx)
      (.cons ctx) t.ctrl 64

/-- A segment descriptor has been read (R118, R119): OWN = 0 makes the chain wait on it. A legacy chain reads on past a
segment of LENGTH 0, as its end is sought in any case. -/
def State.segIn (id : ChainId) (addr : Nat) (d : BitVec 256) (s : State) : State :=
  match s.chain? id with
  | none => s
  | some h =>
    let s := s.onChain id (fun h => { h with reading := false })
    let g := segOf addr h.base d
    if h.closing || h.aborted then s
    else if !flagsOwn g.flags then s.onChain id (fun h => { h with ownWait := some addr, next := none })
    else
      match id with
      | .cmd ctx =>
        match s.cmd? ctx with
        | some c =>
          if c.op = .readStream then s.openStream ctx g d
          else match h.walk with
            | some w => s.walkSeg ctx g w
            | none =>
              (s.onChain id (fun h => { h with segs := h.segs ++ [g], base := h.base + g.len, next := none })).settle ctx
        | none => s
      | _ =>
        (s.onChain id (fun h =>
          { h with segs := h.segs ++ [g], base := h.base + g.len, next := none,
                   reach := if g.len = 0 then max h.reach (g.base + 1) else h.reach })).legacyPump

/-- SEGMENT_DESCRIPTOR_DATA (R118, R119, R121); after DISABLE it is discarded (R132). -/
def execSegmentDescriptorData (chain : ChainId) (desc : BitVec 256) (s : State) : Res :=
  match s.popRead (fun r => r.what == .seg chain) with
  | some (r, t) => onlyIf s.live (fun _ => if s.dma.disable then t.loseAccess (.rd r) else t.segIn chain r.addr desc) s
  | none => s.answerGone

/-- The LINK word of the last segment has been read again (R120). -/
def State.linkIn (id : ChainId) (link : BitVec 64) (s : State) : State :=
  match s.chain? id with
  | none => s
  | some h =>
    let s := s.onChain id (fun h => { h with reading := false })
    match h.segs.getLast? with
    | none => s
    | some g =>
      if h.closing || h.aborted then s
      else if linkEnd link then
        if segAppend g then s.onChain id (fun h => { h with park := some g.addr })
        else
          match id, h.walk with
          | .cmd ctx, some _ => s.wrongShape ctx
          | .cmd ctx, none => (s.endShort id).settle ctx
          | _, _ => s
      else
        let s := s.onChain id (fun h =>
          { h with park := none,
                   segs := h.segs.map (fun k => if k.addr == g.addr && k.base == g.base then { k with link := link } else k) })
        match id, h.walk with
        | _, some _ => (s.onChain id (fun h => { h with next := some (linkAddr link) })).readSeg id
        | .cmd ctx, none => s.settle ctx
        | _, none => s.pump id

/-- APPEND_LINK_DATA (R120, R123); after DISABLE it is discarded (R132). -/
def execAppendLinkData (chain : ChainId) (link : BitVec 64) (s : State) : Res :=
  match s.popRead (fun r => r.what == .link chain) with
  | some (r, t) => onlyIf s.live (fun _ => if s.dma.disable then t.loseAccess (.rd r) else t.linkIn chain link) s
  | none => s.answerGone

/-! ## Source data -/

/-- Cut source bytes at an offset within a unit's data into the parts that go to one peck each: (peck, offset, bytes). -/
def srcParts (c : Cmd) : Nat → Nat → List Byte → List (Nat × Nat × List Byte)
  | 0, _, _ => []
  | fuel + 1, off, bs =>
    if bs.isEmpty then []
    else
      let p := srcPlace c off
      (p.1, p.2.1, bs.take p.2.2) :: srcParts c fuel (off + p.2.2) (bs.drop p.2.2)

/-- The DMA of one peck has ended (R171): its LENGTH and KIND are written, and for a RAW the packet number. R171 does not say whether the
hole before the sherd counts in the LENGTH of codeword 3: DESIGN CHOICE (log 134), it does, as in the relay frame (R349). -/
def State.peckFilled (ix key : Nat) (c : Cmd) (s : State) : State :=
  match (s.unit? ix).bind (fun u => u.pecks[key % u.pecks.length]?) with
  | some p => s.onPeck p (fun k =>
      if c.op = .raw then { k with kind := 2, cw := key % 256, length := min 4584 (entRawLen c.raw - 4584 * key) }
      else { k with kind := 3, length := if key = 3 ∧ !entNoSherd c.raw then 4176 else 4096 })
  | none => s

/-- Bytes of one peck have come (R172). -/
def State.storePart (ix : Nat) (c : Cmd) (s : State) (q : Nat × Nat × List Byte) : State :=
  let s := match (s.unit? ix).bind (fun u => u.pecks[q.1 % u.pecks.length]?) with
    | some p => s.onPeck p (fun k => { k with payload := overlay k.payload q.2.1 q.2.2 })
    | none => s
  let s := s.dmaLess ix q.1 q.2.2.length
  if (s.unit? ix).any (fun u => u.dmaLeft.all (fun d => d.1 != q.1)) then s.peckFilled ix q.1 c else s

/-- Put source bytes of a program page, or of a RAW, into its pecks (R172). -/
def State.storeSource (ix : Nat) (c : Cmd) (off : Nat) (bs : List Byte) (s : State) : State :=
  (srcParts c 4 off bs).foldl (State.storePart ix c) s

/-- All bytes of a program page, or of a RAW's transfer, have come. -/
def State.sourceDone (ix : Nat) (s : State) : State :=
  let s := s.onUnit ix (fun u => { u with dmaDone := true })
  match s.unit? ix with
  | some u =>
    match u.bundle with
    | some b => if u.st == .queued || u.st == .issued then s.relayPump b else s
    | none => s
  | none => s

/-- Source bytes have returned (R119, R122, R139): into the pecks of their unit, or on to the legacy destination. -/
def State.sourceIn (id : ChainId) (ix off len skip : Nat) (data : List Byte) (s : State) : State :=
  let bs := pad len (slice data skip len)
  let s := s.onDma (fun d => { d with bytesRd := d.bytesRd + BitVec.ofNat 32 len })
  match id with
  | .cmd ctx =>
    match s.cmd? ctx, s.unit? ix with
    | some c, some u =>
      let p := (s.placeOf id ix).getD 0 + off
      let s := match s.chain? id with
        | some h => (segParts h.segs p len).foldl (fun (s : State) (q : Nat × Nat × Nat × Nat) => s.onChain id (fun h => h.account q.1 q.2.2.2 true)) s
        | none => s
      if ended u || (u.dmaLeft.isEmpty && c.op != .raw) then s.settle ctx
      else
        let s := s.storeSource ix c off bs
        let s := if ((s.unit? ix).map LUnit.dmaLeft) = some [] then s.sourceDone ix else s
        let s := match u.bundle with
          | some b => if c.op = Op.raw then s.relayPump b else s
          | none => s
        (s.rawRefill ix).settle ctx
    | _, _ => s
  | _ =>
    let s := match s.chain? .legSrc with
      | some h => (segParts h.segs off len).foldl (fun (s : State) (q : Nat × Nat × Nat × Nat) => s.onChain .legSrc (fun h => h.account q.1 q.2.2.2 true)) s
      | none => s
    (s.onChain .legDst (fun (h : Chain) =>
      { h with todo := h.todo ++ [{ ix := 0, cw := 255, off := off, len := len, bytes := bs }] })).legacyPump

/-- A read brings source data of a chain. -/
def isSrcOf (id : ChainId) (r : HdpRd) : Bool :=
  match r.what with
  | .src c _ _ _ _ => c == id
  | _ => false

/-- A source read that the tag names has returned (R54, R125): the state with its bytes taken, and the unit they are for. -/
def State.sourceReturn (chain : ChainId) (tag : Nat) (data : List Byte) (s : State) : Option (Nat × State) :=
  (s.popTag tag (isSrcOf chain)).bind (fun q =>
    match q.1.what with
    | .src _ ix off len skip => some (ix, if q.2.dma.disable then q.2.loseAccess (.rd q.1) else q.2.sourceIn chain ix off len skip data)
    | _ => none)

/-- PROGRAM_PAGE_LINK (R96, R142): a page joins its die queue, or its bundle's queue, once its own DMA and that of every
earlier page have ended; not while its chain is halted (R130), nor after DISABLE (R132). -/
def execProgramPageLink (ix : Nat) (s : State) : Res :=
  match s.unit? ix with
  | none => .next s
  | some u =>
    match s.cmdOf u with
    | none => .next s
    | some c =>
      let earlier := (s.unitsOf c).filter (fun e => e.2.pos < u.pos)
      onlyIf (s.going && opPrograms c.op && u.st == .dma && u.dmaDone && !s.dma.disable && !s.unitHeld u &&
          earlier.all (fun e => ended e.2 || e.2.linkPos.isSome || (e.2.bundle.isSome && e.2.st != .dma && e.2.st != .fetched)))
        (fun s => match u.bundle with
          | some b => ((s.onUnit ix (fun u => { u with st := .queued })).onLink b (fun l =>
              { l with waiting := l.waiting ++ [ix] })).relayPump b
          | none => if (s.chan (faChan u.addr)).fenced then s.endUnder ix .channelFenced 0 else s.link ix) s

/-! ## Acknowledges -/

/-- Bytes of a stream record have been acknowledged: those of its body count for their codewords (R173, R286). -/
def State.recordLess (ix off n : Nat) (s : State) : State :=
  match s.unit? ix with
  | none => s
  | some u =>
    let cws := bitsOf 4 u.sel.toNat
    (cws.zip (List.range cws.length)).foldl (fun (s : State) q =>
      let lo := max off (32 + 4096 * q.2)
      let hi := min (off + n) (32 + 4096 * (q.2 + 1))
      if lo < hi then s.dmaLess ix q.1 (hi - lo) else s) s

/-- DATA_WRITE_ACK (R122, R173): the codeword's peck is released with its last acknowledge; after DISABLE the acknowledge is
discarded (R132). -/
def execDataWriteAck (id : Nat) (s : State) : Res :=
  match s.popWrite id with
  | none => .next s
  | some (w, t) =>
    match w.what with
    | .data _ ix cw => onlyIf s.live (fun _ => if s.dma.disable then t.loseAccess (.wr w) else t.dmaLess ix cw w.bytes.length) s
    | .record _ ix off => onlyIf s.live (fun _ => if s.dma.disable then t.loseAccess (.wr w) else t.recordLess ix off w.bytes.length) s
    | .legData => onlyIf s.live (fun _ => if s.dma.disable then t else t.legacyPump.legacyDone) s
    | .gone => onlyIf s.live (fun _ => t) s
    | _ => .next s

/-- The STATUS write of a segment has been acknowledged: under FENCE_COMPLETION its FLAGS write follows (R122). -/
def State.statusAcked (id : ChainId) (addr : Nat) (s : State) : State :=
  match s.chain? id with
  | none => s
  | some h =>
    match h.segs.find? (fun g => g.addr == addr && g.back == 1) with
    | none => s
    | some g =>
      (s.chainWrite id (.segFlags id addr) (addr + 20) (segFlagsWord g.flags)).onChain id (fun h =>
        { h with segs := h.segs.map (fun g => if g.addr == addr && g.back == 1 then { g with back := 2 } else g) })

/-- SEGMENT_WRITE_BACK_ACK (R122, R136); after DISABLE it is discarded (R132). -/
def execSegmentWriteBackAck (id : Nat) (s : State) : Res :=
  match s.popWrite id with
  | none => .next s
  | some (w, t) =>
    match w.what with
    | .segStatus c a =>
      onlyIf s.live (fun _ =>
        if s.dma.disable then t.loseAccess (.wr w)
        else
          let t := t.statusAcked c a
          match c with
          | .cmd _ => t
          | _ => t.legacyDone) s
    | .segFlags (.cmd _) _ => onlyIf s.live (fun _ => if s.dma.disable then t.loseAccess (.wr w) else t) s
    | .segFlags _ _ => onlyIf s.live (fun _ => if s.dma.disable then t else t.legacyDone) s
    | .stream _ => onlyIf s.live (fun _ => if s.dma.disable then t.loseAccess (.wr w) else t) s
    | .bitmap _ => onlyIf s.live (fun _ => if s.dma.disable then t.loseAccess (.wr w) else t) s
    | .gone => onlyIf s.live (fun _ => t) s
    | _ => .next s

/-! ## Bus errors -/

/-- An outstanding read belongs to a chain. -/
def isRdOf (id : ChainId) (r : HdpRd) : Bool :=
  match r.what with
  | .seg c => c == id
  | .link c => c == id
  | .src c _ _ _ _ => c == id
  | .cons ctx => id == .cmd ctx
  | _ => false

/-- A write belongs to a chain. -/
def isWrOf (id : ChainId) (w : HdpWr) : Bool :=
  match w.what with
  | .data ctx _ _ => id == .cmd ctx
  | .record ctx _ _ => id == .cmd ctx
  | .segStatus c _ => c == id
  | .segFlags c _ => c == id
  | .stream ctx => id == .cmd ctx
  | .bitmap ctx => id == .cmd ctx
  | .legData => id == .legDst
  | _ => false

/-- The failed access, and the state without it: the read that the tag names, or the write that the next acknowledge of its
ID answers (R54, R58). -/
def State.failing (id : ChainId) (write : Bool) (tag : Nat) (s : State) : Option (Failed × State) :=
  if write then
    match s.popWrite (s.chainWid id) with
    | some (w, t) => if isWrOf id w then some (.wr w, t) else none
    | none => none
  else (s.popTag tag (isRdOf id)).map (fun q => (.rd q.1, q.2))

/-- CHAIN_BUS_ERROR (R130): the chain halts. -/
def execChainBusError (chain : ChainId) (write : Bool) (tag : Nat) (s : State) : Res :=
  match chain with
  | .cmd ctx =>
    match s.failing chain write tag with
    | some (f, t) => onlyIf s.live (fun _ => if s.dma.disable then t.loseAccess f else t.haltChain ctx f) s
    | none => .next s
  | _ => .next s

/-- The unit is out on its die: it ends with its operation. -/
def onTheDie (u : LUnit) : Bool := u.st == .issued || u.st == .onDie || u.st == .data

/-- ABORT of the chain shown (R131): every unit not yet DONE ends BUS_ERROR, one whose die operation runs as that
operation ends; the pecks are released, and no page whose data was incomplete is programmed. Where every unit is DONE
already, or none has been taken, BUS_ERROR is the status of the whole command (log 104). -/
def State.chainAbort (s : State) : State :=
  match s.dma.haltQ with
  | [] => s
  | ctx :: rest =>
    let mine (f : Failed) : Bool := match f with
      | .rd r => rdOfCmd ctx r
      | .wr w => wrOfCmd ctx w
    let s := s.onDma (fun d => { d with haltQ := rest, lost := d.lost.filter (fun f => !mine f) })
    let s := s.onChain (.cmd ctx) (fun h =>
      { h with halted := false, failed := [], aborted := true, todo := [], segs := [], next := none, stream := none })
    match s.cmd? ctx with
    | none => s
    | some c =>
      let s := s.onHdp (fun h =>
        { h with heldReads := h.heldReads.filter (fun r => !rdOfCmd ctx r),
                 heldWrites := h.heldWrites.filter (fun w => !wrOfCmd ctx w) })
      if c.cqPos.isSome then
        c.units.foldl (fun s ix => match s.unit? ix with
          | some u => (s.release u.pecks).onUnit ix (fun u => { u with pecks := [], dmaLeft := [] })
          | none => s) s
      else
        let all := (s.unitsOf c).all (fun e => ended e.2) && c.want == 0
        let s := if all || c.units.isEmpty then s.onCmd ctx (fun c => { c with whole := some .busError, stopped := true })
          else s.onCmd ctx (fun c => { c with stopped := true })
        let s := c.units.foldl (fun s ix => match s.unit? ix with
          | some u =>
            if onTheDie u && !ended u then s
            else
              let s := if ended u then s else s.endUnit ix .done .busError 0
              (s.release u.pecks).onUnit ix (fun u => { u with pecks := [], dmaLeft := [] })
          | none => s) s
        s.settle ctx

/-- CHAIN_ABORT (R131, R138): DMA_FAULT_ACT ABORT, ignored while VALID = 0. -/
def execChainAbort (s : State) : Res :=
  hcpAccess (fun s => if !s.dma.haltQ.isEmpty then s.chainAbort else s) s

/-- Data bytes of a chain accepted and not yet written. -/
def todoBytes (h : Chain) : Nat := (h.todo.map (fun d => d.bytes.length)).sum

/-- Stop all chain traffic (R132): held accesses and accepted data are discarded, those of a legacy copy too; the counts end
between what they show and the full transfer (R133), at a free value (log 7). -/
def State.chainDisable (s : State) : State :=
  let leg := if s.dma.leg.busy then todoBytes s.dma.leg.dstChain else 0
  let wr := (s.dma.chains.map (fun e => todoBytes e.2)).sum + leg
  let rd := (s.hdp.reads.map (fun r => match r.what with
    | .src _ _ _ len _ => len
    | _ => 0)).sum
  let lg := if s.dma.leg.busy then leg + (s.hdp.reads.map (fun r => match r.what with
    | .src .legSrc _ _ len _ => len
    | _ => 0)).sum else 0
  let (f1, s) := s.drawFree
  let (f2, s) := s.drawFree
  let (f3, s) := s.drawFree
  let chainRd (r : HdpRd) : Bool := match r.what with
    | .seg _ => true
    | .link _ => true
    | .src _ _ _ _ _ => true
    | .cons _ => true
    | _ => false
  let chainWr (w : HdpWr) : Bool := match w.what with
    | .cqe _ => false
    | _ => true
  let lost := (s.hdp.heldReads.filter chainRd).map Failed.rd ++ (s.hdp.heldWrites.filter chainWr).map Failed.wr
  let s := s.onHdp (fun h => { h with heldReads := h.heldReads.filter (fun r => !chainRd r),
                                      heldWrites := h.heldWrites.filter (fun w => !chainWr w) })
  s.onDma (fun d =>
    { d with disable := true, bytesWr := d.bytesWr + BitVec.ofNat 32 (f1.toNat % (wr + 1)),
             bytesRd := d.bytesRd + BitVec.ofNat 32 (f2.toNat % (rd + 1)),
             lost := d.lost ++ lost,
             chains := d.chains.map (fun e => (e.1, { e.2 with todo := e.2.todo.filter (fun d => d.bytes.isEmpty) })),
             leg := { d.leg with bytes := d.leg.bytes + BitVec.ofNat 32 (f3.toNat % (lg + 1)) } })

/-- CHAIN_DISABLE (R132, R137): a write of 1 to DMA_CHAIN_DISABLE. -/
def execChainDisable (s : State) : Res :=
  hcpAccess (fun s => if !s.dma.disable then s.chainDisable else s) s

/-! ## Legacy rows -/

/-- An ABORT ends the legacy copy (R136): what it has outstanding is answered to no later copy. -/
def State.legacyGone (s : State) : State :=
  let rd (r : HdpRd) : Bool := isRdOf .legSrc r || isRdOf .legDst r
  let wr (w : HdpWr) : Bool := w.id == 0x3FF
  s.onHdp (fun h =>
    { h with reads := h.reads.map (fun r => if rd r then { r with what := .gone } else r),
             writes := h.writes.map (fun w => if wr w then { w with what := .gone } else w),
             heldReads := h.heldReads.filter (fun r => !rd r), heldWrites := h.heldWrites.filter (fun w => !wr w) })

/-- A write of DMA_LEG_START (R136, R140): COHERENT is stored in any case; START is ignored while BUSY, RESUME and ABORT
while HALT = 0. START clears the DONE of an earlier copy (log 106). -/
def State.writeLegStart (data : Word) (s : State) : State :=
  let s := s.onDma (fun d => { d with leg := { d.leg with coherent := bit data 0 } })
  let l := s.dma.leg
  if fld data 16 2 = 1 ∧ !l.busy then
    let s := s.onDma (fun d => { d with leg :=
      { d.leg with busy := true, done := false, halt := false, bytes := 0, asked := 0, copied := 0, finish := false,
                   srcChain := Chain.start d.leg.src.toNat, dstChain := Chain.start d.leg.dst.toNat } })
    (s.readSeg .legSrc).readSeg .legDst
  else if fld data 16 2 = 2 ∧ l.halt then
    let failed := l.srcChain.failed ++ l.dstChain.failed
    let go (h : Chain) : Chain := { h with halted := false, failed := [] }
    let s := s.onDma (fun d => { d with leg :=
      { d.leg with halt := false, srcChain := go d.leg.srcChain, dstChain := go d.leg.dstChain } })
    ((inIssueOrder failed).foldl State.reissue s).refill.legacyPump
  else if fld data 16 2 = 3 ∧ l.halt then
    s.legacyGone.onDma (fun d => { d with leg := { d.leg with busy := false, done := true, halt := false } })
  else s

/-- LEGACY_START (R136). -/
def execLegacyStart (data : Word) (s : State) : Res :=
  hcpAction (fun _ => fld data 16 2 == 1) (fun s => if fld data 16 2 == 1 then s.writeLegStart data else s) s

/-- LEGACY_RESUME (R136). -/
def execLegacyResume (data : Word) (s : State) : Res :=
  hcpAction (fun s => s.dma.leg.halt && fld data 16 2 == 2) (fun s => if fld data 16 2 == 2 then s.writeLegStart data else s) s

/-- LEGACY_ABORT (R136). -/
def execLegacyAbort (data : Word) (s : State) : Res :=
  hcpAction (fun s => s.dma.leg.halt && fld data 16 2 == 3) (fun s => if fld data 16 2 == 3 then s.writeLegStart data else s) s

/-- A legacy access failed (R136): HALT with DIR and the address of the first failure, and source 2. -/
def State.legacyHalt (f : Failed) (s : State) : State :=
  let l := s.dma.leg
  let (dir, addr) := match f with
    | .rd r => (false, r.addr)
    | .wr w => (true, w.addr)
  let s := s.onDma (fun d => { d with leg :=
    { d.leg with halt := true, dir := if l.halt then l.dir else dir,
                 faddr := if l.halt then l.faddr else BitVec.ofNat 57 addr,
                 srcChain := { d.leg.srcChain with halted := true, failed := d.leg.srcChain.failed ++ [f] },
                 dstChain := { d.leg.dstChain with halted := true } } })
  s.raise 2

/-- LEGACY_BUS_ERROR (R136): a read of either chain, or the write the next acknowledge of ID 0x3FF answers. -/
def execLegacyBusError (write : Bool) (tag : Nat) (s : State) : Res :=
  if write then
    match s.popWrite 0x3FF with
    | some (w, t) => onlyIf s.live (fun _ =>
        if s.dma.disable || w.what == .gone || !s.dma.leg.busy then t else t.legacyHalt (.wr w)) s
    | none => .next s
  else
    match s.popTag tag (fun r => isRdOf .legSrc r || isRdOf .legDst r || r.what == .gone) with
    | some (r, t) => onlyIf s.live (fun _ =>
        if s.dma.disable || r.what == .gone || !s.dma.leg.busy then t else t.legacyHalt (.rd r)) s
    | none => .next s

/-! ## Streams -/

/-- The next page after `a` of a stream (R96): PAGE upwards, then page 0 of BLOCK + 1. -/
def nextPage (pages : Nat) (a : BitVec 64) : BitVec 64 :=
  if faPage a + 1 < pages then faWithPage a (faPage a + 1) else faWithPage (faWithBlock a (faBlock a + 1)) 0

/-- Pass over the pages of wasters (R96, R286); each counts against COUNT (log 13). -/
def State.passWasters (s : State) (pages fuel : Nat) (a : BitVec 64) (left : Nat) : BitVec 64 × Nat :=
  match fuel with
  | 0 => (a, left)
  | n + 1 =>
    if left = 0 || !s.isWaster a then (a, left)
    else
      let skip := min left (pages - faPage a)
      State.passWasters s pages n (faWithPage (faWithBlock a (faBlock a + 1)) 0) (left - max 1 skip)

/-- A page may be admitted (R128): not paused, and its largest record fits. -/
def admits (t : Stream) : Bool :=
  !t.paused && !t.confirming &&
    (t.fixed - t.cons).toNat + t.admitted + 16416 ≤ 2 ^ t.wrap

/-- Admit the next page of a stream, or read CONS again where the value held does not admit it (R128). -/
def State.admitPage (ctx ix : Nat) (s : State) : State :=
  match s.cmd? ctx, s.stream? ctx with
  | some c, some t =>
    let own := faInst t.addr == s.sys.instance_.toNat
    let pages := match (if own then dieOf s (faLun t.addr) else none) with
      | some d => d.pages
      | none => 4096
    let (a, left) := if own then s.passWasters pages 65536 t.addr t.left else (t.addr, t.left)
    let s := s.onStream ctx (fun t => { t with addr := a, left := left })
    if left = 0 then s.streamSettle ctx
    else if admits t then
      let s := s.onStream ctx (fun t =>
        { t with addr := nextPage pages a, left := left - 1,
                 admitted := t.admitted + (32 + 4096 * popCount 4 (entCwMask c.op c.raw).toNat) })
      let s := s.takeUnit ix .readStream (some ctx) c.units.length a (entCwMask c.op c.raw)
      let s := if bindsPred c.op c.raw then s else s.onUnit ix (fun u => { u with decided := true, dec := 7 })
      (s.beginUnit ix).streamSettle ctx
    else if t.paused || t.asking then s
    else (s.onStream ctx (fun t => { t with asking := true })).chainRead (.cmd ctx) (.cons ctx) (t.ctrl + 16) 8
  | _, _ => s

/-- STREAM_PAGE_ADMIT (R128, R314). -/
def execStreamPageAdmit (ctx ix : Nat) (s : State) : Res :=
  match s.cmd? ctx, s.chain? (.cmd ctx) with
  | some c, some h =>
    match h.stream with
    | some t =>
      onlyIf (s.going && c.whole.isNone && !c.stopped && !c.predWait && t.known && t.left != 0 && !t.ended && h.moves &&
        !s.dma.disable && s.isFree ix) (·.admitPage ctx ix) s
    | none => .next s
  | _, _ => .next s

/-- CONS has been read (R128, R129): a fill at or above HIGH on this fresh value pauses the stream and raises its group's
source; a fill at or below LOW resumes it. A value that was asked for before a pause came up does not confirm it. -/
def State.consIn (ctx : Nat) (cons high low : BitVec 64) (s : State) : State :=
  match s.cmd? ctx, s.stream? ctx with
  | some c, some t =>
    let hi := if t.known then t.high else high
    let lo := if t.known then t.low else low
    let fill := (t.prod - cons).toNat
    if t.again then
      ((s.onStream ctx (fun t => { t with cons := cons, high := hi, low := lo, known := true, again := false })).chainRead
        (.cmd ctx) (.cons ctx) (t.ctrl + 16) 8).streamSettle ctx
    else
    let pause := t.confirming && hi.toNat ≤ fill
    let resume := t.paused && fill ≤ lo.toNat
    let s := s.onStream ctx (fun t =>
      { t with cons := cons, high := hi, low := lo, known := true, asking := false, confirming := false,
               paused := (t.paused && !resume) || pause })
    let s := if t.confirming || resume then s.streamControl ctx else s
    let s := if pause && !t.paused then s.raise (48 + c.sq / 32) else s
    s.streamSettle ctx
  | _, _ => s

/-- CONS_READ_DATA (R128, R129); after DISABLE it is discarded (R132). -/
def execConsReadData (ctx : Nat) (cons high low : BitVec 64) (s : State) : Res :=
  match s.popRead (fun r => r.what == .cons ctx) with
  | some (r, t) => onlyIf s.live (fun _ => if s.dma.disable then t.loseAccess (.rd r) else t.consIn ctx cons high low) s
  | none => .next s

/-! ## Around a reset -/

/-- HDP_RESPONSE_DISCARD (R58): an answer to a transaction of before a reset is accepted and discarded. -/
def execHdpResponseDiscard (s : State) : Res :=
  onlyIf (s.hdp.drain != 0) (·.onHdp (fun h => { h with drain := h.drain - 1 })) s

/-- HDP_REISSUE (R473): with the count of earlier transactions at zero, the accesses still needed are issued again. -/
def execHdpReissue (s : State) : Res :=
  onlyIf (s.live && s.hdp.blocked && s.hdp.drain == 0) (fun s =>
    (s.onHdp (fun h =>
      h.heldWrites.foldl (fun (h : Hdp) w => h.issueWr (s.wrNow w)) { h with blocked := false, heldWrites := [] })).refill) s

end Sys2Proof.Machine
end

