-- ==== Sys2Proof/Machine/Cq.lean ====
section
/-! DEFINITION. Completions (R45, R57, R98-R100, R105, R106): when a command is done, the CQ write, its acknowledge, its
error. -/

namespace Sys2Proof.Machine

/-- Every unit of the command has reached DONE or CANCELLED, the opcode's own work is done (R99), and the NVS writes that
its completion follows are durable (R27, R334). -/
def State.cmdDone (s : State) (c : Cmd) : Bool :=
  s.unitsEnded c && !c.predWait && s.opDone c && !c.units.any s.nvsOwes

/-- The completion can be written as far as the command itself goes (R25, R122, R134). -/
def State.cmdReady (s : State) (ctx : Nat) (c : Cmd) : Bool :=
  c.origin.isNone && c.cqPos.isNone && s.cmdDone c && s.chainQuiet ctx

/-- An earlier command of the same SQ and FLOW has not had its CQ entry written (R105). -/
def State.flowBlocked (s : State) (c : Cmd) : Bool :=
  (s.sq c.sq).flowOrder && s.ldg.cmds.any (fun e => e.2.sq == c.sq && e.2.origin.isNone && e.2.cqPos.isNone &&
    e.2.seq < c.seq && entFlow e.2.raw == entFlow c.raw)

/-- CQ writes issued, held back or waiting for a retry each offer a work item once acknowledged, and reserve its place in
the queue (R106, log 103). -/
def State.itemsDue (s : State) : Nat :=
  (s.hdp.writes ++ s.hdp.heldWrites ++ s.hif.cqRetry).countP (fun w => match w.what with
    | .cqe ctx => (match s.cmd? ctx with
      | some c => bit (s.cq c.cq).notify 1 && !entQuiet c.raw
      | none => false)
    | _ => false)

/-- The CQ takes an entry (R100, R106): space as last read, no error held, room in the item queue. -/
def State.cqRoom (s : State) (c : Nat) : Bool :=
  let q := s.cq c
  (q.tail - q.head).toNat < 2 ^ q.log2 && !q.held && (!bit q.notify 1 || s.hif.items.length + s.itemsDue < 256)

/-- Write a completion (R98-R100): one 32-byte write under the CQ's ID; a FOLD's pecks are released (R173), a RING_FENCE
lifts (R96), and later commands of the flow that are done are marked as having waited (R105). -/
def State.writeCqe (ctx : Nat) (c : Cmd) (s : State) : State :=
  let q := s.cq c.cq
  let bytes := cqEntry s c c.flowWait q.tail.toNat q.log2
  let w : HdpWr := { what := .cqe ctx, seq := 0, addr := q.base + 32 * (q.tail.toNat % 2 ^ q.log2), bytes := bytes, id := c.cq,
                     coherent := q.coherent, urg := s.urgOf ctx }
  let late := s.ldg.cmds.filter (fun e => (s.sq c.sq).flowOrder && e.2.sq == c.sq && e.2.seq > c.seq &&
    e.2.origin.isNone && e.2.cqPos.isNone && entFlow e.2.raw == entFlow c.raw && s.cmdDone e.2)
  let s := (s.onCmd ctx (fun c => { c with cqPos := some q.tail, cqBytes := bytes })).onCq c.cq (fun q =>
    { q with tail := q.tail + 1 })
  let s := s.hdpWrite w
  let s := late.foldl (fun s e => s.onCmd e.1 (fun d => { d with flowWait := true })) s
  let s := if c.op = .ringFence then s.onSq c.sq (fun q => if q.fence = some ctx then { q with fence := none } else q) else s
  if c.op = .fold then
    c.units.foldl (fun s ix => match s.unit? ix with
      | some u => (s.release u.pecks).onUnit ix (fun u => { u with pecks := [] })
      | none => s) s
  else s

/-- CQ_WRITE (R98-R101, R105, R106). -/
def execCqWrite (ctx : Nat) (s : State) : Res :=
  match s.cmd? ctx with
  | some c => onlyIf (s.live && s.cmdReady ctx c && s.cqRoom c.cq && !s.flowBlocked c) (·.writeCqe ctx c) s
  | none => .next s

/-- CQ_WRITE_ACK (R45, R81, R106): the group's pending bit, then the work item; neither for a QUIET command. -/
def execCqWriteAck (cq : Nat) (s : State) : Res :=
  match s.popWrite cq with
  | none => .next s
  | some (w, t) =>
    match w.what with
    | .cqe ctx =>
      onlyIf s.live (fun _ =>
        match t.cmd? ctx with
        | none => t
        | some c =>
          let t := t.onCmd ctx (fun c => { c with acked := true })
          let q := t.cq c.cq
          if entQuiet c.raw then t
          else
            let t := if bit q.notify 0 then t.raise (16 + c.cq / 8) else t
            if bit q.notify 1 then
              t.onHif (fun h =>
                { h with items := h.items ++ [{ flow := BitVec.ofNat 24 (entFlow c.raw),
                                                item := workItem c c.cqBytes (c.cqPos.getD 0) }] })
            else t) s
    | _ => .next s

/-- CQ_WRITE_ERROR (R100): KIND 2 is recorded, the CQ's completions are held, and the write waits for its retry. -/
def execCqWriteError (cq : Nat) (s : State) : Res :=
  match s.popWrite cq with
  | none => .next s
  | some (w, t) =>
    match w.what with
    | .cqe _ =>
      onlyIf s.live (fun _ =>
        ((t.onCq cq (fun q => { q with held := true })).onHif (fun h => { h with cqRetry := h.cqRetry ++ [w] })).hifError
          2 cq w.addr) s
    | _ => .next s

end Sys2Proof.Machine
end

