-- ==== Sys2Proof/Machine/Replay.lean ====
section
/-! DEFINITION. The replay rule (R321, R322, R329), and what else repeats or ends the entries of a channel: lost packets
(R184, R185), fencing (R265, R337), the fault records of a queue pointer mismatch (R185, R188). -/

namespace Sys2Proof.Machine

/-! ## Pulling a unit back -/

/-- A decode item belongs to a unit. -/
def DecItem.of (ix : Nat) (d : DecItem) : Bool := d.ix == ix

/-- Nothing of a unit is left in the decoder pool. -/
def State.dropDecodes (ix : Nat) (s : State) : State :=
  s.onDec (fun d =>
    { d with hardQ := d.hardQ.filter (fun i => !i.of ix), softQ := d.softQ.filter (fun i => !i.of ix),
             bchQ := d.bchQ.filter (fun i => !i.of ix), busy := d.busy.filter (fun e => !e.2.1.of ix) })

/-- The page that a cache command has started follows the page that has left the die (R151): its ready poll stands, or is placed
again where that of the page before has taken its place (R157, R283). -/
def State.cacheTurns (l : Nat) (s : State) : State :=
  s.onLun l (fun t =>
    match t.rd, t.cache with
    | none, some r =>
      let come := t.pollReq && s.reached r.due
      { t with rd := some r, cache := none, pollReq := come,
               ev := { t.ev with poll := if come then none else some (s.event r.members.head? r.due) } }
    | _, _ => t)

/-- A read operation without a member. -/
def ReadOp.less (ix : Nat) (r : ReadOp) : Option ReadOp :=
  let r := { r with members := r.members.filter (· != ix), left := r.left.filter (· != ix) }
  if r.left.isEmpty then none else some r

/-- An array operation without a member. -/
def ArrayOp.less (ix : Nat) (o : ArrayOp) : Option ArrayOp :=
  let m := o.members.filter (· != ix)
  if m.isEmpty then none else some { o with members := m }

/-- The unit leaves the operations of its LUN, and nothing waits on the die for it (R224, R302); the page a cache command has started
follows a page that has gone. -/
def State.offDie (ix : Nat) (s : State) : State :=
  match s.unit? ix with
  | none => s
  | some u =>
    let l := faLun u.addr
    ((s.onLun l (fun t =>
      { t with op := t.op.bind (ArrayOp.less ix), rd := t.rd.bind (ReadOp.less ix), cache := t.cache.bind (ReadOp.less ix),
               vecFor := if t.vecFor == some ix then none else t.vecFor,
               cacheIx := if t.cacheIx == some ix then none else t.cacheIx })).cacheTurns l).headEvent l

/-- The bytes of a read page that its chain has accounted for are taken back, and deliveries of it that wait are dropped:
the new read moves them again (R322). -/
def State.unaccount (ix : Nat) (s : State) : State :=
  match s.unit? ix with
  | none => s
  | some u =>
    match u.ctx, s.cmdOf u with
    | some ctx, some c =>
      match s.chain? (.cmd ctx), s.placeOf (.cmd ctx) ix with
      | some h, some b =>
        let mine := h.todo.filter (fun d => d.ix == ix)
        let got : List (Nat × Nat) :=
          if u.kind == .readSherd then (if u.dmaDone then [(0, 80)] else [])
          else (bitsOf 4 u.cwOk.toNat).map (fun k => (cwOffset c u k, 4096))
        let sum (rs : List (Nat × Nat)) (base : Nat) : Nat :=
          (rs.map (fun r => ((segParts h.segs (b + r.1) r.2).filter (fun q => q.1 == base)).map (fun q => q.2.2.2) |>.sum)).sum
        s.onChain (.cmd ctx) (fun h =>
          { (h.segs.foldl (fun (a : Chain) g =>
              a.unaccount g.base (sum got g.base - sum (mine.map (fun d => (d.off, d.len))) g.base)) h) with
            todo := h.todo.filter (fun d => d.ix != ix) })
      | _, _ => s
    | _, _ => s

/-- Mark a unit replayed and count it (R321). -/
def State.markReplayed (ix : Nat) (s : State) : State :=
  (s.onUnit ix (fun u => { u with replayed := true })).onLdg (fun l => { l with replayCnt := l.replayCnt + 1 })

/-- The packets that an entry's last read still brings are no longer waited for (R322). -/
def Expect.drop (ix : Nat) (e : Expect) : Expect := { e with gone := e.gone || e.ix == ix }

/-- So are all those of a channel. -/
def Chan.dropExpects (ix : Nat) (c : Chan) : Chan :=
  { c with late := c.late.map (Expect.drop ix),
           grant := c.grant.map (fun g => { g with expect := g.expect.map (Expect.drop ix) }) }

/-- A read is queued again from recovery step 0 (R322): the pecks it holds, those of the soft step among them, are kept, and it
asks for those it lacks as the array read starts (R25, R173); what its last read still brings is not taken; a scan page
decided as passing keeps its decision (R290). -/
def State.requeueRead (ix : Nat) (s : State) : State :=
  let s := ((s.dropDecodes ix).offDie ix).unaccount ix
  let s := s.onChan (lunChan (faLun ((s.unit? ix).map LUnit.addr |>.getD 0))) (Chan.dropExpects ix)
  let s := s.onPool (fun p => { p with softQ := p.softQ.filter (fun q => q.1 != ix) })
  (s.onUnit ix (fun u =>
    { u with step := 0, sense := 0, cwOk := 0, pend := 0, erased := 0, failed := [], raws := [], soft := false,
             conf := false, suspSent := false, merged := false, dmaLeft := [], dmaDone := false, recSent := false, hardSum := 0, hardCws := 0,
             won := u.won && u.kind == .fold, contested := u.contested && u.kind == .fold,
             dec := if u.kind == .fold || u.decided then u.dec else 0 })).linkAgain ix

/-- The LUN is reset with FAh, or FFh, before its thread does anything else (R183, R322). -/
def State.askReset (l : Nat) (s : State) : State := s.onLun l (fun t => { t with resetReq := true })

/-- A program page, fold pass or erase is queued again to be issued anew; a program can be cancelled again (R325). -/
def State.requeueWrite (ix : Nat) (reset : Bool) (s : State) : State :=
  match s.unit? ix with
  | none => s
  | some u =>
    let s := s.offDie ix
    let s := if reset then s.askReset (faLun u.addr) else s
    ((s.onUnit ix (fun u => 
      { u with conf := false, suspSent := false, merged := false, replay := .none, won := u.won && u.kind != .program && u.kind != .programSlc,
               contested := u.contested && u.kind != .program && u.kind != .programSlc })).linkAgain
      ix).headEvent (faLun u.addr)

/-- The phase of the array operation that an entry runs: 0 program, 1 SLC program, 2 coarse pass, 3 fine pass, 4 erase. -/
def unitPhase (u : LUnit) : Nat :=
  match u.kind with
  | .programSlc => 1
  | .fold => if u.dec = 3 then 3 else 2
  | .erase => 4
  | _ => 0

/-- A unit is a member of its thread's array operation, which starts now where the thread has none. -/
def State.joinOp (l ix : Nat) (u : LUnit) (s : State) : State :=
  s.onLun l (fun t =>
    { t with op := (match t.op with
        | some o => some (if o.members.contains ix then o else { o with members := o.members ++ [ix] })
        | none => some { members := [ix], phase := unitPhase u, suspended := false, susps := 0, runFrom := s.time.ns,
                         firstDue := none, firstLeft := 0, suspAt := s.time.ns, suspReads := 0, checking := false }) })

/-- The operation of an entry is polled to its end (R322), after a RESUME where its suspend step was dispatched. It stays in
the state it is in, and its status counts where that is ON_DIE, and otherwise only if the first status read finds the LUN
busy, but never behind a die reset (R323): a replay cut by a second one is decided as it would have been (R32). A suspended
operation stays so until its RESUME (R326). -/
def State.pollAgain (ix : Nat) (s : State) : State :=
  match s.unit? ix with
  | none => s
  | some u =>
    let s := s.onUnit ix (fun v =>
      { v with replay := if u.replay == .lost then .lost else if u.st == .onDie then .none else .status })
    (s.joinOp (faLun u.addr) ix u).onLun (faLun u.addr) (fun t =>
      { t with pollReq := true, resumeReq := t.resumeReq || u.suspSent, suspReq := false,
               ev := { t.ev with poll := none, run := none, win := none },
               op := t.op.map (fun o => { o with checking := false }) })

/-- A fold starts again from the reads of its four sources (R329). -/
def State.fromSources (ix : Nat) (s : State) : State :=
  (s.onUnit ix (fun u => { u with src := 0, sherds := [] })).requeueRead ix

/-- The entry's outcome cannot be known (R322, R329): counted, and ended without making a waster. -/
def State.unknownEnd (ix : Nat) (status : Status) (s : State) : State :=
  ((s.offDie ix).onLdg (fun l => { l with unknownCnt := l.unknownCnt + 1 })).endUnder ix status 0

/-- The replay rule for one entry of this instance (R321, R322, R329). -/
def State.replayUnit (ix : Nat) (s : State) : State :=
  match s.unit? ix with
  | none => s
  | some u =>
    if u.bundle.isSome then s
    else
      let s := s.markReplayed ix
      match u.kind with
      | .program | .programSlc => if u.conf then s.pollAgain ix else s.requeueWrite ix true
      | .erase => if u.conf then s.pollAgain ix else s.requeueWrite ix false
      | .fold =>
        if u.dec = 0 || u.src < 4 then s.fromSources ix
        else if u.conf then s.pollAgain ix
        else if u.dec = 3 then (s.fromSources ix).onUnit ix (fun u => { u with replay := .reset })
        else s.requeueWrite ix true
      | .raw =>
        let l := faLun u.addr
        let s := (s.offDie ix).onLun l (fun t =>
          { t with resetReq := true, rawOpen := none, rawReq := false, rawS := [], sched := SchedCtx.init,
                   ev := { t.ev with poll := none } })
        s.endUnder ix .programFail 0
      | _ => s.requeueRead ix

/-- The replay rule applies to an entry in this state (R321); a program page in DMA only restarts its DMA. -/
def replayable (u : LUnit) : Bool :=
  u.bundle.isNone && (u.st == .issued || u.st == .onDie || u.st == .data || u.st == .decoding ||
    (u.st == .dma && u.kind != .program && u.kind != .programSlc))

/-! ## Grants that end early -/

/-- Pin time is added to CHE_BUSY, in units of 256 CPK cycles (R168). -/
def Chan.charge (n : Nat) (c : Chan) : Chan :=
  { c with busy := c.busy + BitVec.ofNat 32 ((c.busyRest + n) / 256), busyRest := (c.busyRest + n) % 256 }

/-- A grant leaves the pins, its pin time counted: the one decided behind it follows. Its thread is free for the next
request. -/
def State.dropGrant (ch : Nat) (s : State) : State :=
  s.onChan ch (fun c =>
    { c.charge ((c.grant.map Grant.pinTime).getD 0) with
      late := c.late ++ (c.grant.map Grant.expect).getD [], grant := c.next, next := none })

/-- Every grant of a channel ends (R265, R326): what they still bring in stands in the queue. -/
def Chan.endGrants (c : Chan) : Chan :=
  { c.charge ((c.grant.map Grant.pinTime).getD 0) with
    late := c.late ++ (c.grant.map Grant.expect).getD [], grant := none, next := none }

/-- Entries whose packets are lost are repeated (R184, R185, R321). -/
def State.losePackets (ixs : List Nat) (s : State) : State :=
  ixs.eraseDups.foldl (fun s ix =>
    match s.unit? ix with
    | some u => if replayable u then s.replayUnit ix else s
    | none => s) s

/-- Packets on their way into pecks of a channel. -/
def Chan.arriving (c : Chan) : List Expect := c.late ++ (c.grant.map Grant.expect).getD []

/-! ## Packets that a flush cuts (R184) -/

/-- The peck a packet lands in (R172, R173, R228): the codeword's own, its first or second sense peck for S− and S+, the
page's first peck for a sherd (of a fold source ahead of codeword 0, log 117), a RAW's pecks in turn. -/
def State.landing (s : State) (ix : Nat) (u : LUnit) (region : Nat) : Option Nat :=
  if 5 ≤ region then u.pecks[(region - 5) % u.pecks.length]?
  else if region = 4 then (if u.kind == .fold then u.pecks[4 * u.src]? else u.pecks.head?)
  else if u.kind == .fold && u.sense == 0 then u.pecks[4 * u.src + region]?
  else if u.step = 16 && u.sense != 0 then (s.sensePecks ix region)[u.sense - 1]?
  else s.peckOf ix region

/-- Flags of a slot header (R171): SHORT and FLUSHED. -/
def packetFlags (short flushed : Bool) : Byte := BitVec.ofNat 8 (short.toNat + 4 * flushed.toNat)

/-- A packet's slot header and bytes stand in the peck it lands in (R171, R172, R179). -/
def State.packetLands (u : LUnit) (e : Expect) (flags : Byte) (len : Nat) (data : List Byte) (s : State) : State :=
  match s.landing e.ix u e.region with
  | some p => s.onPeck p (fun k =>
      { k with length := len, flags := flags, kind := if 5 ≤ e.region then 2 else if e.region = 4 then 1 else 0,
               cw := if 5 ≤ e.region then (e.region - 5) % 256 else k.cw, iter := 0, step := u.step, payload := data })
  | none => s

/-- A packet that a channel's ingress queue is in the middle of is closed by the flush of a reset or a fence, and its header written
(R184): how much of it had come is a free value (log 120). -/
def State.cutPacket (ch : Nat) (s : State) : State :=
  match (s.chan ch).late with
  | [] => s
  | e :: _ =>
    match s.unit? e.ix with
    | none => s
    | some u =>
      if u.gen ≠ e.gen ∨ ended u ∨ e.gone then s
      else
        let (v, s) := s.drawFree
        let n := v.toNat % (e.len + 1)
        let (bs, s) := s.drawBytes n
        s.packetLands u e (if n = e.len then 0 else packetFlags true true) n bs

/-! ## Fencing (R265, R337) -/

/-- Begin the KIND 0 part of a CALIBRATE (R237, R314): its unit entries are taken now. A group with no page to read ends
with DONE_COUNT 0. -/
def State.beginRelearn (ctx : Nat) (fetching : Bool) (s : State) : State :=
  match s.cmd? ctx with
  | none => s
  | some c =>
    let a := entAddr c.raw
    let key := 64 * faLun a + (match dieOf s (faLun a) with
      | some d => blockGroup d (faBlock a)
      | none => 0)
    let n := s.groupReads a
    let s := s.onCmd ctx (fun c => { c with want := n, stage := 2, asked := 0, savedD := SMap.getD s.cal.d key 0 })
    if n = 0 then s.settle ctx
    else if fetching then s.onHif (fun h => { h with waiting := some ctx })
    else s

/-- The KIND 1 part of a joined CALIBRATE has ended (R237, R261): `ok` that the pair took new values at the rate it had. A
KIND 2 command goes on with its KIND 0 part. -/
def State.trainingEnded (ok : Bool) (s : State) (ctx : Nat) : State :=
  match s.cmd? ctx with
  | none => s
  | some c =>
    if c.op != .calibrate || c.stage != 1 then s
    else if (s.chan (faChan (entAddr c.raw))).fenced then
      (s.onCmd ctx (fun c => { c with whole := some .channelFenced })).settle ctx
    else if ent c.raw 32 1 = 2 then (s.onCmd ctx (fun c => { c with trained := ok })).beginRelearn ctx false
    else (s.onCmd ctx (fun c => { c with doneCount := some ok.toNat, whole := some .ok })).settle ctx

/-- The CALIBRATE commands that have joined a pair's training. -/
def State.joinedOf (s : State) (k : Nat) : List Nat := SMap.getD s.cal.joined k []

/-- A channel leaves the service of its relay bundle (R352, R357): it takes no further frame, and the frames unacknowledged are replayed
on those that remain. -/
def State.leaveMask (ch : Nat) (s : State) : State :=
  match s.bundleOf ch with
  | some b =>
    let s := s.onLink b (fun l =>
      { l with mask := l.mask &&& ~~~(1#8 <<< (ch - b)), sending := SMap.erase l.sending ch,
               toTrain := l.toTrain.filter (fun q => q.1 != ch) })
    if (s.link? b).any (fun l => !(l.channels b).isEmpty) then s.replayFrames b else s
  | none => s

/-- Training of a pair whose channel has been fenced (R260, R265): a running training is abandoned; commands of the fenced
channel complete, those of the other channel with the training abandoned; a pair without a channel is not trained. -/
def State.fenceTraining (ch : Nat) (s : State) : State :=
  let k := ch / 2
  let was := bit s.cal.active k
  let both := (s.chan (2 * k)).fenced && (s.chan (2 * k + 1)).fenced
  let all := s.joinedOf k
  let done := if was || both then all
    else all.filter (fun x => match s.cmd? x with
      | some c => faChan (entAddr c.raw) == ch
      | none => true)
  let s := s.onCal (fun c =>
    { c with active := c.active &&& ~~~(1#16 <<< k), pending := if both then c.pending &&& ~~~(1#16 <<< k) else c.pending,
             again := if both then c.again &&& ~~~(1#16 <<< k) else c.again,
             joined := SMap.put [] c.joined k (all.filter (fun x => !done.contains x)) })
  let s := if both then s.onPair k (fun p => { p with inService := false }) else s
  done.foldl (State.trainingEnded false) s


/-- The codewords of a unit that have ended without success. -/
def failedMask (u : LUnit) : BitVec 4 := u.failed.foldl (fun m f => m ||| (1#4 <<< f.1)) 0

/-- The selected codewords that have not ended. -/
def restMask (u : LUnit) : BitVec 4 := u.sel &&& ~~~u.cwOk &&& ~~~failedMask u

/-- An entry bound to a fenced channel that still needs it: one that is being decoded too, where it is a fold's source or codewords of
its soft step have still to be sensed. -/
def needsChannel (u : LUnit) : Bool :=
  u.st == .queued || u.st == .issued || u.st == .onDie || u.st == .data ||
    (u.st == .decoding && (u.kind == .fold || (u.step == 16 && restMask u &&& ~~~u.pend != 0)))

/-- Fence a channel (R265): its grants end, both its queues are flushed behind the packet that ingress is in the middle of (R184), its
PHY shows no rate (R268), source 3 rises, and every entry that still needs it ends CHANNEL_FENCED (R337). A channel of a relay bundle drives no die: no entry changes. -/
def State.fence (ch : Nat) (s : State) : State :=
  if (s.chan ch).fenced then s
  else
    let s := (s.onChan ch (fun c => { c.endGrants with fenced := true })).raise 3
    let open_ := !(s.chan ch).late.isEmpty
    let s := s.cutPacket ch
    let s := (s.onPool (fun p =>
      { p with ingress := SMap.on Queue.init p.ingress ch (Queue.ask open_),
               egress := SMap.on Queue.init p.egress ch (Queue.ask false) })).onPhyOf ch (fun p => { p with rate := 7 })
    let mine := s.ldg.units.filter (fun e =>
      faChan e.2.addr == ch && faInst e.2.addr == s.sys.instance_.toNat && e.2.bundle.isNone && needsChannel e.2)
    let s := mine.foldl (fun s e => ((s.dropDecodes e.1).offDie e.1).endUnder e.1 .channelFenced 0) s
    (List.range 16).foldl (fun (s : State) t =>
      s.onLun (16 * ch + t) (fun l =>
        { l with pollReq := false, suspReq := false, tempReq := false, resetReq := false, resumeReq := false,
                 rawOpen := none, rawReq := false, rawS := [], sched := SchedCtx.init })) s
    |> State.fenceTraining ch |> State.leaveMask ch

/-! ## Queue pointer mismatch (R185, R188) -/

/-- Record a mismatch: the queue is reset, MCHK rises, the entries whose packets were in it are repeated; the fourth
within 1 s of the first fences the channel. -/
def State.mismatch (ch : Nat) (m : Mismatch) (lost : List Nat) (s : State) : State :=
  let times := (SMap.getD s.pool.mism ch []).filter (fun t => !s.passed t 1000000000)
  let s := s.onPool (fun p =>
    let p := if p.qerrValid then p
      else { p with qerrValid := true, qerrDir := m.egress, qerrPtr := m.wptr, qerrCh := ch }
    { p with qerrCount := satInc 0xFF p.qerrCount, mism := SMap.set p.mism ch (times ++ [s.time.ns]),
             ingress := if m.egress then p.ingress else SMap.on Queue.init p.ingress ch Queue.reset,
             egress := if m.egress then SMap.on Queue.init p.egress ch Queue.reset else p.egress })
  let s := s.raise 0
  let s := if m.egress then s
    else s.onChan ch (fun c => { c with late := [], grant := c.grant.map (fun g => { g with expect := [] }) })
  let s := s.losePackets lost
  if 4 ≤ times.length + 1 then s.fence ch else s

end Sys2Proof.Machine
end

