-- ==== Sys2Proof/Machine/Levels.lean ====
section
/-! DEFINITION. Read levels (R219-R224, R228): the refire table, page types and polarity, the offset vector of a read. -/

namespace Sys2Proof.Machine

/-- Signed byte `k` of a refire-table entry. -/
def entryByte (e : BitVec 128) (k : Nat) : Int := (BitVec.ofNat 8 (fld e (8 * k) 8)).toInt

/-- The level map byte of level `l` (R220). -/
def levelMap (s : State) (d : DieType) (l : Nat) : Nat := fld (SMap.getD s.img.refire d.refireBase 0) (8 * l) 8
/-- W of a level. -/
def levelW (m : Nat) : Nat := m / 16
/-- USED. -/
def levelUsed (m : Nat) : Bool := m.testBit 3
/-- NEG. -/
def levelNeg (m : Nat) : Bool := m.testBit 2
/-- PAGE_TYPE. -/
def levelType (m : Nat) : Nat := m % 4

/-- Level `l` serves a page type (R220, R221): `some t` for a native page of type t, `none` for an SLC read, which uses
level 0 alone. Level 0, whose PAGE_TYPE is ignored, serves no native page (log 18). -/
def levelServes (s : State) (d : DieType) (t : Option Nat) (l : Nat) : Bool :=
  let m := levelMap s d l
  levelUsed m && (match t with
    | some t => l != 0 && levelType m == t
    | none => l == 0)

/-- The page type of a native-mode page (R221). -/
def pageType (d : DieType) (page : Nat) : Nat := page % (fld d.cell 0 2 + 1)

/-- P_t of R221. -/
def polarity (s : State) (d : DieType) (t : Nat) : Int :=
  let sum : Int := ((List.range 16).map (fun l =>
    let m := levelMap s d l
    if levelServes s d (some t) l then (if levelNeg m then -(levelW m : Int) else (levelW m : Int)) else 0)).sum
  if sum = 0 then 0 else if sum < 0 then -1 else 1

/-- Round to the nearest integer, halves away from zero: n / 8. -/
def rnd8 (n : Int) : Int := if 0 ≤ n then (n + 4) / 8 else -((-n + 4) / 8)

/-- o_l of R223 for level `l` at recovery step `k`; a level that the die type does not have gets 0 (log 17). -/
def levelOffset (s : State) (d : DieType) (lun block k l : Nat) : Int :=
  let m := levelMap s d l
  if !levelUsed m then 0
  else
    let dg := SMap.getD s.cal.d (64 * lun + blockGroup d block) 0
    let tl := SMap.getD s.cal.t lun 0
    let f := if k = 0 then 0 else entryByte (SMap.getD s.img.refire (d.refireBase + k) 0) l
    clampInt (-128) 127 (rnd8 ((dg + tl) * levelW m) + f)

/-- Δ_l of the soft entry (R219): unsigned, 0 acts as 1. -/
def softSpacing (s : State) (d : DieType) (l : Nat) : Int :=
  let v := fld (SMap.getD s.img.refire (d.refireBase + d.refireSteps + 1) 0) (8 * l) 8
  if v = 0 then 1 else v

/-- The 16 offsets a read of a block sets: at recovery step `k` (16: soft) and sense `n` (0 S0, 1 S−, 2 S+), for a page of
type `t`, none for SLC (R223, R228). -/
def levelVector (s : State) (d : DieType) (lun block k n : Nat) (t : Option Nat) : List Int :=
  (List.range 16).map (fun l =>
    let o := levelOffset s d lun block (if k = 16 then 0 else k) l
    if k = 16 && n != 0 && levelServes s d t l then
      clampInt (-128) 127 (if n = 1 then o - softSpacing s d l else o + softSpacing s d l)
    else o)

/-- The flash address a read unit reads now: its own, or a fold's present source (R96, R154). -/
def State.readAddr (s : State) (u : LUnit) : BitVec 64 :=
  if u.kind == .fold then
    match s.cmdOf u with
    | some c => foldSrc c u u.src
    | none => u.addr
  else u.addr

/-- The vector of a read unit's next read start (R223, R224, R228). A read of a fold source uses level 0 alone (R221). -/
def State.unitVector (s : State) (d : DieType) (u : LUnit) : List Int :=
  let a := s.readAddr u
  levelVector s d (faLun a) (faBlock a) u.step u.sense (if u.kind == .fold then none else some (pageType d (faPage a)))

/-- A vector as the arguments of SET_FEAT (R301): byte l of A0-A3 is level l. -/
def vectorArgs (v : List Int) : List Word :=
  (List.range 4).map (fun k =>
    BitVec.ofNat 32 (leNat ((List.range 4).map (fun i => BitVec.ofInt 8 ((v[4 * k + i]?).getD 0)))))

end Sys2Proof.Machine
end

