-- ==== Sys2Proof/Machine/Interp.lean ====
section
/-! DEFINITION. Firing schedules (12_schedules.md): the step format (R295), what one step does (R296-R300), and a run of
steps up to the next point at which the outside must answer or the grant ends (R303, R304, R306, R308). -/

namespace Sys2Proof.Machine

/-! ## Step fields (R295) -/

/-- A step's field. -/
abbrev stepFld (w : BitVec 160) (lo len : Nat) : Nat := fld w lo len
/-- IMM. -/
def stImm (w : BitVec 160) : Nat := stepFld w 128 32
/-- SVAL. -/
def stSval (w : BitVec 160) : Nat := stepFld w 120 8
/-- CNT. -/
def stCnt (w : BitVec 160) : Nat := stepFld w 118 2
/-- COP. -/
def stCop (w : BitVec 160) : Nat := stepFld w 116 2
/-- BCOND. -/
def stBcond (w : BitVec 160) : Nat := stepFld w 112 4
/-- TARGET. -/
def stTarget (w : BitVec 160) : Nat := stepFld w 99 13
/-- WAIT. -/
def stWait (w : BitVec 160) : Nat := stepFld w 92 4
/-- TCPK. -/
def stTcpk (w : BitVec 160) : Nat := stepFld w 76 16
/-- SMASK. -/
def stSmask (w : BitVec 160) : Nat := stepFld w 68 8
/-- DREG. -/
def stDreg (w : BitVec 160) : Nat := stepFld w 60 4
/-- DLEN. -/
def stDlen (w : BitVec 160) : Nat := stepFld w 47 13
/-- COL. -/
def stCol (w : BitVec 160) : Nat := stepFld w 32 15
/-- PIN. -/
def stPin (w : BitVec 160) : Nat := stepFld w 28 4
/-- CMD. -/
def stCmd (w : BitVec 160) : Nat := stepFld w 20 8
/-- ASRC. -/
def stAsrc (w : BitVec 160) : Nat := stepFld w 16 4
/-- ACNT. -/
def stAcnt (w : BitVec 160) : Nat := stepFld w 13 3
/-- NEXTM. -/
def stNextm (w : BitVec 160) : Bool := bit w 12
/-- RELEASE. -/
def stRelease (w : BitVec 160) : Bool := bit w 11
/-- END. -/
def stEnd (w : BitVec 160) : Bool := bit w 10
/-- RESULT. -/
def stResult (w : BitVec 160) : Nat := stepFld w 7 3

/-- The parity bits of a step (R305): bit b makes step byte b even. -/
def stepParity (w : BitVec 160) : BitVec 20 :=
  BitVec.ofNat 20 ((List.range 20).foldl (fun n b => n + (popCount 8 (fld w (8 * b) 8) % 2) * 2 ^ b) 0)

/-- A step of the store (R293); one never written reads zero. -/
abbrev Sched.step (c : Sched) (n : Nat) : BitVec 160 := (SMap.getD c.store n (0, 0)).1

/-- A step's bits agree with its parity in the store (R305). -/
def Sched.sound (c : Sched) (n : Nat) : Bool :=
  let e := SMap.getD c.store n (0, 0)
  e.2 == stepParity e.1

/-- A bit of a step in the store has been upset: its parity no longer agrees, until the step is written again (R305, R306). -/
def Sched.upset (c : Sched) (n : Nat) : Sched :=
  let w := c.step n
  if 6144 ≤ n then c else { c with store := SMap.set c.store n (w, ~~~(stepParity w)) }

/-! ## What a schedule runs on -/

/-- The surroundings of a grant: the store, the die type, the members' addresses (behind them that of a cache read's next
entry), how many form the group, their entries, the packets a program data-in sends by member and region; of a RAW its
length, its direction, how many bytes of it stand ready to be sent and the bytes themselves; CPK cycles per byte in SDR timing
mode 0 (R66, R296), and whether the egress queue is in strict mode (R182). -/
structure Env where
  sched : Sched
  die : DieType
  kind : GrantKind
  addrs : List (BitVec 64)
  count : Nat
  ixs : List (Nat × BitVec 16)
  packet : Nat → Nat → List Byte
  rawLen : Nat
  rawOut : Bool
  rawHave : Nat
  rawBytes : Nat → Nat → List Byte
  slow : Nat
  strict : Bool

/-- A run of steps in progress: the thread's context (R301), the grant, the RAW bytes moved, S bytes appended to a RAW
stream (R298), the members whose data-out has begun, the egress queue, the packets marked faulty by member, region and
flag (R171, R183), how many free values have been drawn, and whether the die stands in SDR timing mode 0 (R66). -/
structure Run where
  ctx : SchedCtx
  g : Grant
  rawMoved : Nat
  appended : List (Nat × List Byte)
  moved : List Nat
  egress : Queue
  marks : List (Nat × Nat × Byte)
  draws : Nat
  inSdr : Bool

/-- Draw a free value within a run (log 7). -/
def Run.draw (base : Nat) (x : Run) : BitVec 64 × Run := (Config.freeValue (base + x.draws), { x with draws := x.draws + 1 })

/-! ## Addresses (R148, R297) -/

/-- Bits that PAGE takes in the row address. -/
def pageBits (d : DieType) : Nat := if d.pages ≤ 1 then 0 else Nat.log2 (d.pages - 1) + 1

/-- The row address (R148); a LUN bit that stands among the page, plane and block bits is OR-ed into them (log 114). -/
def rowOf (d : DieType) (a : BitVec 64) : Nat :=
  (faPage a + (faBlock a * d.planes + faPlane a) <<< pageBits d) ||| (fld a 44 1) <<< d.lunBit

/-- The row with only the LUN bit (ASRC 3). -/
def rowLun (d : DieType) (a : BitVec 64) : Nat := (fld a 44 1) <<< d.lunBit

/-- The 16 argument bytes A0 to A3. -/
def argBytes (c : SchedCtx) : List Byte := (c.a.map (fun w => leBytes 4 w.toNat)).flatten

/-- The column of the region that DREG names (R298). -/
def regionCol (g : Grant) (dreg : Nat) : Nat :=
  if 1 ≤ dreg ∧ dreg ≤ 4 then 4584 * (dreg - 1)
  else if dreg = 5 then 18336
  else if dreg = 6 then (match g.runs with
    | (r :: _) :: _ => 4584 * r
    | _ => 0)
  else 0

/-- The address cycles of PIN 2 (R297). -/
def addrBytes (v : Env) (x : Run) (w : BitVec 160) : List Byte :=
  let a := (v.addrs[x.ctx.m]?).getD 0
  let col := leBytes 2 (if stCol w = 0x7FFF then regionCol x.g (stDreg w) else stCol w)
  match stAsrc w with
  | 0 => col ++ leBytes v.die.rowCycles (rowOf v.die a)
  | 1 => col
  | 2 => leBytes v.die.rowCycles (rowOf v.die a)
  | 3 => leBytes v.die.rowCycles (rowLun v.die a)
  | 4 => leBytes (min 4 (stAcnt w)) (stImm w)
  | 5 => pad (stAcnt w) (slice (argBytes x.ctx) (stCol w % 16) (stAcnt w))
  | _ => []

/-! ## Data regions (R298) -/

/-- The regions DREG names, in order, as (region, length): 0-3 codewords, 4 sherd; DREG 6 takes the next run. -/
def dregRegions (g : Grant) (dreg : Nat) : List (Nat × Nat) :=
  let size (r : Nat) : Nat × Nat := (r, if r = 4 then 96 else 4584)
  if 1 ≤ dreg ∧ dreg ≤ 5 then [size (dreg - 1)]
  else if dreg = 6 then ((g.runs.head?).getD []).map size
  else if dreg = 7 then [size 0, size 1, size 2, size 3, size 4]
  else []

/-- Cut a list of regions to `n` bytes. -/
def cutRegions : Nat → List (Nat × Nat) → List (Nat × Nat)
  | _, [] => []
  | 0, _ => []
  | n + 1, (r, len) :: rest => if n + 1 ≤ len then [(r, n + 1)] else (r, len) :: cutRegions (n + 1 - len) rest

/-- The byte count of a data step: DLEN, 0 meaning the whole region, never more than its length. -/
def dataLen (dlen whole : Nat) : Nat := if dlen = 0 then whole else min dlen whole

/-- The packets of a RAW of `total` bytes that end among the `n` bytes from offset `off` on (R178), as (number, length). -/
def rawPackets (off n total : Nat) : List (Nat × Nat) :=
  ((List.range ((off + n + 4583) / 4584)).map (fun k => (k, min 4584 (total - 4584 * k)))).filter (fun q =>
    off < 4584 * q.1 + q.2 && 4584 * q.1 + q.2 ≤ off + n)

/-- The stream offset up to which the 16 lines of a RAW reach that begin with the line of byte `off` (R178, R181). -/
def rawGate (off : Nat) : Nat :=
  let line := 36 * (off / 4584) + (off % 4584 + 24) / 128 + 15
  4584 * (line / 36) + (128 * (line % 36 + 1) - 24)

/-! ## One step -/

/-- The current member is the group's last (BCOND 6). -/
def lastMember (v : Env) (m : Nat) : Bool := v.count ≤ m + 1

/-- The members whose array operation this command cycle starts (R315). -/
def startsHere (v : Env) (x : Run) (cmd : Nat) : List Nat :=
  let cur := ((v.ixs[x.ctx.m]?).map Prod.fst).toList
  match v.kind with
  | .readStart => if cmd = 0x30 ∨ cmd = 0x32 then cur else []
  | .readData => if cmd = 0x31 then x.g.cacheNext.toList else []
  | .erase => if cmd = 0xD0 ∨ cmd = 0xD1 then cur else []
  | .program => if cmd = 0x10 ∧ x.g.more.isEmpty ∧ lastMember v x.ctx.m then x.g.members else []
  | .raw => if x.g.confirmed then [] else x.g.members
  | _ => []

/-- CPK cycles of `n` command or address bytes (R296). -/
def Run.cycles (v : Env) (x : Run) (n : Nat) : Nat := if x.inSdr then v.slow * n else 4 * n

/-- CPK cycles of `n` data bytes (R296). -/
def Run.dataCycles (v : Env) (x : Run) (n : Nat) : Nat := if x.inSdr then v.slow * n else (n + 1) / 2

/-- The run of codewords that DREG 6 has named is behind the grant (R298). -/
def Run.nextRun (x : Run) : Run :=
  match x.g.runs with
  | (_ :: _) :: rest => { x with g := { x.g with runs := rest } }
  | _ => x

/-- A pin action of a duration. -/
def Run.act (p : PinAct) (t : Nat) (x : Run) : Run :=
  { x with g := { x.g with pins := x.g.pins ++ [p], pinTime := x.g.pinTime + t } }

/-- PIN 0, and the reserved codes that act as 0: with DREG 10 up to 8 bytes of S join the RAW stream (R298); a RAW with
DIR = 1 has no stream to the host, and they are discarded as those of a DOUT are. -/
def pinNone (v : Env) (w : BitVec 160) (x : Run) : Run :=
  if stDreg w = 10 ∧ v.kind = .raw then
    let n := min 8 (v.rawLen - x.rawMoved)
    let y := { x with rawMoved := x.rawMoved + n }
    if v.rawOut then y
    else
      let y := { y with appended := y.appended ++ [(x.rawMoved, leBytes n x.ctx.s.toNat)] }
      match v.ixs.head? with
      | some (ix, gen) => { y with g := { y.g with expect := y.g.expect ++ (rawPackets x.rawMoved n v.rawLen).map (fun q =>
          { ix := ix, gen := gen, region := 5 + q.1, len := q.2, gone := false }) } }
      | none => y
  else x

/-- The packets of a data-in pass the egress queue (R177-R183): `n` bytes of them go to the pins, by LENGTH and without the
header slots. An underrun, at a word of all that the grant's data-ins send, makes its word come again from the word last taken
and marks the packet it falls in; a pointer mismatch has closed the packet SHORT in which the grant's first data-in begins.
Either makes the data-in faulty (R183). -/
def Run.sendPackets (v : Env) (base : Nat) (first : Option (Nat × Nat)) (ps : List (Nat × Nat × List Byte)) (n : Nat) (x : Run) :
    Run × List Byte :=
  let lines := ps.map (fun p => packetQ true false false p.2.2)
  let bs := (lines.map packetBytes).flatten
  let last := x.egress.lastTaken
  let x := { x with egress := lines.foldl (fun (q : Queue) ls => q.pass ls) x.egress }
  let short := !x.g.din && first.isSome && x.g.io.mismatch.any (fun m => m.egress)
  let x := if short then
      { x with g := { x.g with faulty := true }, marks := x.marks ++ (first.map (fun p => (p.1, p.2, (1#8)))).toList }
    else x
  let from_ := x.g.sent
  let x := { x with g := { x.g with sent := from_ + n } }
  match if v.strict then none else x.g.io.underrun with
  | none => (x, bs.take n)
  | some w =>
    if 16 * w < from_ || from_ + n ≤ 16 * w then (x, bs.take n)
    else
      let at_ := 16 * w - from_
      let (f, x) := x.draw base
      let (h, x) := x.draw base
      let word := if at_ < 16 then
          (match last with
           | some l => l.bytes.drop 112
           | none => leBytes 8 f.toNat ++ leBytes 8 h.toNat)
        else slice bs (at_ - 16) 16
      let ends := ps.foldl (fun (a : List (Nat × Nat × Nat) × Nat) p =>
        (a.1 ++ [(p.1, p.2.1, a.2 + p.2.2.length)], a.2 + p.2.2.length)) ([], 0)
      let hit := (ends.1.find? (fun p => at_ < p.2.2)).map (fun p => (p.1, p.2.1, (2#8)))
      ({ x with g := { x.g with faulty := true }, marks := x.marks ++ hit.toList },
        (bs.take at_ ++ word ++ bs.drop at_).take n)

/-- DIN from the RAW stream (R181, R298): the data-in begins once 16 lines, or all that remain, are in the egress queue, and
in strict mode waits wherever a line is not yet there. -/
def dinRaw (v : Env) (base : Nat) (w : BitVec 160) (x : Run) : Run :=
  let n := match x.g.dinLeft with
    | some k => k
    | none => dataLen (stDlen w) (v.rawLen - x.rawMoved)
  let ready := x.g.dinLeft.isSome || min v.rawLen (rawGate x.rawMoved) ≤ v.rawHave
  let k := if ready then min n (v.rawHave - x.rawMoved) else 0
  let from_ := x.rawMoved
  let heads := (List.range ((from_ + k + 4583) / 4584)).filter (fun i => from_ ≤ 4584 * i && 4584 * i < from_ + k)
  let first := if k = 0 then none else some (0, 5 + from_ / 4584)
  let (x, _) := x.sendPackets v base first (heads.map (fun i => (0, 5 + i, v.rawBytes (4584 * i) (min 4584 (v.rawLen - 4584 * i))))) 0
  let x := if k = 0 then x else (x.act (.din (v.rawBytes from_ k)) (x.dataCycles v k))
  let x := { x with rawMoved := from_ + k, g := { x.g with din := x.g.din || 0 < k } }
  if n = k then { x with g := { x.g with din := true, dinLeft := none } }
  else { x with g := { x.g with dinLeft := if ready then some (n - k) else none, fin := .starved } }

/-- PIN 3 (R296, R298). -/
def pinDin (v : Env) (base : Nat) (w : BitVec 160) (x : Run) : Run :=
  let dreg := stDreg w
  let fill (n : Nat) : Run := x.act (.din (List.replicate n 0xFF)) (x.dataCycles v n)
  if dreg = 8 then
    if v.rawOut then dinRaw v base w x
    else
      let n := dataLen (stDlen w) (v.rawLen - x.rawMoved)
      { fill n with rawMoved := x.rawMoved + n }
  else if dreg = 9 then
    let n := dataLen (stDlen w) (16 - stCol w % 16)
    x.act (.din (slice (argBytes x.ctx) (stCol w % 16) n)) (x.dataCycles v n)
  else if dreg = 0 ∨ 9 < dreg then fill (stDlen w)
  else
    let rs := dregRegions x.g dreg
    let n := dataLen (stDlen w) (rs.map Prod.snd).sum
    let (y, bs) := x.sendPackets v base (rs.head?.map (fun r => (x.ctx.m, r.1)))
      (rs.map (fun r => (x.ctx.m, r.1, v.packet x.ctx.m r.1))) n
    let y := y.act (.din (bs ++ List.replicate (n - bs.length) 0xFF)) (x.dataCycles v n)
    let y := { y with g := { y.g with din := true } }
    if dreg = 6 then y.nextRun else y

/-- PIN 4 (R296, R298). -/
def pinDout (v : Env) (base : Nat) (w : BitVec 160) (x : Run) : Run :=
  let dreg := stDreg w
  if dreg = 8 then
    let n := dataLen (stDlen w) (v.rawLen - x.rawMoved)
    let y := { x.act (.dout dreg n) (x.dataCycles v n) with rawMoved := x.rawMoved + n }
    if v.rawOut then y
    else
      match v.ixs.head? with
      | some (ix, gen) => { y with g := { y.g with expect := y.g.expect ++ (rawPackets x.rawMoved n v.rawLen).map (fun q =>
          { ix := ix, gen := gen, region := 5 + q.1, len := q.2, gone := false }) } }
      | none => y
  else if dreg = 9 then
    let at_ := stCol w % 16
    let n := dataLen (stDlen w) (16 - at_)
    let (f, y) := (x.act (.dout dreg n) (x.dataCycles v n)).draw base
    let (h, y) := y.draw base
    let bs := overlay (argBytes y.ctx) at_ (slice (leBytes 8 f.toNat ++ leBytes 8 h.toNat) 0 n)
    { y with ctx := { y.ctx with a := (List.range 4).map (fun k => BitVec.ofNat 32 (num bs (4 * k) 4)) } }
  else if dreg = 0 ∨ 9 < dreg then x.act (.dout dreg (stDlen w)) (x.dataCycles v (stDlen w))
  else
    let rs := dregRegions x.g dreg
    let n := dataLen (stDlen w) (rs.map Prod.snd).sum
    let y := x.act (.dout dreg n) (x.dataCycles v n)
    let y := if dreg = 6 then y.nextRun else y
    match v.ixs[x.ctx.m]? with
    | some (ix, gen) =>
      { y with moved := y.moved ++ [ix],
               g := { y.g with expect := y.g.expect ++ (cutRegions n rs).map (fun q =>
                 { ix := ix, gen := gen, region := q.1, len := q.2, gone := false }) } }
    | none => y

/-- PIN 5 (R296): what the die answers stands in the grant's input; where it holds none, a free value (log 7). -/
def pinRds (v : Env) (base : Nat) (w : BitVec 160) (x : Run) : Run :=
  let n := if stDlen w = 0 then 1 else min 8 (stDlen w)
  let x := x.act (.rds n) (7 + x.dataCycles v n)
  match x.g.io.status with
  | b :: rest =>
    { x with ctx := { x.ctx with s := BitVec.ofNat 64 (b.toNat % 2 ^ (8 * n)) },
             g := { x.g with io := { x.g.io with status := rest } } }
  | [] =>
    let (f, x) := x.draw base
    { x with ctx := { x.ctx with s := BitVec.ofNat 64 (f.toNat % 2 ^ (8 * n)) } }

/-- The pin action of a step (R296, R298), with its duration added. `base` numbers the free values. -/
def pinAction (v : Env) (base : Nat) (w : BitVec 160) (x : Run) : Run :=
  match stPin w with
  | 1 =>
    let st := startsHere v x (stCmd w)
    let x := x.act (.cmd (BitVec.ofNat 8 (stCmd w))) (x.cycles v 1)
    let x := if stCmd w = 0xFF then { x with inSdr := true } else x
    if st.isEmpty then x else { x with g := { x.g with starting := st, confirmed := true } }
  | 2 => x.act (.addr (addrBytes v x w)) (x.cycles v (addrBytes v x w).length)
  | 3 => pinDin v base w x
  | 4 => pinDout v base w x
  | 5 => pinRds v base w x
  | 6 =>
    let n := if stDlen w = 0 ∨ 4 < stDlen w then 4 else stDlen w
    x.act (.wri (leBytes n (stImm w))) (4 + x.dataCycles v n)
  | _ => pinNone v w x

/-- COP (R295, R300). -/
def counterOp (w : BitVec 160) (c : SchedCtx) : SchedCtx :=
  let k := stCnt w
  let old := (c.c[k]?).getD 0
  let new : Option (BitVec 16) := match stCop w with
    | 1 => some (BitVec.ofNat 16 (stImm w))
    | 2 => some (if old = 0 then 0 else old - 1)
    | 3 => some (BitVec.ofNat 16 ((c.a[k]?).getD 0).toNat)
    | _ => none
  match new with
  | some n => { c with c := c.c.set k n }
  | none => c

/-- BCOND (R300). -/
def branchTaken (v : Env) (w : BitVec 160) (x : Run) : Bool :=
  let masked := x.ctx.s.toNat % 256 &&& stSmask w
  let cnt := (x.ctx.c[stCnt w]?).getD 0
  match stBcond w with
  | 1 => true
  | 2 => masked == stSval w
  | 3 => masked != stSval w
  | 4 => cnt == 0
  | 5 => cnt != 0
  | 6 => lastMember v x.ctx.m
  | 7 => x.g.faulty
  | 8 => !(x.g.runs.headD []).isEmpty
  | 9 => x.rawMoved < v.rawLen
  | 10 => x.ctx.k == 1
  | _ => false

/-- The branch is late: it follows what the pins bring (R300, R303). -/
def lateBranch (w : BitVec 160) : Bool :=
  (stPin w == 5 && (stBcond w == 2 || stBcond w == 3)) || (stPin w == 3 && stBcond w == 7)

/-- The wait behind a step (R299, R303): 24 cycles behind a late branch, whose WAIT is ignored; TCPK cycles for TIMER; up
to 64 × TCPK for RB, as long as the die takes (a free value, log 7). -/
def waitTime (base : Nat) (w : BitVec 160) (x : Run) : Run :=
  let add (n : Nat) (x : Run) : Run := { x with g := { x.g with pinTime := x.g.pinTime + n } }
  if lateBranch w then add 24 x
  else match stWait w with
    | 1 => add (stTcpk w) x
    | 3 => let (f, y) := x.draw base; add (f.toNat % (64 * stTcpk w + 1)) y
    | _ => x

/-- The packet of a die-to-host RAW that stands open as its schedule ends is closed with what it holds (R178, R302). -/
def Run.closeRaw (v : Env) (x : Run) : Run :=
  if v.kind = .raw ∧ !v.rawOut ∧ x.rawMoved < v.rawLen ∧ x.rawMoved % 4584 ≠ 0 then
    match v.ixs.head? with
    | some (ix, gen) => { x with g := { x.g with expect := x.g.expect ++
        [{ ix := ix, gen := gen, region := 5 + x.rawMoved / 4584, len := x.rawMoved % 4584, gone := false }] } }
    | none => x
  else x

/-- The schedule ends: the next one of the grant begins, or the grant is over (R302). -/
def Run.finish (v : Env) (result : Nat) (x : Run) : Run :=
  match x.g.more with
  | (e, m) :: rest =>
    if result = 6 ∨ (result = 3 ∧ x.g.kind = .readData) then { x with g := { x.g with fin := .ended result x.ctx.s }, ctx := SchedCtx.init }
    else { x with g := { x.g with more := rest, runs := x.g.runs.dropWhile List.isEmpty }, ctx := { SchedCtx.init with run := true, pc := e, m := m } }
  | [] =>
    let x := if result = 6 then x else x.closeRaw v
    { x with g := { x.g with fin := .ended result x.ctx.s }, ctx := SchedCtx.init }

/-- A WAIT 2 step holds what follows it: the lines of R181 for the data-in of its RAW are not all in the egress queue (R299). -/
def waitsEgress (v : Env) (w : BitVec 160) (x : Run) : Bool :=
  stWait w == 2 && !lateBranch w && v.kind == .raw && v.rawOut && v.rawHave < min v.rawLen (rawGate x.rawMoved)

/-- Dispatch one step (R303, R305-R308), its parity checked against the bits in the store. A data-in that waits for lines of its
RAW, and a step that WAIT 2 holds, stay the step in hand. -/
def dispatchStep (v : Env) (base : Nat) (x : Run) : Run :=
  let n := x.ctx.pc
  if 6144 ≤ n then x.finish v 0
  else if v.sched.broken.contains n then { x with g := { x.g with fin := .halted n }, ctx := SchedCtx.init }
  else if v.sched.reloading.contains n then { x with g := { x.g with fin := .waiting n } }
  else if !v.sched.sound n then { x with g := { x.g with fin := .halted n }, ctx := SchedCtx.init }
  else
    let w := v.sched.step n
    let x := if x.g.held then { x with g := { x.g with held := false } } else pinAction v base w x
    if x.g.fin = .starved then x
    else if waitsEgress v w x then { x with g := { x.g with held := true, fin := .starved } }
    else
    let x := waitTime base w x
    let x := if stNextm w then { x with ctx := { x.ctx with m := if lastMember v x.ctx.m then x.ctx.m else x.ctx.m + 1 } }
      else x
    let x := { x with ctx := counterOp w x.ctx }
    let next := if branchTaken v w x then stTarget w else n + 1
    if x.g.limit < x.g.pinTime then
      { x with g := { x.g with fin := .overLimit n }, ctx := SchedCtx.init }
    else if stEnd w then x.finish v (stResult w)
    else if stRelease w then
      { x with g := { x.g with fin := .released (if stWait w = 4 ∧ !lateBranch w then some (stTcpk w) else none) },
               ctx := { x.ctx with pc := next } }
    else { x with ctx := { x.ctx with pc := next } }

/-- Run steps until the grant's schedule comes to rest or a starting step stands at the pins; none where `fuel` steps did
not suffice. -/
def runSteps (v : Env) (base : Nat) : Nat → Run → Option Run
  | 0, _ => none
  | fuel + 1, x =>
    let y := dispatchStep v base x
    if y.g.fin ≠ .running ∨ y.g.starting ≠ [] then some y else runSteps v base fuel y

/-- More steps than a grant can dispatch without coming twice to the same step with the same context and no pin time
between (log 9): the store, the counters, the member, the RAW bytes and the pin time have fewer values. -/
def stepLimit : Nat := 2 ^ 160

end Sys2Proof.Machine
end

