-- ==== Sys2Proof/Machine/Arbiter.lean ====
section
/-! DEFINITION. The arbiter of a channel (R141-R151, R155, R156, R163, R164, R257): what each thread asks for, which thread
wins, and the grant that is built for it. -/

namespace Sys2Proof.Machine

/-! ## Requests -/

/-- A thread's request (R144): its kind, the entry it is for (131,072: none), its class and length. -/
structure Ask where
  kind : GrantKind
  ix : Nat
  cls : Nat
  long : Bool
  deriving DecidableEq, Repr

/-- The other LUN of a CE. -/
def mateLun (l : Nat) : Nat := if l % 2 = 0 then l + 1 else l - 1

/-- The grant of a thread, current or decided next. -/
def State.grantOf (s : State) (l : Nat) : Option Grant :=
  let c := s.chan (lunChan l)
  ((c.grant.toList ++ c.next.toList).find? (fun g => g.lun == l))

/-- No die operation runs on a LUN or is about to: its thread is free and holds no grant (R142, R163). -/
def State.quiet (s : State) (l : Nat) : Bool := (s.lun l).free && (s.grantOf l).isNone

/-- A LUN is available for training (R257). -/
def Lun.available (t : Lun) : Bool := t.op.isNone && t.rd.isNone && t.cache.isNone && t.rawOpen.isNone

/-- A grant of the kinds whose end leaves an operation on the die (R257). -/
def GrantKind.starts (k : GrantKind) : Bool := k == .readStart || k == .program || k == .erase || k == .raw

/-- While training is pending, a start leaves its CE another available LUN, which no grant is about to take (R257). -/
def State.trainAllows (s : State) (l : Nat) : Bool :=
  !bit s.cal.pending (lunChan l / 2) || ((dieOf s (mateLun l)).isSome && (s.lun (mateLun l)).available &&
    (s.grantOf (mateLun l)).all (fun g => !g.kind.starts))

/-- A die operation may start on the LUN: without RSE, none runs on the CE's other LUN (R163). -/
def State.startAllowed (s : State) (l : Nat) (d : DieType) : Bool :=
  (bit d.caps 8 || s.quiet (mateLun l)) && s.trainAllows l

/-- A features grant may run: without LUN_FEAT, only while both LUNs of the CE are idle (R163). -/
def State.featAllowed (s : State) (l : Nat) (d : DieType) : Bool :=
  bit d.caps 13 || ((s.lun l).free && s.quiet (mateLun l))

/-- A FOLD still reads its sources (R154). -/
def foldReading (u : LUnit) : Bool := u.kind == .fold && u.src < 4

/-- The next grant of the unit starts an array read. -/
def startsRead (u : LUnit) : Bool := u.kind.reads || foldReading u

/-- A FOLD of the LUN is between its grants and off the list: no other order-list entry issues (R142). -/
def State.foldOpen (s : State) (l : Nat) : Bool :=
  s.ldg.units.any (fun e =>
    e.2.kind == .fold && faLun e.2.addr == l && e.2.bundle.isNone &&
      (e.2.st == .issued || e.2.st == .onDie || e.2.st == .data || e.2.st == .decoding ||
        (e.2.st == .queued && e.2.dec != 4 && e.2.linkPos.isSome && !(s.lun l).orderQ.contains e.1)))

/-- What an order-list head needs before its request, beyond R142: durable erase-start markers (R153), a fold's admission
and markers (R154), a RAW's pecks (R173). -/
def State.orderSet (s : State) (l ix : Nat) (u : LUnit) : Bool :=
  match u.kind with
  | .erase =>
    u.mark == .started && (s.partners l ix).all (fun j => !s.unitIs (fun v => v.mark == .startAsked) j)
  | .fold => u.pecks.length == 16 && u.dec != 2 && u.dec != 4
  | .raw => !u.pecks.isEmpty || (match s.cmdOf u with
      | some c => entRawLen c.raw == 0
      | none => true)
  | _ => true

/-- The level vector the unit needs is set, or is not needed (R224): one set by the unit's own features grant stands,
whatever has been learnt since. -/
def State.levelsSet (s : State) (l : Nat) (d : DieType) (ix : Nat) (u : LUnit) : Bool :=
  let t := s.lun l
  !startsRead u || (t.vec.isSome && t.vecFor == some ix) || t.vec == some (s.unitVector d u)

/-- The entry that the LUN can read next (R142, R150, R302); entries of a halted chain stand aside (R130). -/
def State.readHead (s : State) (l : Nat) : Option (Nat × LUnit) :=
  (s.readFirst l).bind (fun ix => (s.unit? ix).bind (fun u =>
    if s.readReady l ix u && !s.held l ix then some (ix, u) else none))

/-- The head of the order list that can issue (R142, R150). -/
def State.orderHead (s : State) (l : Nat) : Option (Nat × LUnit) :=
  (s.lun l).orderQ.head?.bind (fun ix => (s.unit? ix).bind (fun u =>
    if s.orderReady u && !s.held l ix && !s.unitHeld u && !s.foldOpen l && s.orderSet l ix u then some (ix, u) else none))

/-- The request by which an entry at the head of a list issues: the level vector first where it differs (R224), a die reset
first for a fine pass sent again (R329). R144 gives a die reset no class: DESIGN CHOICE (log 48), it is in the read class, as the
other grants without data are. -/
def State.startAsk (s : State) (l : Nat) (d : DieType) (ix : Nat) (u : LUnit) : Option Ask :=
  let start (k : GrantKind) (long : Bool) : Option Ask :=
    if s.startAllowed l d then some { kind := k, ix := ix, cls := unitClass u, long := long } else none
  if startsRead u then
    if s.levelsSet l d ix u then start .readStart false
    else if s.featAllowed l d then some { kind := .levels, ix := ix, cls := 1, long := false }
    else none
  else if u.replay == .reset then some { kind := .reset, ix := ix, cls := 1, long := false }
  else match u.kind with
    | .erase => start .erase false
    | .raw => start .raw true
    | _ => start .program true

/-- A scan page tests its sherd first (R288): it is bound to a predicate and not yet decided. -/
def State.probes (s : State) (u : LUnit) : Bool :=
  !u.decided && (match s.cmdOf u with
    | some c => bindsPred c.op c.raw
    | none => false)

/-- Every peck that the present read of a page lands in is in hand (R173). -/
def State.pecksIn (s : State) (ix : Nat) (u : LUnit) : Bool :=
  !u.pecks.isEmpty && (u.kind == .fold || (bitsOf 4 u.pend.toNat).all (fun k => (s.peckOf ix k).isSome))

/-- The page on the die whose data can move now: its pecks are in hand (R173), and it has not been read since the array
read, or its predicate has passed. -/
def State.movable (s : State) (ix : Nat) : Bool :=
  s.unitIs (fun u => !s.unitHeld u && s.pecksIn ix u && (u.st == .onDie || (u.st == .data && u.decided))) ix

/-- The request of a thread with a read on its die (R141). -/
def State.dataAsk (s : State) (t : Lun) (r : ReadOp) : Option Ask :=
  if r.ready || t.pollReq then
    (r.left.find? s.movable).bind (fun ix => (s.unit? ix).map (fun u =>
      { kind := .readData, ix := ix, cls := unitClass u, long := true }))
  else none

/-- The request of a thread whose operation is suspended (R156): it reads on from the head of its read list while an
eligible entry waits anywhere in it, and stands still while that head is held (log 115). DESIGN CHOICE (log 115): where the next
read needs new levels that the die cannot be given while the operation stands suspended, the operation is resumed. -/
def State.suspendedAsk (s : State) (l : Nat) (d : DieType) (t : Lun) (o : ArrayOp) : Option Ask :=
  let first := o.members.headD 0
  if t.tempReq && s.featAllowed l d then some { kind := .temperature, ix := first, cls := 1, long := false }
  else
    let resume : Option Ask := some { kind := .resume, ix := first, cls := 1, long := false }
    if !(s.readsWait l && o.suspReads < d.suspReads) then resume
    else match s.readHead l with
      | some (ix, u) => if s.levelsSet l d ix u || s.featAllowed l d then s.startAsk l d ix u else resume
      | none => none

/-- The request of a thread with a running operation: the resume of a replayed one, its status read, its suspend. -/
def State.runningAsk (s : State) (l : Nat) (t : Lun) (o : ArrayOp) : Option Ask :=
  let first := o.members.headD 0
  if t.resumeReq then some { kind := .resume, ix := first, cls := 1, long := false }
  else if t.pollReq then
    some { kind := .poll, ix := first, long := false,
           cls := (match s.unit? first with
             | some u => unitClass u
             | none => 2) }
  else if t.suspReq && s.trainAllows l then some { kind := .suspend, ix := first, cls := 1, long := false }
  else none

/-- The request of a thread whose die is free: the higher class of the two list heads, a read on ties (log 19); a temperature
read that is due comes before both (log 110). -/
def State.freeAsk (s : State) (l : Nat) (d : DieType) (t : Lun) : Option Ask :=
  if t.tempReq && s.featAllowed l d then some { kind := .temperature, ix := 131072, cls := 1, long := false }
  else
    let r := (s.readHead l).bind (fun h => s.startAsk l d h.1 h.2)
    let o := (s.orderHead l).bind (fun h => s.startAsk l d h.1 h.2)
    match r, o with
    | some a, some b => if b.cls < a.cls then some b else some a
    | some a, none => some a
    | none, b => b

/-- A die reset may go out (R323): FFh also reaches the CE's other LUN, and so waits, where the die type has no FAh, while
that LUN holds an operation that is not under replay. -/
def State.resetAllowed (s : State) (l : Nat) (d : DieType) : Bool :=
  let m := s.lun (mateLun l)
  (dieEntry d 2).isSome || ((s.grantOf (mateLun l)).isNone && m.rd.isNone && m.cache.isNone && m.rawOpen.isNone &&
    (match m.op with
     | some o => o.members.all (s.unitIs (fun u => u.replay != .none))
     | none => true))

/-- A thread's own request (R141). -/
def State.ownAsk (s : State) (l : Nat) (d : DieType) : Option Ask :=
  let t := s.lun l
  if t.resetReq then -- in the read class, as above (log 48)
    if s.resetAllowed l d then some { kind := .reset, ix := 131072, cls := 1, long := false } else none
  else match t.rd with
    | some r => s.dataAsk t r
    | none =>
      match t.rawOpen with
      | some ix => if t.rawReq then some { kind := .raw, ix := ix, cls := 2, long := true } else none
      | none =>
        match t.op with
        | some o => if o.suspended && !t.resumeReq then s.suspendedAsk l d t o else s.runningAsk l t o
        | none => s.freeAsk l d t

/-- The pass count of the request that a thread raises now (R46): that of an earlier request of the thread is another's. -/
def Chan.passesOf (c : Chan) (t : Nat) (a : Ask) : Nat :=
  match SMap.get? c.passes t with
  | some p => if p.kind = a.kind ∧ p.ix = a.ix then p.n else 0
  | none => 0

/-- The class of a request, raised by the entries of the read list (R146) and by promotion (R46). -/
def State.raisedClass (s : State) (l : Nat) (a : Ask) : Nat :=
  if 16 ≤ (s.chan (lunChan l)).passesOf (l % 16) a then 0
  else (s.lun l).readQ.foldl (fun m ix =>
    match s.unit? ix with
    | some u => min m (unitClass u)
    | none => m) a.cls

/-- The request of a thread, where it raises one: it holds no grant, is not halted, no reload that a reset has cut
is owed, and its pair is in service and not in training (R141, R256, R306). -/
def State.request (s : State) (l : Nat) : Option Ask :=
  let c := s.chan (lunChan l)
  let holds (g : Option Grant) : Bool := g.any (fun g => g.lun == l)
  if !s.going || s.sched.reloadFirst || c.fenced || !(s.pair (lunChan l / 2)).inService || bit s.cal.active (lunChan l / 2) || holds c.grant ||
      holds c.next || s.sched.halted.any (fun h => h.1 == l) then none
  else (dieOf s l).bind (fun d => (s.ownAsk l d).map (fun a => { a with cls := s.raisedClass l a }))

/-- The requests of a channel, by thread. -/
def State.asks (s : State) (ch : Nat) : List (Nat × Ask) :=
  (List.range 16).filterMap (fun t => (s.request (16 * ch + t)).map (fun a => (t, a)))

/-- The key of class and length in which the round-robin pointers stand. -/
def Ask.key (a : Ask) : Nat := 2 * a.cls + a.long.toNat

/-- The winner (R145): class, then length, then the first thread after the one last granted. -/
def State.winner (s : State) (ch : Nat) : Option (Nat × Ask) :=
  let as := s.asks ch
  let best := as.foldl (fun m a => min m a.2.key) 16
  let mine := as.filter (fun a => a.2.key == best)
  (rrFind 16 (SMap.getD (s.chan ch).ptrs best 15 + 1) (fun t => mine.any (fun a => a.1 == t))).bind (fun t =>
    mine.find? (fun a => a.1 == t))

/-- The entries that a request issues together (R149); an erase takes only partners whose start marker is durable. -/
def State.groupFor (s : State) (l : Nat) (a : Ask) : List Nat :=
  match s.unit? a.ix with
  | none => []
  | some u =>
    match a.kind with
    | .readStart => if u.kind == .fold then [a.ix] else a.ix :: s.partners l a.ix
    | .erase => a.ix :: (s.partners l a.ix).filter (s.unitIs (fun v => v.mark == .started))
    | .program => if u.kind == .fold then [a.ix] else a.ix :: s.partners l a.ix
    | .raw => [a.ix]
    | _ => []

/-- Decide (R145, R164): entries that fail the check at grant complete without a pin action and leave their group, whose
rest proceeds; where none is left, the arbiter decides again. At most `fuel` entries fail. -/
def State.arbitrate (ch : Nat) : Nat → State → State × Option (Nat × Ask × List Nat)
  | 0, s => (s, none)
  | fuel + 1, s =>
    match s.winner ch with
    | none => (s, none)
    | some (t, a) =>
      let l := 16 * ch + t
      if a.kind = .raw ∧ (s.lun l).rawOpen.isSome then (s, some (l, a, [a.ix]))
      else
        let group := s.groupFor l a
        let bad := group.filterMap (fun ix => ((s.unit? ix).bind s.refuses).map (fun st => (ix, st)))
        let s' := bad.foldl (fun (s : State) (q : Nat × Status) => s.endUnder q.1 q.2 0) s
        match group.filter (fun ix => !bad.any (fun q => q.1 == ix)) with
        | [] => if bad.isEmpty then (s', some (l, a, [])) else State.arbitrate ch fuel s'
        | ix :: rest => (s', some (l, { a with ix := ix }, ix :: rest))

/-- Pass counts after a decision (R46): every other ready request gains one, and is counted as promoted at 16. -/
def State.countPasses (ch won : Nat) (as : List (Nat × Ask)) (s : State) : State :=
  as.foldl (fun (s : State) (q : Nat × Ask) =>
    if 16 * ch + q.1 = won then s
    else
      let n := (s.chan ch).passesOf q.1 q.2 + 1
      (s.onChan ch (fun c =>
        { c with passes := SMap.set c.passes q.1 { kind := q.2.kind, ix := q.2.ix, n := n },
                 promoteCnt := if n = 16 then c.promoteCnt + 1 else c.promoteCnt })).onUnit q.2.ix (fun u =>
        { u with passes := min 31 n })) s

/-! ## Building a grant -/

/-- Maximal runs of a codeword mask (R298). -/
def cwRuns (m : BitVec 4) : List (List Nat) :=
  ((bitsOf 4 m.toNat).foldl (fun (a : List (List Nat)) k =>
    match a with
    | r :: rest => if r.head? = some (k - 1) ∧ 0 < k then (k :: r) :: rest else [k] :: a
    | [] => [[k]]) []).reverse.map List.reverse

/-- A FOLD reads a source for the first time: its sherd moves with its codewords (R154). -/
def foldSherd (u : LUnit) : Bool := u.kind == .fold && u.step == 0

/-- The runs of codewords that DREG 6 names in a read data grant (R298): those that the present step moves (R226), none for a
grant that moves the sherd alone, through DREG 5 (R281, R288). A fold source's sherd comes by a first DATA_OUT, for which no run
remains either, before the one for its codewords (DESIGN CHOICE, log 129). -/
def State.dataRuns (s : State) (u : LUnit) : List (List Nat) :=
  if u.kind == .readSherd || s.probes u then []
  else (if foldSherd u then [[]] else []) ++ cwRuns u.pend

/-- The next entry that a cache command can start (R151): one at most for a page (R283), and none in a suspension that has
issued its reads (R156). -/
def State.cacheEntry (s : State) (l : Nat) (d : DieType) (r : ReadOp) (u : LUnit) : Option (Nat × Nat) :=
  let t := s.lun l
  if !bit (s.chan (lunChan l)).cfg 3 || 1 < r.members.length || u.kind == .fold || (s.orderHead l).isSome ||
      t.cache.isSome || r.given || !s.trainAllows l ||
      t.op.any (fun o => o.suspended && d.suspReads ≤ o.suspReads) then none
  else match s.readHead l with
    | some (ix, v) =>
      let seq := faPage v.addr == faPage u.addr + 1 && faBlock v.addr == faBlock u.addr
      let fits := faPlane v.addr == faPlane u.addr && (s.partners l ix).isEmpty && s.levelsSet l d ix v &&
        (s.refuses v).isNone
      if fits && seq && bit d.caps 4 then some (ix, 9)
      else if fits && !seq && bit d.caps 5 then some (ix, 10)
      else none
    | none => none

/-- The schedules of a grant: entry steps with the member each begins at. -/
def State.grantSteps (s : State) (l : Nat) (d : DieType) (a : Ask) (members : List Nat) (cache : Option (Nat × Nat)) :
    List (Nat × Nat) :=
  let e (i : Nat) : Nat := (dieEntry d i).getD 6144
  let u := s.unit? a.ix
  let isFold := u.any (fun u => u.kind == .fold)
  let n := members.length
  match a.kind with
  | .readStart => [(e (if isFold then 15 else if 1 < n then 7 else 6), 0)]
  | .readData =>
    (match cache with
     | some (_, c) => [(e c, 1)]
     | none =>
       match (s.lun l).rd with
       | some r => if r.cached && !r.ready && !r.given then [(e 11, 0)] else []
       | none => []) ++ (if u.any foldSherd then [(e 8, 0)] else []) ++ [(e 8, 0)]
  | .program =>
    if isFold then [(e (if u.any (fun u => u.dec == 3) then 17 else 16), 0)]
    else (List.range (n - 1)).map (fun m => (e 13, m)) ++
      [(e (if u.any (fun u => u.kind == .programSlc) then 14 else 12), n - 1)]
  | .erase => [(e (if 1 < n then 19 else 18), 0)]
  | .poll => [(e 5, 0)]
  | .levels => [(e 23, 0)]
  | .temperature => [(e 22, 0)]
  | .reset => [((match dieEntry d 2 with
      | some f => f
      | none => e 0), 0)]
  | .raw => [((match u.bind s.cmdOf with
      | some c => ent c.raw 32 2
      | none => 6144), 0)]
  | .suspend => [(e 20, 0)]
  | .resume => [(e 21, 0)]

/-- The arguments A0-A3 of a grant (R301). -/
def State.grantArgs (s : State) (d : DieType) (a : Ask) : List Word :=
  match a.kind with
  | .levels => (match s.unit? a.ix with
      | some u => vectorArgs (s.unitVector d u)
      | none => [0, 0, 0, 0])
  | .temperature => [BitVec.ofNat 32 (d.tempFa.toNat + (bit d.caps 13).toNat * 256), 0, 0, 0]
  | .raw => (match (s.unit? a.ix).bind s.cmdOf with
      | some c => (List.range 4).map (fun k => BitVec.ofNat 32 (ent c.raw (40 + 4 * k) 4))
      | none => [0, 0, 0, 0])
  | _ => [0, 0, 0, 0]

/-- The replay of a warm reset still runs on a channel: an entry that it has taken up has not left the channel (R182, R326). -/
def State.replayRuns (s : State) (ch : Nat) : Bool :=
  s.ldg.units.any (fun e => e.2.warm && faChan e.2.addr == ch && e.2.bundle.isNone && !ended e.2 && e.2.st != .dma)

/-- The egress queue of a channel is in strict mode (R182). -/
def State.strictMode (s : State) (ch : Nat) (k : GrantKind) : Bool :=
  !s.hif.ready || s.jtag.ir == .extest || bit s.cal.active (ch / 2) || s.ldg.replaying || s.replayRuns ch || (s.chan ch).fenced || k == .raw

/-- The grant of a decision, with the thread context it starts in. -/
def State.makeGrant (s : State) (l : Nat) (d : DieType) (a : Ask) (members : List Nat) (io : GrantIo) : Grant × SchedCtx :=
  let r := (s.lun l).rd
  let u := s.unit? a.ix
  let cache := match a.kind, r, u with
    | .readData, some r, some u => if r.ready then none else s.cacheEntry l d r u
    | _, _, _ => none
  let steps := s.grantSteps l d a members cache
  let members := if members.isEmpty ∧ (a.kind = .readData ∨ a.kind = .poll ∨ a.kind = .suspend ∨ a.kind = .resume) then [a.ix]
    else members
  let resume := a.kind = .raw ∧ (s.lun l).rawOpen.isSome
  let g : Grant :=
    { kind := a.kind, lun := l, members := members,
      cls := (match a.cls with
        | 0 => .urgent
        | 1 => .read
        | 2 => .program
        | _ => .erase),
      long := a.long, probe := a.kind = .readData ∧ u.any s.probes, cacheNext := cache.map Prod.fst, more := steps.drop 1,
      runs := if a.kind = .readData then (u.map s.dataRuns).getD [] else [], pins := [], pinTime := 0,
      limit := 1024 * max 1 s.sched.grantMax.toNat, expect := [], starting := [], io := io, din := false,
      confirmed := resume, faulty := false,
      gens := (members ++ cache.toList.map Prod.fst).map (fun ix => (ix, s.genOf ix)), dinLeft := none, sent := 0, held := false, fin := .running }
  let (pc, m) := steps.headD (6144, 0)
  (g, if resume then { (s.lun l).sched with run := true }
      else { SchedCtx.init with run := true, pc := pc, m := m, a := s.grantArgs d a, k := if a.kind = .levels then 1 else 0 })

/-! ## The surroundings of a grant -/

/-- A program codeword packet as the PHY sends it (R203): data and tag, parity, randomised. -/
def codewordPacket (dest : BitVec 64) (r wseq flags : Nat) (data : List Byte) : List Byte :=
  Codec.randomise (Codec.seed (faPage dest) (faBlock dest) (faPlane dest) r)
    (Codec.encode (pad 4096 data ++ Codec.tagBytes dest r wseq flags))

/-- A program sherd packet (R203, R276): CHECK recomputed for the page, BCH parity, randomised with CW = 4. -/
def sherdOut (dest : BitVec 64) (payload : List Byte) : List Byte :=
  let p := pad 72 payload
  Codec.randomise (Codec.seed (faPage dest) (faBlock dest) (faPlane dest) 4)
    (Codec.sherdPacket (p.take 8 ++ leBytes 4 (Codec.addrCheck dest 0).toNat ++ p.drop 12))

/-- The packet that a program data-in of a unit sends for region `r` of page `m` of its wordline (0 but for a FOLD). -/
def State.unitPacket (s : State) (ix m r : Nat) : List Byte :=
  match s.unit? ix with
  | none => []
  | some u =>
    match s.cmdOf u with
    | none => []
    | some c =>
      let dest := faWithPage u.addr (faPage u.addr + m)
      let load (k : Nat) : List Byte := match u.pecks[k]? with
        | some p => (s.peck p).payload
        | none => []
      if r < 4 then codewordPacket dest r (entWseq c.op c.raw) (entTagFlags c.op c.raw) ((load (4 * m + r)).take 4096)
      else if u.kind == .fold then
        sherdOut dest ((u.sherds.find? (fun q => q.1 == m)).map Prod.snd |>.getD [])
      else if entNoSherd c.raw then sherdOut dest []
      else sherdOut dest (slice (load 3) 4104 72)

/-- A FOLD's program grant. -/
def State.foldGrant (s : State) (g : Grant) : Bool :=
  g.kind == .program && (match g.members.head?.bind s.unit? with
    | some u => u.kind == .fold
    | none => false)

/-- CPK cycles of a 100 ns cycle at a pair's rate (R65, R66, R296). -/
def sdrCycles (rate : Nat) : Nat := ([40, 60, 80, 120, 160, 180, 240][rate]?).getD 240

/-- Bytes of a host-to-die RAW that stand in pecks whose DMA has ended, from the first on: the core can push a packet once it
knows its LENGTH (R171, R179). -/
def rawHave (u : LUnit) (len : Nat) : Nat :=
  (u.dmaLeft.filter (fun d => d.2 != 0)).foldl (fun n d => min n (4584 * d.1)) len

/-- Bytes of a RAW as its pecks hold them (R172, R173). -/
def State.rawBytes (s : State) (u : LUnit) (len off n : Nat) : List Byte :=
  (((List.range ((off % 4584 + n + 4583) / 4584)).map (fun i =>
    let k := off / 4584 + i
    pad (min 4584 (len - 4584 * k)) (match s.rawPeck u k with
      | some p => (s.peck p).payload
      | none => []))).flatten.drop (off % 4584)).take n

/-- The surroundings of a grant. -/
def State.envOf (s : State) (d : DieType) (g : Grant) : Env :=
  let fold := s.foldGrant g
  let head := g.members.headD 0
  let addrOf (ix : Nat) : BitVec 64 := match s.unit? ix with
    | some u => if g.kind = .readStart ∨ g.kind = .readData then s.readAddr u else u.addr
    | none => mkFa s.sys.instance_.toNat g.lun 0 0 0
  let addrs := if fold then (List.range 4).map (fun m => faWithPage (addrOf head) (faPage (addrOf head) + m))
    else if g.members.isEmpty then [mkFa s.sys.instance_.toNat g.lun 0 0 0]
    else g.members.map addrOf
  let raw := (g.members.head?.bind s.unit?).bind s.cmdOf
  let len := if g.kind = .raw then (raw.map (fun c => entRawLen c.raw)).getD 0 else 0
  { sched := s.sched, die := d, kind := g.kind, addrs := addrs ++ g.cacheNext.toList.map addrOf, count := addrs.length,
    ixs := (if fold then List.replicate 4 head else g.members).map (fun ix => (ix, s.genOf ix)),
    packet := fun m r => if fold then s.unitPacket head m r else s.unitPacket ((g.members[m]?).getD 0) 0 r,
    rawLen := len, rawOut := raw.any (fun c => entRawOut c.raw),
    rawHave := if g.kind = .raw then ((s.unit? head).map (fun u => rawHave u len)).getD 0 else 0,
    rawBytes := fun off n => if g.kind = .raw then ((s.unit? head).map (fun u => s.rawBytes u len off n)).getD [] else [],
    slow := sdrCycles (s.pair (lunChan g.lun / 2)).rate,
    strict := s.strictMode (lunChan g.lun) g.kind }

end Sys2Proof.Machine
end

