-- ==== Sys2Proof/Machine/Image.lean ====
section
/-! DEFINITION. The slot image (R380-R383): its fields, when it is valid, and the image that a consolidation writes (R387). -/

namespace Sys2Proof.Machine

/-! ## Reading an image -/

/-- [a, a + n) meets [b, b + m). -/
def meets (a n b m : Nat) : Bool := a < b + m && b < a + n && n != 0 && m != 0

/-- Byte `i` of an image. -/
def imgByte (m : SparseBytes) (i : Nat) : Byte := SMap.getD m i 0

/-- `n` bytes of an image. -/
def imgBytes (m : SparseBytes) (off n : Nat) : List Byte := (List.range n).map (fun i => imgByte m (off + i))

/-- A little-endian number of an image. -/
def imgNum (m : SparseBytes) (off n : Nat) : Nat := leNat (imgBytes m off n)

/-- GEN of the header. -/
def imgGen (m : SparseBytes) : Word := BitVec.ofNat 32 (imgNum m 8 4)
/-- LENGTH of the header. -/
def imgLen (m : SparseBytes) : Nat := imgNum m 12 4
/-- OFFSET of a section. -/
def secOff (m : SparseBytes) (k : Nat) : Nat := imgNum m (32 + 8 * k) 4
/-- SIZE of a section. -/
def secSize (m : SparseBytes) (k : Nat) : Nat := imgNum m (36 + 8 * k) 4

/-- SIZE meets R381. -/
def secSizeOk (k n : Nat) : Bool :=
  match k with
  | 0 => n == 4096
  | 1 => n == 1024
  | 2 => n == 128
  | 3 => n == 122880
  | 4 => n == 65536
  | 5 => n == 4096
  | 6 => n ≤ 524288 && n % 8 == 0
  | _ => n == 64

/-- The sections meet R380 and R381. -/
def sectionsOk (m : SparseBytes) : Bool :=
  (List.range 8).all (fun k =>
    secOff m k % 4 == 0 && 256 ≤ secOff m k && secOff m k + secSize m k ≤ imgLen m && secSizeOk k (secSize m k) &&
      (List.range k).all (fun j => !meets (secOff m k) (secSize m k) (secOff m j) (secSize m j)))

/-- CHAN[n] of the topology (R382). -/
def chanByte (m : SparseBytes) (n : Nat) : Byte := imgByte m (secOff m 2 + 16 + n)
/-- Personality of CHAN[n]: 0 flash, 1 host bundle, 2 target bundle. -/
def chanPers (b : Byte) : Nat := fld b 6 2
/-- Bundle size of CHAN[n]. -/
def chanSize (b : Byte) : Nat := 2 ^ fld b 4 2

/-- BOUND of a binding-table entry. -/
def bindEntry (m : SparseBytes) (l : Nat) : BitVec 16 := BitVec.ofNat 16 (imgNum m (secOff m 1 + 2 * l) 2)

/-- The bundles meet R28 and R344: every channel of a bundle is given alike, at most one target bundle, no binding of
their LUN indices. -/
def bundlesOk (m : SparseBytes) : Bool :=
  (List.range 32).all (fun n =>
    let b := chanByte m n
    chanPers b != 3 &&
      (chanPers b == 0 ||
        ((List.range (chanSize b)).all (fun i =>
          let c := chanByte m (n / chanSize b * chanSize b + i)
          chanPers c == chanPers b && chanSize c == chanSize b) &&
         (List.range 16).all (fun l => !bit (bindEntry m (16 * n + l)) 15)))) &&
    (((List.range 32).filter (fun n =>
      chanPers (chanByte m n) == 2 && n % chanSize (chanByte m n) == 0)).length ≤ 1)

/-- A slot's image is valid but for its generation and its markers (R383, R385). -/
def imageOk (m : SparseBytes) : Bool :=
  imgNum m 0 4 == 0x49425A55 && imgNum m 4 2 == 1 && imgGen m != 0 && 256 ≤ imgLen m && imgLen m ≤ 8323072 &&
    sectionsOk m && (Codec.crc32c (imgBytes m 20 (imgLen m - 20))).toNat == imgNum m 16 4 &&
    (List.range 16).all (fun k => (imgByte m (secOff m 2 + k)).toNat ≤ 6) && bundlesOk m

/-! ## Writing an image (R387) -/

/-- A waster as an image holds it (R333): CONSOLIDATED = 1. -/
def Waster.bytes (w : Waster) : List Byte :=
  leBytes 4 (w.lun + w.plane <<< 9 + w.block <<< 11 + w.cause <<< 27) ++ leBytes 4 (w.grown.toNat + 2)

/-- Section `k` of a new image: that of the image `m` in service, but for the wasters. -/
def newSection (m : SparseBytes) (ws : List Waster) (k : Nat) : List Byte :=
  if k = 6 then (ws.map Waster.bytes).flatten else imgBytes m (secOff m k) (secSize m k)

/-- The section table of a new image, its sections packed behind the header in order (log 32). -/
def newTable (m : SparseBytes) (ws : List Waster) : List Byte :=
  ((List.range 8).foldl (fun (a : List Byte × Nat) k =>
    let n := (newSection m ws k).length
    (a.1 ++ leBytes 4 a.2 ++ leBytes 4 n, a.2 + n)) ([], 256)).1

/-- The image that a consolidation writes (R380, R387): the sections of the image in service with the whole waster table, and
the new generation. -/
def newImage (m : SparseBytes) (ws : List Waster) (gen : Word) : List Byte :=
  let body := imgBytes m 20 12 ++ newTable m ws ++ zeros 160 ++ ((List.range 8).map (newSection m ws)).flatten
  leBytes 4 0x49425A55 ++ leBytes 2 1 ++ zeros 2 ++ leBytes 4 gen.toNat ++ leBytes 4 (20 + body.length) ++
    leBytes 4 (Codec.crc32c body).toNat ++ body

/-- Bytes as an image is read. -/
def asImage (bs : List Byte) : SparseBytes := ((List.range bs.length).zip bs).filter (fun e => e.2 != 0)

end Sys2Proof.Machine
end

