-- ==== Sys2Proof/Machine/Spm.lean ====
section
/-! DEFINITION. The serial memory unit: the XIP window (R384, R469), PROGRAM, ERASE and COMMIT (R385, R386), the
consolidation of grown wasters (R387), suspend and resume (R389), and NVS_SYNC, which asks for consolidations (R96). -/

namespace Sys2Proof.Machine

/-! ## Ranges -/

/-- First byte of an image slot. -/
def slotBase (b : Bool) : Nat := if b then 0x800000 else 0x10000

/-- Bytes of an image slot. -/
def slotSize : Nat := 0x7F0000

/-- First byte of the XIP window. -/
def Spm.window (m : Spm) : Nat := 4096 * m.xipBase.toNat

/-- Bytes of the device, as SFDP gives them; without SFDP the largest device of R377. -/
def Spm.capacity (m : Spm) : Nat := if m.sfdp.found then m.sfdp.capacity else 0x10000000

/-- Sector that holds a byte. -/
def sectorOf (a : Nat) : Nat := a / 4096 * 4096

/-! ## Serial reads (R384, R389) -/

/-- A read is needed: an XIP line, a prefetch, a step reload, or the image (R389). -/
def State.readNeeded (s : State) : Bool := s.spm.inFlight.isSome || !s.sched.reloading.isEmpty || s.spm.loading.isSome

/-- Sectors with an open serial-erase marker (R392). -/
def State.openSectors (s : State) : List Nat := (s.nvs.opens.filter (fun m => m.kind == 5)).map (fun m => m.loc % 2 ^ 28)

/-- A sector lies in a slot. -/
def inSlot (b : Bool) (sec : Nat) : Bool := slotBase b ≤ sec && sec < slotBase b + slotSize

/-- The sector of the option record in force. -/
def Spm.recordKept (m : Spm) (sec : Nat) : Bool := m.opt.isSome && sec == (if m.optSector then 4096 else 0)

/-- XIP reads of a sector wait (R384, R392): it is being re-erased, or start-up has not yet decided whether it is to be. -/
def State.sectorHeld (s : State) (sec : Nat) : Bool :=
  s.sys.reerase.contains sec ||
    (!s.spm.booted && !s.spm.bootFail && s.openSectors.contains sec && !s.spm.recordKept sec)

/-! ## The serial pins (R377) -/

/-- A read of line `l` in the working mode; where it goes on from the line before and the mode reads on, the command byte is left
out. -/
def Spm.readTx (m : Spm) (l : Nat) : SerialTx :=
  let op := (m.sfdp.reads[m.mode]?).getD 0x13
  let goesOn := (m.sfdp.continuous[m.mode]?).getD false && m.sent.getLast?.any (fun t =>
    t.addr == some (64 * l - 64) && (t.instr.isNone || t.instr == some op) && l != 0)
  { instr := if goesOn then none else some op, addr := some (64 * l), dummy := (m.sfdp.dummies[m.mode]?).getD 0, data := [] }

/-- An instruction byte alone. -/
def bareTx (b : Byte) : SerialTx := { instr := some b, addr := none, dummy := 0, data := [] }

/-- A 4 KiB erase. -/
def Spm.eraseTx (m : Spm) (a : Nat) : SerialTx := { instr := some m.sfdp.eraseOp, addr := some a, dummy := 0, data := [] }

/-- A page program. -/
def Spm.programTx (m : Spm) (a : Nat) (data : List Byte) : SerialTx :=
  { instr := some m.sfdp.programOp, addr := some a, dummy := 0, data := data }

/-- The device enters the working mode: its enable sequence, and the 4-byte address mode where it lists no 4-byte instructions. -/
def Spm.enterMode (m : Spm) : List SerialTx :=
  ((m.sfdp.enables[m.mode]?).getD []).map bareTx ++ (if m.sfdp.fourByte then [] else [bareTx 0xB7])

/-- A line of the window is asked for. -/
def State.askLine (l : Nat) (pre : Bool) (s : State) : State :=
  s.onSpm (fun m => { m with inFlight := some l, prefetching := pre, sent := [m.readTx l] })

/-- Serial byte of a window offset. -/
def Spm.xipByte (m : Spm) (off : BitVec 16) : Nat := m.window + (off.toNat / 4 * 4 - 0x8000)

/-- The waiting XIP read ends from a held line, or its line is asked for. A sector being re-erased keeps it waiting
(R384); a prefetch that a program or erase holds back gives way to it. -/
def State.xipServe (s : State) : State :=
  match s.spm.waiting with
  | none => s
  | some off =>
    if !s.spm.xipReady then s
    else
      let a := s.spm.xipByte off
      if s.sectorHeld (sectorOf a) then s
      else match SMap.get? s.spm.lines (a / 64) with
      | some line =>
        (s.onHcp (fun h => { h with rdata := BitVec.ofNat 32 (num line (a % 64) 4), err := false })).onSpm (fun m =>
          { m with waiting := none })
      | none =>
        if s.spm.inFlight == some (a / 64) then s.onSpm (fun m => { m with prefetching := false })
        else if s.spm.inFlight.isNone || (s.spm.prefetching && !s.spm.readable) then s.askLine (a / 64) false
        else s

/-- Put a line in the buffer of eight; the line that came first leaves (log 29). -/
def Spm.keepLine (l : Nat) (line : List Byte) (m : Spm) : Spm :=
  let order := m.lineOrder.filter (· != l) ++ [l]
  let out := order.take (order.length - 8)
  { m with lines := (SMap.set m.lines l line).filter (fun e => !out.contains e.1),
           lineOrder := order.drop (order.length - 8) }

/-- Prefetch the line behind the last miss, unless it is held, once no other serial access waits and its sector is not being
re-erased (R384). -/
def State.prefetch (s : State) : State :=
  match s.spm.nextLine with
  | none => s
  | some l =>
    if (SMap.get? s.spm.lines l).isSome then s.onSpm (fun m => { m with nextLine := none })
    else if s.readNeeded || s.sectorHeld (sectorOf (64 * l)) then s
    else (s.onSpm (fun m => { m with nextLine := none })).askLine l true

/-! ## Operations under way -/

/-- An operation not yet begun. -/
def SpmOp.fresh (kind : SpmKind) (addr len stage : Nat) : SpmOp :=
  { kind := kind, addr := addr, len := len, reached := 0, devBusy := false, suspended := false, suspending := false,
    suspAt := 0, runFrom := 0, openSector := none, bufWait := false, failed := 0, genNew := 0, ctx := 0, stage := stage,
    table := 0 }

/-- Change the operation under way. -/
def State.onOp (f : SpmOp → SpmOp) (s : State) : State := s.onSpm (fun m => { m with op := m.op.map f })

/-- Change what runs at the device. -/
def State.onDevice (f : SpmOp → SpmOp) (s : State) : State :=
  s.onSpm (fun m => if m.erasing.isSome then { m with erasing := m.erasing.map f } else { m with op := m.op.map f })

/-- The device begins a program or an erase. -/
def State.devStart (t : SerialTx) (s : State) : State :=
  (s.onOp (fun o => { o with devBusy := true, suspended := false, suspending := false, runFrom := s.time.ns })).onSpm (fun m =>
    { m with sent := [t] })

/-- A marker of a kind for a sector is not yet durable (R386). -/
def Nvs.owesMark (n : Nvs) (kind sector : Nat) : Bool :=
  (n.queue ++ n.retry ++ n.running.toList).any (fun r =>
    match r.what with
    | .marker _ k => k == kind && fld r.data 64 28 == sector
    | _ => false)

/-- An SPM_ERASE_START marker of a sector is not yet durable (R386). -/
def Nvs.startOwed (n : Nvs) (sector : Nat) : Bool := n.owesMark 5 sector

/-- The device begins to re-erase the first sector that is to be, behind its durable start marker, once no read waits and nothing
else runs there (R386, R389, R392). -/
def State.eraseGo (s : State) : State :=
  if s.spm.erasing.isSome || s.spm.op.any (·.devBusy) || s.readNeeded || !s.spm.xipReady || !s.spm.readable || s.inReset then s
  else match s.sys.reerase.find? (fun a => !s.nvs.startOwed a) with
    | none => s
    | some a => s.onSpm (fun m =>
        { m with erasing := some { SpmOp.fresh .erase a 4096 0 with devBusy := true, runFrom := s.time.ns }, sent := [m.eraseTx a] })

/-- The next piece of a PROGRAM: one aligned host block, cut at the device's 256-byte page (log 30), as
(address, size, first byte, length). -/
def Spm.nextBlock (m : Spm) (o : SpmOp) : Option (Nat × Nat × Nat × Nat) :=
  let n := min (o.len - o.reached) (256 - (o.addr + o.reached) % 256)
  (srcBlocks (m.opBuf.toNat + o.reached) n).head?

/-- The bytes that the device action of an operation covers. -/
def Spm.chunk (m : Spm) (o : SpmOp) : Nat :=
  if o.stage = 0 ∨ o.stage = 2 then 4096
  else if o.stage = 3 then 64
  else if o.kind = .program then (match m.nextBlock o with
    | some b => b.2.2.2
    | none => 0)
  else min 256 (o.len - o.reached)

/-- The sector that a new option record goes to: that of the other record (R379); OPT0 where none is valid (log 31). -/
def Spm.recordSector (m : Spm) : Nat := if m.opt.isSome && !m.optSector then 4096 else 0

/-- The stage after one that has reached its end (R385, R387): 0 erases, 1 programs, 4 reads back, 2 erases the sector of
the new option record, 3 programs the record, 5 clears the grown-waster region, 9 awaits the end. -/
def SpmOp.nextStage (m : Spm) (o : SpmOp) : SpmOp :=
  match o.kind, o.stage with
  | .consolidate, 0 => { o with stage := 1, reached := 0 }
  | .consolidate, 1 => { o with stage := 4 }
  | .consolidate, 4 => { o with stage := 2, addr := m.recordSector, len := 4096, reached := 0 }
  | .consolidate, 3 => { o with stage := 5 }
  | _, 2 => { o with stage := 3, len := 64, reached := 0 }
  | _, _ => { o with stage := 9 }

/-- The new option record of a commit or a consolidation (R378, R379). -/
def Spm.newRecord (slot : Bool) (gen : Word) (m : Spm) : OptRec :=
  let r := m.opt.getD { modeLimit := 0, sckDiv := 8, seq := 0, genA := 0, genB := 0, xipBase := 0x2000 }
  { r with seq := r.seq + 1, genA := if slot then r.genA else gen, genB := if slot then gen else r.genB }

/-- The 64 bytes of an option record (R378); the rest of its sector stays as the erase leaves it, 0xFF. -/
def OptRec.bytes (r : OptRec) : List Byte :=
  let b := leBytes 4 0x33425A55 ++ leBytes 2 1 ++ leBytes 1 r.modeLimit ++ leBytes 1 r.sckDiv ++ leBytes 4 r.seq.toNat ++
    leBytes 4 r.genA.toNat ++ leBytes 4 r.genB.toNat ++ leBytes 4 r.xipBase.toNat ++ zeros 36
  b ++ leBytes 4 (Codec.crc32c b).toNat

/-- The image that a consolidation writes (R387). -/
def State.opImage (s : State) (o : SpmOp) : List Byte := newImage s.spm.image (s.ldg.wasters.take o.table) o.genNew

/-- What a program other than SPM_OP's PROGRAM sends (R385, R387): the new option record, or the next piece of the new image. -/
def State.opBytes (s : State) (o : SpmOp) : List Byte :=
  if o.stage = 3 then
    ((if o.kind = .commit then s.spm.newRecord s.spm.opSlot o.genNew else s.spm.newRecord (!s.sched.slot) o.genNew)).bytes
  else slice (s.opImage o) o.reached (s.spm.chunk o)

/-- What the unit does next towards the device, once no read waits (R389): sectors to be re-erased go first. -/
def State.spmGo (s : State) : State :=
  let s := s.eraseGo
  match s.spm.op with
  | none => s
  | some o =>
    if o.devBusy || s.readNeeded || !s.spm.xipReady || !s.spm.readable || !s.sys.reerase.isEmpty || s.inReset || o.stage == 4 || o.stage == 5 || o.stage == 9 then s
    else if o.stage = 0 ∨ o.stage = 2 then
      match o.openSector with
      | none =>
        let a := o.addr + o.reached
        (s.onOp (fun o => { o with openSector := some a })).nvsMarker none 5 a 0
      | some a => if s.nvs.startOwed a then s else s.devStart (s.spm.eraseTx a)
    else if o.kind = .program then
      if o.bufWait then s
      else match s.spm.nextBlock o with
        | some b =>
          (s.onOp (fun o => { o with bufWait := true })).hdpRead
            { what := .spmBuf (b.2.2.1 - b.1) b.2.2.2, tag := 0, seq := 0, addr := b.1, size := b.2.1, coherent := s.metaCoherent, urg := 0 }
        | none => s
    else s.devStart (s.spm.programTx (o.addr + o.reached) (s.opBytes o))

/-! ## NVS_SYNC (R96) -/

/-- NVS_SYNC commands still open, in order of fetching. -/
def State.openSyncs (s : State) : List (Nat × Cmd) :=
  (s.ldg.cmds.filter (fun e => e.2.op == .nvsSync && e.2.whole.isNone)).mergeSort (fun a b => a.2.seq ≤ b.2.seq)

/-- Every NVS_SYNC whose snapshot and consolidation are done, and before whose fetch no request is left that is not yet
durable, completes (R96). Bit 0 of `stage` is the snapshot, bit 1 the consolidation still to be done. -/
def State.syncCheck (s : State) : State :=
  s.openSyncs.foldl (fun (s : State) e =>
    if e.2.stage = 0 && !(s.nvs.queue ++ s.nvs.retry ++ s.nvs.running.toList).any (fun r => r.id < e.2.asked) then
      (s.onCmd e.1 (fun c => { c with whole := some .ok })).settle e.1
    else s) s

/-- Bytes of the image that a consolidation writes: the header and the sections packed behind it (R380, R381; log 32). -/
def newLength (wasters : Nat) : Nat := 198080 + 8 * wasters

/-- Begin the consolidation that an NVS_SYNC asks for (R387 steps 1 and 2). -/
def State.consolidate (ctx : Nat) (s : State) : State :=
  let m := s.spm
  let dest := slotBase (!s.sched.slot)
  let n := newLength s.ldg.wasters.length
  if meets dest n m.window 0x8000 then
    (s.onCmd ctx (fun c => { c with whole := some .spmConflict })).settle ctx
  else
    let newest := if m.genA.toNat < m.genB.toNat then m.genB else m.genA
    (s.onSpm (fun m =>
      { m with op := some { SpmOp.fresh .consolidate dest n 0 with
          genNew := newest + 1, ctx := ctx, table := s.ldg.wasters.length } })).spmGo

/-- Begin the next serial operation: a waiting SPM_OP, else the oldest consolidation asked for. -/
def State.spmNext (s : State) : State :=
  if s.spm.op.isSome then s
  else match s.spm.opWait with
    | some o => (s.onSpm (fun m => { m with op := some o, opWait := none })).spmGo
    | none =>
      (s.openSyncs.filter (fun e => 2 ≤ e.2.stage)).foldl (fun (s : State) e =>
        if s.spm.op.isSome then s else s.consolidate e.1) s

/-- The new option record is in force. -/
def Spm.commitRecord (slot : Bool) (gen : Word) (m : Spm) : Spm :=
  let r := m.newRecord slot gen
  { m with opt := some r, optOther := m.opt, optSector := m.recordSector != 0, genA := r.genA, genB := r.genB }

/-- The consolidation has cleared the region (R387 step 6): CONSOL + 1, and the command goes on (R397). -/
def State.consolidated (o : SpmOp) (s : State) : State :=
  let s := (s.onSpm (fun m => { m with op := none })).onCmd o.ctx (fun c => { c with stage := c.stage % 2 })
  ((s.nvsHealth (fun h => { h with consol := h.consol + 1 })).syncCheck).spmNext

/-- Step 6 of R387: the first wasters of the table, which the image now holds, are consolidated, and their records are
cleared line by line. -/
def State.clearRegion (o : SpmOp) (s : State) : State :=
  let s := s.onLdg (fun l =>
    { l with wasters := (l.wasters.take o.table).map (fun w => { w with consolidated := true }) ++
               l.wasters.drop o.table })
  let lines := (s.nvs.lines.map Prod.fst).filter (fun l => wasterLine ≤ l && l < ringLine)
  if lines.isEmpty then s.consolidated o
  else lines.foldl (fun (s : State) l => s.nvsAsk .clear l 0) s

/-- The present stage has come to its end, or goes on. -/
def State.spmAdvance (s : State) : State :=
  match s.spm.op with
  | none => s
  | some o =>
    if o.reached < o.len then s.spmGo
    else
      let s := if o.kind = .consolidate ∧ o.stage = 3 then s.onSpm (Spm.commitRecord (!s.sched.slot) o.genNew) else s
      let s := s.onOp (SpmOp.nextStage s.spm)
      if o.kind = .consolidate ∧ o.stage = 3 then s.clearRegion o else s.spmGo

/-- A device program or erase has completed: the end marker of the sector (R386), PROGRESS, the next piece. -/
def State.devDone (s : State) : State :=
  match s.spm.op with
  | none => s
  | some o =>
    let n := s.spm.chunk o
    let s := match o.openSector with
      | some a => s.nvsMarker none 6 a 0
      | none => s
    let s := s.onOp (fun o =>
      { o with devBusy := false, suspended := false, suspending := false, openSector := none, reached := o.reached + n })
    let s := if o.kind = .consolidate then s
      else s.onSpm (fun m => { m with progress := (m.progress + n) % 2 ^ 28 })
    s.spmAdvance

/-- NVS_SYNC (R96, R387, R400). -/
def execNvsSync (entry : BitVec 512) (ctx : List Nat) (s : State) : Res :=
  fetchedMeaning .nvsSync entry ctx (fun c0 s =>
    let stage := ent entry 32 1 % 4
    let s := s.onCmd c0 (fun c => { c with stage := stage, asked := s.nvs.reqs })
    let s := if bit entry 256 then s.wantSnapshot else s
    let s := if bit entry 257 then s.spmNext else s
    s.syncCheck) s

/-! ## SPM_OP_CMD (R385, R405) -/

/-- The RESULT that refuses an operation before any device command, 0 where none does; RESULT 1 goes before 2 and 2
before 3 (log 33). Slot protection follows SCHED_STATUS.SLOT while the store is loaded. -/
def State.spmRefusal (s : State) (kind : SpmKind) : Nat :=
  let m := s.spm
  let a := m.opAddr.toNat
  let n := m.opLen.toNat
  if kind = .commit then (if s.sched.loaded && m.opSlot == s.sched.slot then 2 else 0)
  else if meets a n m.window 0x8000 then 1
  else if meets a n 0 0x2000 || (s.sched.loaded && meets a n (slotBase s.sched.slot) slotSize) then 2
  else if n = 0 ∨ m.capacity < a + n ∨ (kind = .erase ∧ a % 4096 ≠ 0) then 3
  else 0

/-- An SPM_OP ends with its RESULT: source 6 for 0, source 7 for every other. -/
def State.spmEnd (r : Nat) (s : State) : State :=
  let s := s.onSpm (fun m => { m with opBusy := false, opDone := true, opResult := r, op := none })
  (s.raise (if r = 0 then 6 else 7)).spmNext

/-- An accepted write of SPM_OP_CMD with an ACTION: SLOT is stored; the operation is refused, or it starts, or it waits
while a consolidation runs (R387). -/
def State.spmWrite (data : Word) (o : Spm → SpmOp) (s : State) : State :=
  let s := s.onSpm (fun m => { m with opSlot := bit data 8 })
  let o := o s.spm
  match s.spmRefusal o.kind with
  | 0 =>
    let s := s.onSpm (fun m => { m with opBusy := true, progress := 0 })
    if s.spm.op.isSome then s.onSpm (fun m => { m with opWait := some o })
    else (s.onSpm (fun m => { m with op := some o })).spmGo
  | r => (s.onSpm (fun m => { m with opDone := true, opResult := r })).raise 7

/-- A write of SPM_OP_CMD with ACTION `action`, ignored while BUSY = 1 (R405, R468). -/
def spmCmd (action : Nat) (data : Word) (o : Spm → SpmOp) (s : State) : Res :=
  hcpAction (fun s => !s.spm.opBusy && fld data 0 2 == action)
    (fun s => if !s.spm.opBusy && fld data 0 2 == action then s.spmWrite data o else s) s

/-- PROGRAM. -/
def programOp (m : Spm) : SpmOp := SpmOp.fresh .program m.opAddr.toNat m.opLen.toNat 1

/-- ERASE: every sector that meets the range. -/
def eraseOp (m : Spm) : SpmOp :=
  SpmOp.fresh .erase m.opAddr.toNat ((m.opLen.toNat + 4095) / 4096 * 4096) 0

/-- COMMIT of a slot whose image has been checked: its generation, or none where it is invalid. -/
def commitOp (gen : Option Word) (m : Spm) : SpmOp :=
  match gen with
  | some g => { SpmOp.fresh .commit m.recordSector 4096 2 with genNew := g }
  | none => { SpmOp.fresh .commit 0 0 9 with failed := 6 }

/-- SPM_BUFFER_DATA (R385): the page program proceeds with the bytes that have come, or the operation ends BUS_ERROR. -/
def execSpmBufferData (data : List Byte) (error : Bool) (s : State) : Res :=
  match s.popRead (fun r => match r.what with
      | .spmBuf _ _ => true
      | _ => false) with
  | none => .next s
  | some (r, t) =>
    onlyIf s.live (fun _ =>
      match t.spm.op.filter (fun o => o.kind == .program && o.bufWait) with
      | some o =>
        if error || data.isEmpty then t.spmEnd 5
        else
          let bytes := match r.what with
            | .spmBuf off n => slice data off n
            | _ => []
          (t.onOp (fun o => { o with bufWait := false })).devStart (t.spm.programTx (o.addr + o.reached) bytes)
      | none => t) s

/-- A consolidation fails (R387): PROGRAM_FAIL, and the region is not cleared. -/
def State.consolidationFails (o : SpmOp) (s : State) : State :=
  let s := (s.onSpm (fun m => { m with op := none })).onCmd o.ctx (fun c => { c with whole := some .programFail })
  (s.settle o.ctx).spmNext

/-- The read-back of a consolidation passes R383, apart from the generation, which is not committed yet: the device holds what has
been programmed, unless SPM_OP_END says that it has failed. -/
def State.readBackOk (s : State) (o : SpmOp) : Bool := imageOk (asImage (s.opImage o))

/-- The device shows what runs there suspended, which is counted (R389). -/
def State.deviceSuspended (s : State) : State :=
  (s.onDevice (fun o => { o with suspended := true, suspending := false, suspAt := s.time.ns })).onSpm (fun m =>
    { m with suspCnt := m.suspCnt + 1 })

/-- SERIAL_STATUS_POLL (R386, R389): the device shows the operation, or the re-erase of a sector, suspended, or the operation
complete; a consolidation's read-back has ended (R387); an operation left over by a warm reset has ended (R391). -/
def execSerialStatusPoll (busy suspended : Bool) (s : State) : Res :=
  onlyIf s.live (fun s =>
    match s.spm.leftover, s.spm.erasing, s.spm.op with
    | some a, _, _ =>
      if busy then s
      else
        let s := s.onSpm (fun m => { m with leftover := none })
        let s := match a with
          | some a => s.nvsMarker none 6 a 0
          | none => s
        s.xipServe.spmGo
    | none, some e, _ => if suspended && e.suspending then s.deviceSuspended else s
    | none, none, none => s
    | none, none, some o =>
      if o.devBusy then
        if o.suspended then s
        else if suspended && o.suspending then s.deviceSuspended
        else if busy then s
        else s.devDone
      else if o.stage = 4 && !busy then
        if s.readBackOk o then (s.onOp (SpmOp.nextStage s.spm)).spmGo else s.consolidationFails o
      else s.spmGo) s

/-- SPM_OP_END (R385, R387): a serial operation ends with its RESULT; a device failure or a failed read-back ends a
consolidation PROGRAM_FAIL. -/
def execSpmOpEnd (deviceOk : Bool) (s : State) : Res :=
  match s.spm.op with
  | none => .next s
  | some o =>
    onlyIf s.live (fun s =>
      if o.kind = .consolidate then
        if !deviceOk && (o.devBusy || o.stage == 4) then s.consolidationFails o else s
      else if o.stage = 9 && !o.devBusy then
        let r := if o.failed = 0 && !deviceOk then 4 else o.failed
        (if o.kind = .commit ∧ r = 0 then s.onSpm (Spm.commitRecord s.spm.opSlot o.genNew) else s).spmEnd r
      else if !deviceOk && o.devBusy then s.spmEnd 4
      else s) s

/-- SPM_SUSPEND (R389): a read is needed, 100 µs after the start or the last resume. -/
def execSpmSuspend (s : State) : Res :=
  match s.spm.device with
  | none => .next s
  | some o =>
    onlyIf (s.live && o.devBusy && !o.suspended && !o.suspending && s.spm.sfdp.suspend && s.readNeeded &&
        s.passed o.runFrom 100000)
      (fun s => (s.onDevice (fun o => { o with suspending := true })).onSpm (fun m => { m with sent := [bareTx m.sfdp.suspendOp] })) s

/-- SPM_RESUME (R389): no read waits, or 20 µs have passed since the device showed the suspension. -/
def execSpmResume (s : State) : Res :=
  match s.spm.device with
  | none => .next s
  | some o =>
    onlyIf (s.live && o.suspended && (!s.readNeeded || s.passed o.suspAt 20000))
      (fun s => (s.onDevice (fun o => { o with suspended := false, runFrom := s.time.ns })).onSpm (fun m =>
        { m with sent := [bareTx m.sfdp.resumeOp] })) s

/-! ## The XIP window -/

/-- A read of a window offset: it ends from the buffer, or waits for its line, or for the window to open. -/
def State.xipRead (off : BitVec 16) (s : State) : State := (s.onSpm (fun m => { m with waiting := some off })).xipServe

/-- XIP_LINE_ARRIVAL (R384). -/
def execXipLineArrival (line : List Byte) (s : State) : Res :=
  match s.spm.inFlight with
  | none => .next s
  | some l =>
    onlyIf (!s.inReset && (s.pwr.st == .fire || s.pwr.st == .soak) && s.spm.readable) (fun s =>
      let miss := !s.spm.prefetching
      let s := s.onSpm (fun m =>
        { Spm.keepLine l (pad 64 line) m with
          inFlight := none, prefetching := false, nextLine := if miss then some (l + 1) else m.nextLine })
      s.xipServe.prefetch.spmGo) s

/-- A write of SPM_XIP_BASE (R385, R469): XIP_ERR is cleared by a 1; the base moves and the buffer is emptied, or the
write is refused and XIP_ERR set. -/
def Spm.writeBase (data : Word) (m : Spm) : Spm :=
  let m := { m with xipErr := m.xipErr && !bit data 31 }
  let base := BitVec.ofNat 16 (fld data 12 16)
  let range := (m.op.toList ++ m.opWait.toList).find? (fun o => o.kind == .program || o.kind == .erase)
  if m.opBusy && range.any (fun _ => meets m.opAddr.toNat m.opLen.toNat (4096 * base.toNat) 0x8000) then
    { m with xipErr := true }
  else { m with xipBase := base, lines := [], lineOrder := [] }

end Sys2Proof.Machine
end

