-- ==== Sys2Proof/Machine/Engine.lean ====
section
/-! DEFINITION. The engine of a channel: a grant as it runs, ends, or is cut short (R302-R308), what each result does
(R149-R156, R183, R322), and the rows of the arbiter, the schedule and the delay list. -/

namespace Sys2Proof.Machine

/-! ## A grant at the pins -/

/-- Change the grant of a thread where it stands. -/
def State.onGrant (l : Nat) (f : Grant → Grant) (s : State) : State :=
  let g (x : Grant) : Grant := if x.lun = l then f x else x
  s.onChan (lunChan l) (fun c => { c with grant := c.grant.map g, next := c.next.map g })

/-- What the pins of a CE carry outside grants stands in place of what they carried before (R66). -/
def State.noteSetup (ch ce : Nat) (acts : List PinAct) (s : State) : State :=
  s.onChan ch (fun c => { c with setup := c.setup.filter (fun q => q.1 != ce) ++ acts.map (fun a => (ce, a)) })

/-- A LUN's CE whose dies a reset has returned to SDR is brought back into its pair's interface by set-features cycles (R66). -/
def State.restoreSdr (l : Nat) (s : State) : State :=
  let p := s.pair (lunChan l / 2)
  if (s.lun l).sdr && p.inService then
    ([l, mateLun l].foldl (fun (s : State) m => s.onLun m (fun t => { t with sdr := false })) s).noteSetup (lunChan l)
      (l % 16 / 2) [.sdr p.lpddr p.rate]
  else s

/-- A die reset has gone out: FFh and FCh reach both LUNs of the CE, FAh its own. What ran there has no result any more
(R323), read levels are no longer known to be set (R224), and FFh returns the dies to SDR (R66, log 116). -/
def State.dieReset (l : Nat) (b : Byte) (s : State) : State :=
  (if b = 0xFA then [l] else [l, mateLun l]).foldl (fun (s : State) m =>
    let mine := match (s.lun m).op with
      | some o => o.members
      | none => []
    mine.foldl (fun (s : State) ix => s.onUnit ix (fun u => { u with replay := if u.conf then .lost else u.replay }))
      (s.onLun m (fun t => { t with vec := none, sdr := t.sdr || b = 0xFF }))) s

/-- The die resets among pin actions. -/
def resetsIn (ps : List PinAct) : List Byte :=
  ps.filterMap (fun p => match p with
    | .cmd b => if b = 0xFF ∨ b = 0xFC ∨ b = 0xFA then some b else none
    | _ => none)

/-- The grant of a thread leaves the pins, or is withdrawn before it reached them (R168). -/
def State.closeGrant (l : Nat) (s : State) : State :=
  match s.grantOf l with
  | none => s
  | some g =>
    let ch := lunChan l
    (if (s.chan ch).grant.any (fun g => g.lun == l) then s.dropGrant ch
     else s.onChan ch (fun c => { c with late := c.late ++ g.expect, next := none })).restoreSdr l

/-- SCHED_FAULT (R307, R308, R312), source 0, and the channel fenced. -/
def State.schedFault (l n : Nat) (broken : Bool) (s : State) : State :=
  let s := s.onSched (fun c =>
    if c.faultValid then c
    else { c with faultValid := true, faultCause := broken, faultThread := l % 16, faultCh := lunChan l, faultStep := n })
  (s.raise 0).fence (lunChan l)

/-- A thread halts on a bad step (R306, R307): the error is recorded and the step reloaded; on a broken step, or at its
second error within 1 s of the first, the channel is fenced. -/
def State.stepError (l n : Nat) (s : State) : State :=
  let broken := s.sched.broken.contains n
  let again := match SMap.get? s.sched.perrTimes n with
    | some t => !s.passed t 1000000000
    | none => false
  let reset : Bool := match s.grantOf l with
    | some g => g.kind == .reset || (g.din && !g.confirmed)
    | none => false
  let s := (s.closeGrant l).onLun l (fun t => { t with sched := SchedCtx.init, vec := none })
  let s := if broken then s else
    (s.onSched (fun c =>
      let c := if c.perrValid then c
        else { c with perrValid := true, perrThread := l % 16, perrCh := lunChan l, perrStep := n }
      { c with perrCount := satInc 0xFF c.perrCount,
               broken := if again then c.broken ++ [n] else c.broken,
               perrTimes := if again then c.perrTimes else SMap.set c.perrTimes n s.time.ns,
               reloading := if again then c.reloading else c.reloading ++ [n],
               halted := if again then c.halted else c.halted ++ [(l, n)] })).raise 0
  if broken || again then s.schedFault l n true
  else if reset then s.askReset l
  else s

/-- Lines that `n` bytes of packets take in a queue (R178). -/
def packetLines (n : Nat) : Nat := 36 * (n / 4584) + (if n % 4584 = 0 then 0 else (n % 4584 + 151) / 128)

/-- The peck that a data-in's packet of a member and region has come from (R172). -/
def State.sentFrom (s : State) (g : Grant) (m region : Nat) : Option Nat :=
  let fold := s.foldGrant g
  (s.unit? (if fold || 5 ≤ region then g.members.headD 0 else (g.members[m]?).getD 0)).bind (fun u =>
    if 5 ≤ region then s.rawPeck u (region - 5)
    else u.pecks[(if fold then 4 * m else 0) + min 3 region]?)

/-- Take over what a run of steps has left (R315, R317, R182, R224): the thread's context, the pins, CONF of the entries whose
starting step has been dispatched, DATA of those whose data moves, the egress queue and what has gone wrong in it, the
RAW's stream; packets of an entry that replay has queued again meanwhile are not waited for (R322); a bad step halts the thread. -/
def State.takeRun (l : Nat) (g : Grant) (x : Run) (s : State) : State :=
  let new := x.g.pins.drop g.pins.length
  let given := g.kind == .readData && new.any (fun p => p == .cmd 0x31 || p == .cmd 0x3F)
  let s := (s.onFreeCtr (· + x.draws)).onGrant l (fun _ => x.g)
  let s := s.onLun l (fun t =>
    { t with sched := x.ctx, rawMoved := x.rawMoved, rawS := t.rawS ++ x.appended,
             rd := if given then t.rd.map (fun r => { r with given := true }) else t.rd })
  let s := (resetsIn new).foldl (fun (s : State) b => s.dieReset l b) s
  let s := x.g.starting.foldl (fun (s : State) ix => s.onUnit ix (fun u => { u with conf := true })) s
  let s := x.moved.foldl (fun (s : State) ix => s.onUnit ix (fun u =>
    if u.st == .onDie then { u with st := .data } else u)) s
  let s := if x.g.din && x.g.kind == .program then
      x.g.members.foldl (fun (s : State) ix => s.onUnit ix (fun u => if u.st == .issued then { u with st := .data } else u)) s
    else s
  let s := s.onGrant l (fun g => { g with expect := g.expect.map (fun e =>
    { e with gone := e.gone || s.unitIs (fun u => u.st == .queued) e.ix }) })
  let s := s.onPool (fun p =>
    { p with egress := SMap.put Queue.init p.egress (lunChan l) x.egress,
             underrun := if x.marks.any (fun q => q.2.2 == 2) then p.underrun ||| (1 <<< lunChan l) else p.underrun })
  let s := x.marks.foldl (fun (s : State) q => match s.sentFrom g q.1 q.2.1 with
    | some p => s.onPeck p (fun k => { k with flags := k.flags ||| q.2.2 })
    | none => s) s
  let s := if x.g.kind = .raw then (g.members.headD 131072 |> fun ix => s.rawRefill ix) else s
  match x.g.fin with
  | .halted n => s.stepError l n
  | _ => s

/-- Run a thread's schedule to its next stop; none where it loops (log 9). -/
def State.runGrant (l : Nat) (s : State) : Option State :=
  match s.grantOf l, dieOf s l with
  | some g, some d =>
    let t := s.lun l
    (runSteps (s.envOf d g) s.freeCtr stepLimit
      { ctx := t.sched, g := { g with fin := .running }, rawMoved := t.rawMoved, appended := [], moved := [],
        egress := SMap.getD s.pool.egress (lunChan l) Queue.init, marks := [], draws := 0,
        inSdr := g.kind == .reset || t.sdr }).map
      (fun x => s.takeRun l g x)
  | _, _ => some s

/-- The outcome of a row that runs schedules. -/
def runRes (o : Option State) : Res :=
  match o with
  | some s => .next s
  | none => .fault .scheduleLoop

/-! ## The decision -/

/-- The entries of a grant win their issue (R108, R317) and leave their lists. -/
def State.issue (l : Nat) (a : Ask) (members : List Nat) (cache : Option Nat) (s : State) : State :=
  let out := members ++ cache.toList
  let s := members.foldl (fun (s : State) ix => s.onUnit ix (fun u =>
    { u with st := .issued, won := true, merged := 1 < members.length, passes := 0, conf := false,
             place := if u.kind == .read then some true else u.place,
             pend := if startsRead u && u.step == 0 then u.sel else u.pend })) s
  let s := cache.toList.foldl (fun (s : State) ix => s.onUnit ix (fun u =>
    { u with st := .issued, won := true, merged := false, passes := 0, conf := false,
             place := if u.kind == .read then some true else u.place,
             pend := if u.step == 0 then u.sel else u.pend })) s
  let s := s.onChan (lunChan l) (fun c => { c with mergeCnt := c.mergeCnt + BitVec.ofNat 32 (members.length - 1) })
  s.onLun l (fun t =>
    { t with readQ := t.readQ.filter (fun ix => !out.contains ix), orderQ := t.orderQ.filter (fun ix => !out.contains ix),
             vecFor := if a.kind == .readStart || cache.isSome then none else t.vecFor,
             cacheIx := if t.cacheIx.any out.contains then none else t.cacheIx,
             op := if a.kind == .readStart || cache.isSome then
                 t.op.map (fun o => if o.suspended then { o with suspReads := o.suspReads + out.length } else o)
               else t.op })

/-- What a request turns off as it is granted, and the vector that a levels grant sets (R224). The poll request of a page that
a cache command has started outlasts the body grant of the page before it (R283). -/
def State.clearAsk (l : Nat) (d : DieType) (a : Ask) (s : State) : State :=
  let vec := (s.unit? a.ix).map (s.unitVector d)
  let s := s.onLun l (fun t =>
    match a.kind with
    | .readData => { t with pollReq := t.pollReq && t.rd.any (·.ready) }
    | .poll => { t with pollReq := false }
    | .suspend =>
      { t with suspReq := false, ev := { t.ev with run := none }, op := t.op.map (fun o => { o with checking := true }) }
    | .levels => { t with vec := vec, vecFor := some a.ix }
    | .temperature => { t with tempReq := false }
    | .reset => { t with resetReq := false }
    | .raw =>
      { t with rawOpen := some a.ix, rawReq := false, rawMoved := if t.rawOpen.isSome then t.rawMoved else 0,
               rawS := if t.rawOpen.isSome then t.rawS else [] }
    | _ => t)
  match a.kind, (s.lun l).op with
  | .suspend, some o => o.members.foldl (fun (s : State) ix => s.onUnit ix (fun u => { u with suspSent := true })) s
  | _, _ => s

/-- A queue pointer mismatch that the grant meets (R185): packets on their way in are repeated; an egress packet closed
SHORT ends the data-in without its confirm (R183), and its entries count as replayed. -/
def State.grantMismatch (ch : Nat) (g : Grant) (s : State) : State :=
  match g.io.mismatch with
  | none => s
  | some m =>
    let lost := if m.egress then [] else ((s.chan ch).arriving.map Expect.ix)
    let s := s.mismatch ch m lost
    if m.egress ∧ (g.kind = .program ∨ g.kind = .raw) then g.members.foldl (fun (s : State) ix => s.markReplayed ix) s else s

/-- Give the channel's pins to a request (R144-R148); steps of the store that have been upset show it when they are dispatched
(R305). -/
def State.grant (ch l : Nat) (d : DieType) (a : Ask) (members : List Nat) (io : GrantIo) (s : State) : Option State :=
  let asks := s.asks ch
  let (g, ctx) := s.makeGrant l d a members io
  let s := (s.countPasses ch l asks).onSched (fun c => io.bad.foldl Sched.upset c)
  let s := s.onChan ch (fun c =>
    { c with ptrs := SMap.put 15 c.ptrs a.key (l % 16), passes := SMap.erase c.passes (l % 16),
             grant := if c.grant.isNone then some g else c.grant, next := if c.grant.isNone then c.next else some g })
  let out := match a.kind with
    | .readStart | .program | .erase => members
    | .raw => if (s.lun l).rawOpen.isSome then [] else members
    | _ => []
  let s := (s.clearAsk l d a).issue l a out g.cacheNext
  let s := s.onLun l (fun t => { t with sched := ctx })
  let s := (s.grantMismatch ch g).headEvent l
  s.runGrant l

/-- ARBITER_DECISION (R145-R149, R164, R303): the winner's grant begins, or stands behind the one in progress. -/
def execArbiterDecision (ch : Nat) (io : GrantIo) (s : State) : Res :=
  if s.going && ch < 32 && (s.chan ch).next.isNone && !(s.asks ch).isEmpty then
    let s := s.ecc io.ecc
    if eccHalts io.ecc then .next s
    else
      let (s, won) := State.arbitrate ch (s.ldg.units.length + 1) s
      match won with
      | none => .next s
      | some (l, a, members) =>
        match dieOf s l with
        | some d => runRes (s.grant ch l d a members io)
        | none => .next s
  else .next s

/-! ## The starting step -/

/-- Period of later status reads in ns (R152-R154). -/
def laterPoll (d : DieType) (phase : Nat) : Nat := 1000 * (if phase = 4 then d.tbersPoll else d.tprogPoll)

/-- First-poll time in ns (R152-R156). -/
def firstPoll (d : DieType) (phase : Nat) : Nat :=
  1000 * (match phase with
    | 0 => d.tprogFirst
    | 1 => d.tslcFirst
    | 2 => d.tfoldCFirst
    | 3 => d.tfoldFFirst
    | _ => d.tbersFirst)

/-- An array operation of a unit has started on its die (R315): ON_DIE, a ready poll on the delay list, and for a read its
pecks asked for (R173). -/
def State.started (l : Nat) (d : DieType) (cached : Bool) (s : State) (ix : Nat) : State :=
  match s.unit? ix with
  | none => s
  | some u =>
    let s := s.onUnit ix (fun u => { u with st := .onDie, conf := true })
    if u.kind == .raw then s
    else if startsRead u then
      let due := s.after (1000 * d.trFirst)
      let susp := match (s.lun l).op with
        | some o => o.suspended
        | none => false
      let add (r : Option ReadOp) : Option ReadOp := match r with
        | some r => some { r with members := r.members ++ [ix], left := r.left ++ [ix] }
        | none => some { members := [ix], left := [ix], ready := false, cached := cached, given := false, inSuspend := susp, due := due }
      let s := s.onLun l (fun t =>
        { t with rd := if cached then t.rd else add t.rd, cache := if cached then add t.cache else t.cache, pollReq := false,
                 ev := { t.ev with poll := some (s.event (some ix) due) } })
      s.askPecks u.chan ix (match u.kind with
        | .readSherd => if u.pecks.isEmpty then 1 else 0
        | .fold => 0
        | _ => (bitsOf 4 u.pend.toNat).countP (fun k => (s.peckOf ix k).isNone))
    else
      let phase := unitPhase u
      let due := s.after (firstPoll d phase)
      let s := s.joinOp l ix u
      s.onLun l (fun t =>
        { t with pollReq := false, ev := { t.ev with poll := some (s.event (some ix) due) },
                 op := t.op.map (fun o => { o with runFrom := s.time.ns, firstDue := some due }) })

/-- Members whose entries have been freed or taken anew leave a grant: what comes for them is stale (R318, R319). -/
def State.dropStale (l : Nat) (s : State) : State :=
  match s.grantOf l with
  | none => s
  | some g =>
    let old := g.gens.filter (fun q => s.genOf q.1 != q.2)
    let s := old.foldl (fun (s : State) _ => s.stale) s
    let gone (ix : Nat) : Bool := old.any (fun q => q.1 == ix)
    s.onGrant l (fun g =>
      { g with members := g.members.filter (fun ix => !gone ix), cacheNext := g.cacheNext.filter (fun ix => !gone ix),
               starting := g.starting.filter (fun ix => !gone ix), gens := g.gens.filter (fun q => !gone q.1) })

/-- ARRAY_START_PIN_END (R315): the entries become ON_DIE, and the schedule runs on. An entry of an older generation is
left alone and counted (R319). -/
def execArrayStartPinEnd (ch : Nat) (status : List (BitVec 64)) (s : State) : Res :=
  match (s.chan ch).grant with
  | none => .next s
  | some g =>
    match dieOf s g.lun with
    | none => .next s
    | some d =>
      if s.going && !g.starting.isEmpty then
        let s := s.dropStale g.lun
        let starting := match s.grantOf g.lun with
          | some g => g.starting
          | none => []
        let s := starting.foldl (State.started g.lun d (g.kind == .readData)) s
        let s := s.onGrant g.lun (fun g =>
          { g with starting := [], io := { g.io with status := g.io.status ++ status } })
        let s := s.decideSuspend g.lun
        if g.fin = .running then runRes (s.runGrant g.lun) else .next s
      else .next s

/-! ## How operations end -/

/-- A unit leaves its thread's array operation; with the last one the thread is free again. -/
def State.offOp (l ix : Nat) (s : State) : State :=
  (s.onLun l (fun t =>
    let o := t.op.bind (ArrayOp.less ix)
    { t with op := o, pollReq := o.isSome, suspReq := t.suspReq && o.isSome,
             ev := { t.ev with poll := none, run := none, win := if o.isNone then none else t.ev.win } })).headEvent l

/-- The die reports success (R152-R154, R302): the erase-end, fold-start and fold-end markers are requested (R27). A fold that waits
for its fold-start marker may be cancelled (R336). -/
def State.opPass (l ix : Nat) (s : State) : State :=
  match s.unit? ix with
  | none => s
  | some u =>
    let s := s.offOp l ix
    match u.kind with
    | .erase => ((s.onUnit ix (fun u => { u with mark := .endAsked })).nvsMarker (some ix) 2 (locOf u.addr) 0).endUnder ix .ok 0
    | .fold =>
      if u.dec = 3 then
        (s.onUnit ix (fun u => { u with st := .queued, dec := 4, conf := false, replay := .none })).nvsMarker (some ix) 4
          (locOf u.addr) (faPage u.addr)
      else
        ((s.onUnit ix (fun u =>
          { u with dec := 2, conf := false, replay := .none, won := false, contested := false })).linkAgain ix).nvsMarker (some ix) 3
          (locOf u.addr) (faPage u.addr)
    | _ => s.endUnder ix .ok 0

/-- The die reports failure: PROGRAM_FAIL or ERASE_FAIL, and the block becomes a grown waster (R152-R154, R334). An open
marker of the unit is closed (log 20). -/
def State.opFail (l ix : Nat) (s : State) : State :=
  match s.unit? ix with
  | none => s
  | some u =>
    let s := (s.offOp l ix).growWaster (some ix) u.addr (if u.kind == .erase then 2 else 1)
    match u.kind with
    | .erase =>
      ((s.onUnit ix (fun u => { u with mark := .endAsked })).nvsMarker (some ix) 2 (locOf u.addr) 0).endUnder ix .eraseFail 0
    | .fold =>
      (if u.dec = 3 then s.nvsMarker (some ix) 4 (locOf u.addr) (faPage u.addr) else s).endUnder ix .programFail 0
    | _ => s.endUnder ix .programFail 0

/-- A ready status that is not attributable (R322, R323, R329). -/
def State.opUnknown (l ix : Nat) (s : State) : State :=
  match s.unit? ix with
  | none => s
  | some u =>
    let s := s.offOp l ix
    match u.kind with
    | .erase => s.requeueWrite ix false
    | .fold =>
      if u.dec = 3 then (s.fromSources ix).onUnit ix (fun u => { u with replay := .reset })
      else s.unknownEnd ix .foldTorn
    | _ => s.unknownEnd ix .programFail

/-- The operation has been suspended (R155, R156): the suspend is counted and its window begins. -/
def State.suspended (l : Nat) (d : DieType) (s : State) : State :=
  let t := s.lun l
  match t.op with
  | none => s
  | some o =>
    let left := match o.firstDue with
      | some f => if s.reached f then 0 else (f - s.time.ns).toNat
      | none => 0
    ((s.onLun l (fun t =>
      { t with pollReq := false, ev := { t.ev with poll := none, win := some (s.event o.members.head? (s.after (1000 * d.suspWin))) },
               op := some { o with suspended := true, checking := false, susps := o.susps + 1, firstLeft := left,
                                   suspAt := s.time.ns, suspReads := 0 } })).onChan (lunChan l) (fun c =>
      { c with suspCnt := c.suspCnt + 1 })).latchResume l

/-- A status read of an operation (R302), its result for the member polled. One that finds the LUN busy makes a replayed
entry's status attributable, and the entry ON_DIE (R317, R323). -/
def State.polled (l ix : Nat) (d : DieType) (result : Nat) (s : State) : State :=
  match (s.lun l).op with
  | none => s
  | some o =>
    let again (n : Nat) (s : State) : State :=
      (s.onLun l (fun t => { t with ev := { t.ev with poll := some (s.event (some ix) (s.after n)) } })).onUnit ix (fun u =>
        if u.replay == .status then { u with st := .onDie, replay := .none } else u)
    if result = 1 ∨ result = 2 then
      if s.unitIs (fun u => u.replay == .status || u.replay == .lost) ix then s.opUnknown l ix
      else if result = 1 then s.opPass l ix
      else s.opFail l ix
    else if o.checking ∧ result = 4 then s.suspended l d
    else if o.checking ∧ result = 5 then
      s.onLun l (fun t => { t with pollReq := true, op := some { o with checking := false } })
    else again (if o.checking then 1000 * d.tSusp else laterPoll d o.phase) s

/-- The suspend schedule has ended (R155): SUSPENDED, ENDED, or the status is read after T_SUSP. -/
def State.suspendEnd (l : Nat) (d : DieType) (result : Nat) (s : State) : State :=
  if result = 4 then s.suspended l d
  else
    let next : Option Event := if result = 5 then none
      else some (s.event ((s.lun l).op.bind (fun o => o.members.head?)) (s.after (1000 * d.tSusp)))
    s.onLun l (fun t =>
      { t with pollReq := result = 5, ev := { t.ev with poll := next },
               op := t.op.map (fun o => { o with checking := result != 5 }) })

/-- The resume schedule has ended (R156): the run-time clock and the status reads start again. -/
def State.resumed (l : Nat) (d : DieType) (s : State) : State :=
  let t := s.lun l
  match t.op with
  | none => s.onLun l (fun t => { t with resumeReq := false })
  | some o =>
    let due := s.after (if o.firstLeft = 0 then laterPoll d o.phase else o.firstLeft)
    let s := o.members.foldl (fun (s : State) ix => s.onUnit ix (fun u => { u with suspSent := false })) s
    (s.onLun l (fun t =>
      { t with resumeReq := false,
               ev := { t.ev with win := none, poll := if t.pollReq then t.ev.poll else some (s.event o.members.head? due) },
               op := some { o with suspended := false, checking := false, runFrom := s.time.ns, firstLeft := 0,
                                   firstDue := if o.firstLeft = 0 then none else some due } })).decideSuspend l

/-- A read data grant has ended (R144, R149, R151): it found the die busy, or moved what it was to move. Only a probe leaves
its page in the die. -/
def State.dataEnd (l : Nat) (d : DieType) (g : Grant) (result : Nat) (s : State) : State :=
  let ix := g.members.headD 0
  if result = 3 then s.onLun l (fun t => { t with ev := { t.ev with poll := some (s.event (some ix) (s.after (1000 * d.trPoll))) } })
  else if s.unitIs (fun u => u.st == .onDie) ix then s.onLun l (fun t => { t with rd := t.rd.map (fun r => { r with ready := true }) })
  else
    ((s.onLun l (fun t =>
      { t with rd := t.rd.bind (fun r =>
        let left := if g.probe then r.left else r.left.filter (· != ix)
        if !r.members.contains ix then some r
        else if left.isEmpty then none else some { r with left := left, ready := true }) })).cacheTurns l).headEvent l

/-- A data-in has ended without its confirm (R183): the entries raise their data-in request again. -/
def State.dataInAborted (l : Nat) (g : Grant) (s : State) : State :=
  (if g.kind == .raw then g.members else g.members.reverse).foldl (fun (s : State) ix =>
    (s.onUnit ix (fun u => { u with merged := false, conf := false })).linkAgain ix)
    (s.onLun l (fun t => { t with rawOpen := none, rawReq := false, rawMoved := 0, rawS := [], sched := SchedCtx.init }))

/-- What the engine does at END (R302). Where a data grant ends before its cache command was reached, the entry that was to
be read next stays issued, and the thread reads it next (log 113). -/
def State.schedEnd (l : Nat) (d : DieType) (g : Grant) (result : Nat) (st : BitVec 64) (s : State) : State :=
  let ix := g.members.headD 0
  let s := s.closeGrant l
  if result = 6 ∧ (g.kind = .program ∨ g.kind = .raw) then s.dataInAborted l g
  else match g.kind with
    | .readStart | .program | .erase =>
      (g.members.filter (s.unitIs (fun u => u.st == .issued || u.st == .data))).foldl (State.started l d false) s
    | .readData =>
      let s := (g.cacheNext.toList.filter (s.unitIs (fun u => u.st == .issued))).foldl (fun (s : State) ix =>
        if result = 3 then s.onLun l (fun t => { t with cacheIx := some ix }) else s.started l d true ix) s
      s.dataEnd l d g result
    | .poll => s.polled l ix d result
    | .suspend => s.suspendEnd l d result
    | .resume => s.resumed l d
    | .levels => s
    | .temperature => s.onLun l (fun t => { t with tempS := some (BitVec.ofNat 8 st.toNat).toInt })
    | .reset =>
      let mine := s.ldg.units.filter (fun e => faLun e.2.addr == l && e.2.replay == .reset)
      mine.foldl (fun (s : State) e => s.onUnit e.1 (fun u => { u with replay := .none })) (s.onLun l (fun t => { t with vec := none }))
    | .raw => ((s.onLun l (fun t => { t with rawOpen := none, rawReq := false })).endUnder ix .ok 0).headEvent l

/-- SCHEDULE_END (R302): the schedule of the channel's grant has reached END, and every packet of a RAW is in its peck. A
status for an entry of an older generation is discarded and counted (R319). -/
def execScheduleEnd (ch : Nat) (s : State) : Res :=
  match (s.chan ch).grant with
  | none => .next s
  | some g =>
    match dieOf s g.lun, g.fin with
    | some d, .ended result st =>
      let waits := g.kind == .raw && (s.chan ch).arriving.any (fun e => g.members.contains e.ix)
      onlyIf (s.going && g.starting.isEmpty && !waits) (fun s =>
        let t := s.dropStale g.lun
        match t.grantOf g.lun with
        | some h =>
          if h.members.isEmpty && !g.members.isEmpty then t.closeGrant g.lun
          else t.schedEnd g.lun d h result st
        | none => t) s
    | _, _ => .next s

/-- GRANT_RELEASE (R304): the grant ends with its schedule open; the request follows after the poll time, or at once. The
schedules of R160 actions never use RELEASE; one that does ends there (log 21). -/
def execGrantRelease (ch : Nat) (s : State) : Res :=
  match (s.chan ch).grant with
  | none => .next s
  | some g =>
    match dieOf s g.lun, g.fin with
    | some d, .released poll =>
      onlyIf (s.going && g.starting.isEmpty) (fun s =>
        if g.kind = .raw then
          (s.closeGrant g.lun).onLun g.lun (fun t =>
            { t with rawReq := poll.isNone,
                     ev := { t.ev with poll := poll.map (fun n => s.event (some (g.members.headD 0)) (s.after (1000 * n))) } })
        else s.schedEnd g.lun d g 0 (s.lun g.lun).sched.s) s
    | _, _ => .next s

/-- GRANT_LIMIT_EXCEEDED (R308): the grant is aborted and its channel fenced. -/
def execGrantLimitExceeded (ch : Nat) (s : State) : Res :=
  match (s.chan ch).grant with
  | none => .next s
  | some g =>
    match g.fin with
    | .overLimit n =>
      onlyIf s.going (fun s =>
        ((s.closeGrant g.lun).onLun g.lun (fun t => { t with sched := SchedCtx.init, vec := none })).schedFault g.lun n false) s
    | _ => .next s

/-- Grants that wait for a step go on. -/
def State.resumeGrants (n : Nat) (ls : List Nat) (s : State) : Option State :=
  ls.foldl (fun (o : Option State) l => o.bind (fun s =>
    match s.grantOf l with
    | some g => if g.fin = .waiting n then s.runGrant l else some s
    | none => some s)) (some s)

/-- STEP_RELOAD_DONE (R306): the step stands in the store again with new parity, source 57 rises, and the entries of the
threads that halted on it are replayed. -/
def execStepReloadDone (step : Nat) (content : BitVec 160) (s : State) : Res :=
  if s.live && s.spm.readable && s.sched.reloading.head? = some step then
    let mine := (s.sched.halted.filter (fun h => h.2 == step)).map Prod.fst
    let s := ((s.onSched (fun c =>
      { c with store := SMap.set c.store step (content, stepParity content), reloading := c.reloading.drop 1,
               reloadCnt := c.reloadCnt + 1, halted := c.halted.filter (fun h => h.2 != step),
               reloadFirst := c.reloadFirst && 1 < c.reloading.length })).raise 57).prefetch.spmGo
    let held := s.ldg.units.filter (fun e =>
      mine.contains (faLun e.2.addr) && replayable e.2 && e.2.st != .decoding && e.2.st != .dma)
    let s := held.foldl (fun (s : State) e => s.replayUnit e.1) s
    runRes (s.resumeGrants step (List.range 512))
  else .next s

/-! ## Urgency -/

/-- URGENCY_PROMOTION (R104, R143): relinked behind the last urgent entry of its list. -/
def execUrgencyPromotion (ix : Nat) (gen : BitVec 16) (s : State) : Res :=
  match s.unit? ix with
  | none => onlyIf (s.going && s.genOf ix != gen) State.stale s
  | some u =>
    if u.gen ≠ gen then onlyIf s.going State.stale s
    else onlyIf (s.going && !u.urgent && !ended u && s.urgentNow u) (fun s =>
      let l := faLun u.addr
      let s := s.onUnit ix (fun u => { u with urgent := true })
      if u.bundle.isNone && (s.lun l).readQ.contains ix then
        (s.onLun l (fun t =>
          { t with readQ := insertAfterLast (s.unitIs (·.urgent)) ix (t.readQ.filter (· != ix)) })).headEvent l
      else s) s

/-! ## The delay list (R157) -/

/-- An event that is addressed to an entry of another generation is discarded and counted; otherwise it acts (R319). -/
def State.eventActs (e : Option Event) (f : State → State) (s : State) : State :=
  if s.staleEvent e then s.stale else f s

/-- READY_POLL_DUE (R152, R157, R304). -/
def execReadyPollDue (lun : Nat) (s : State) : Res :=
  let e := (s.lun lun).ev.poll
  s.onEvent lun e (fun s =>
    (s.onLun lun (fun t => { t with ev := { t.ev with poll := none } })).eventActs e (fun s => s.onLun lun (fun t =>
      { t with rawReq := t.rawReq || t.rawOpen.isSome, pollReq := t.pollReq || t.rawOpen.isNone })))

/-- RUN_TIME_EXPIRY (R155): the suspend is decided again. -/
def execRunTimeExpiry (lun : Nat) (s : State) : Res :=
  let e := (s.lun lun).ev.run
  s.onEvent lun e (fun s =>
    (s.onLun lun (fun t => { t with ev := { t.ev with run := none } })).eventActs e (·.decideSuspend lun))

/-- SUSPEND_WINDOW_EXPIRY (R156): no further read is issued in this suspension. -/
def execSuspendWindowExpiry (lun : Nat) (s : State) : Res :=
  let e := (s.lun lun).ev.win
  s.onEvent lun e (fun s =>
    (s.onLun lun (fun t => { t with ev := { t.ev with win := none } })).eventActs e (fun s => s.onLun lun (fun t =>
      { t with op := t.op.map (fun o => { o with suspReads := 256 }) })))

/-- MERGE_WINDOW_EXPIRY (R150): the hold that is due ends; that of the other list head, where it holds one, goes on. -/
def execMergeWindowExpiry (lun : Nat) (s : State) : Res :=
  let e := (s.lun lun).ev.merge
  s.onEvent lun e (fun s =>
    let over_ (h : Hold) : Hold := if h.due.any s.reached then { h with due := none } else h
    let s := (s.onLun lun (fun t => { t with holdR := t.holdR.map over_, holdO := t.holdO.map over_ })).placeMerge lun
    s.eventActs e (fun s => (s.prepare lun).decideSuspend lun))

/-! ## Source data -/

/-- A RAW whose data-in stands still for want of lines goes on (R181, R182). -/
def State.resumeStarved (l : Nat) (s : State) : Option State :=
  match s.grantOf l with
  | some g => if g.fin = .starved then s.runGrant l else some s
  | none => some s

/-- SOURCE_DATA_RETURN (R54, R119, R125): the bytes reach their pecks; a RAW's data-in that waited for them goes on. -/
def execSourceDataReturn (chain : ChainId) (tag : Nat) (data : List Byte) (s : State) : Res :=
  if !s.live then .next s
  else match s.sourceReturn chain tag data with
    | none =>
      match s.popTag tag (fun r => r.what == .gone) with
      | some (_, t) => .next t
      | none => .next s
    | some (ix, s) =>
      match s.unit? ix with
      | some u => runRes (s.resumeStarved (faLun u.addr))
      | none => .next s

end Sys2Proof.Machine
end

