-- ==== Sys2Proof/Machine/Ladder.lean ====
section
/-! DEFINITION. The recovery ladder of a page (R225-R228), what a page's packets set off (R205, R230), and how a page of
each kind ends once its codewords have (R154, R196, R237, R242). -/

namespace Sys2Proof.Machine

/-! ## Ends of pages -/

/-- A fold source has been read (R154): the next one follows, or the fold goes on to its coarse pass, or to the fine pass
it repeats (R329). -/
def State.sourceRead (ix : Nat) (s : State) : State :=
  (s.onUnit ix (fun u =>
    { u with src := u.src + 1, step := 0, sense := 0, cwOk := 0, pend := 0, erased := 0, failed := [], raws := [],
             sherd := none, dec := if u.src + 1 = 4 ∧ u.dec = 0 then 1 else u.dec })).linkAgain ix

/-- Every codeword of a read page has ended, and for a fold source its sherd: the page takes its status (R99), or a fold
source is done. -/
def State.readEnd (ix : Nat) (s : State) : State :=
  match s.unit? ix with
  | none => s
  | some u =>
    if restMask u ≠ 0 || (u.kind == .fold && u.failed.isEmpty && !u.sherds.any (fun q => q.1 == u.src)) then s
    else if u.kind == .fold && u.failed.isEmpty then s.sourceRead ix
    else if u.kind == .internal && u.failed.isEmpty then s.endUnder ix (goodStatus u) 0
    else if u.kind == .patrol && u.failed.isEmpty then s.endUnder ix (goodStatus u) 0
    else s.pageEnd ix

/-- End a codeword with a failure (R99): its ladder ends, and its sense pecks are released (R173). -/
def State.cwFails (ix cw : Nat) (st : Status) (s : State) : State :=
  let s := (s.onUnit ix (fun u => { u with failed := u.failed ++ [(cw, st)], pend := u.pend &&& ~~~(1#4 <<< cw) })).dropSense ix (some cw)
  if st = .uncorrectable then s.onCal (fun c => { c with uncorr := c.uncorr + 1 }) else s

/-! ## The ladder -/

/-- Soft lanes in service (R210). -/
def Dec.softCount (d : Dec) : Nat := ((List.range 4).filter (fun l => !bit d.softOut l)).length

/-- Hard lanes in service (R210). -/
def Dec.hardCount (d : Dec) : Nat :=
  ((List.range 26).filter (fun l => (l < 24 || bit d.spareIn (l - 24)) && !bit d.hardOut l)).length

/-- The ladder's next step behind a step that has failed, or none where it ends (R227). -/
def State.nextStep (s : State) (u : LUnit) : Option Nat :=
  match dieOf s (faLun u.addr) with
  | none => none
  | some d =>
    let c := s.cmdOf u
    let no (f : BitVec 512 → Bool) : Bool := c.any (fun c => f c.raw)
    if u.step = 16 || (u.step = 0 && no entNoRefire) then none
    else if u.step < d.refireSteps then some (u.step + 1)
    else if no entNoSoft || s.dec.softCount = 0 then none
    else some 16

/-- A step's wait is over (R226, R228): the entry stands again at the head of its list, for a soft step with those of its
codewords that hold their sense pecks, and the soft map as it is when the step begins (R207). -/
def State.climb (ix : Nat) (s : State) : State :=
  match s.unit? ix with
  | none => s
  | some u =>
    let t := s.lun (faLun u.addr)
    if u.st != .queued || u.step = 0 || t.readQ.contains ix || t.orderQ.contains ix then s
    else if u.step < 16 then (s.onUnit ix (fun u => { u with pend := restMask u })).linkAgain ix
    else
      let have_ := (bitsOf 4 (restMask u).toNat).filter (fun k => (s.sensePecks ix k).length == 2)
      if have_.isEmpty then s
      else (s.onUnit ix (fun u =>
        { u with sense := 0, pend := have_.foldl (fun m k => m ||| (1#4 <<< k)) 0,
                 softMap := if u.sense = 3 then s.cal.softMap else u.softMap })).linkAgain ix

/-- Ask for the sense pecks of the failing codewords (R173, R175). -/
def State.askSense (ix : Nat) (s : State) : State :=
  match s.unit? ix with
  | none => s
  | some u =>
    let cws := (bitsOf 4 (restMask u).toNat).filter (fun k =>
      (s.sensePecks ix k).isEmpty && !s.pool.softQ.contains (ix, k))
    s.onPool (fun p => { p with softQ := p.softQ ++ cws.map (fun k => (ix, k)) })

/-- The present step of a page has ended for every codeword it moved (R225-R227): the page ends, or the failing codewords
climb one step, after BACKOFF. On a fenced channel those that would need another grant end with it (R337). -/
def State.stepDone (ix : Nat) (s : State) : State :=
  match s.unit? ix with
  | none => s
  | some u =>
    if u.pend ≠ 0 || ended u || s.unitHeld u then s
    else if restMask u = 0 then s.readEnd ix
    else
      match if u.step = 16 then some 16 else s.nextStep u with
      | none =>
        ((bitsOf 4 (restMask u).toNat).foldl (fun (s : State) k => s.cwFails ix k .uncorrectable) s).readEnd ix
      | some k =>
        if (s.chan (faChan u.addr)).fenced then s.endUnder ix .channelFenced 0
        else if u.step = 16 then ((s.onUnit ix (fun u => { u with st := .queued, sense := 0 })).askSense ix).climb ix
        else
        let s := s.onUnit ix (fun u =>
          { u with st := .queued, step := k, stepMax := max u.stepMax k, sense := if k = 16 then 3 else 0, raws := [], erased := 0,
                   merged := false })
        let s := if k = 16 then s.askSense ix else s
        let wait := fld s.cal.recovery 0 16
        if wait = 0 then s.climb ix
        else s.onLun (faLun u.addr) (fun t => { t with ev := { t.ev with backoff := some (s.event (some ix) (s.after (1000 * wait))) } })

/-! ## Chains that go on (R130, R131) -/

/-- An entry that its halted chain has held goes on (R130). -/
def State.unhold (s : State) (ix : Nat) : State :=
  match s.unit? ix with
  | none => s
  | some u =>
    if s.unitHeld u then s
    else match u.st, u.bundle with
      | .fetched, _ => (s.beginUnit ix).startDma ix
      | .queued, some b => s.relayPump b
      | .queued, none => s.headEvent (faLun u.addr)
      | .decoding, _ => if u.kind == .readSherd && !u.dmaDone then s else s.stepDone ix
      | _, _ => s

/-- The entries of a command go on. -/
def State.unholdAll (ctx : Nat) (s : State) : State :=
  match s.cmd? ctx with
  | some c => c.units.foldl State.unhold s
  | none => s

/-- RESUME of the chain shown (R131): the failed accesses go out again in the order of their first issue, and the entries of
the command go on. -/
def State.chainResume (s : State) : State :=
  match s.dma.haltQ with
  | [] => s
  | ctx :: rest =>
    let failed := match s.chain? (.cmd ctx) with
      | some h => h.failed
      | none => []
    let s := s.onDma (fun d => { d with haltQ := rest })
    let s := s.onChain (.cmd ctx) (fun h => { h with halted := false, failed := [] })
    (((inIssueOrder failed).foldl State.reissue s).refill.settle ctx).unholdAll ctx

/-- CHAIN_RESUME (R131, R138): DMA_FAULT_ACT RESUME, ignored while VALID = 0. -/
def execChainResume (s : State) : Res :=
  hcpAccess (fun s => if !s.dma.haltQ.isEmpty then s.chainResume else s) s

/-- REFIRE_BACKOFF_EXPIRY (R226): the entries of the LUN that waited stand again on their lists (log 24). -/
def execRefireBackoffExpiry (lun : Nat) (s : State) : Res :=
  let e := (s.lun lun).ev.backoff
  s.onEvent lun e (fun s =>
    (s.onLun lun (fun t => { t with ev := { t.ev with backoff := none } })).eventActs e (fun s =>
      (s.ldg.units.filter (fun e =>
        faLun e.2.addr == lun && e.2.bundle.isNone && e.2.st == .queued && e.2.step != 0)).foldl
        (fun (s : State) e => s.climb e.1) s))

/-! ## Items for the decoders -/

/-- Put a codeword into the hard or the soft queue (R209); with no lane in service it ends UNCORRECTABLE at once (R210). -/
def State.toLane (ix cw : Nat) (soft : Bool) (s : State) : State :=
  let item : DecItem := { ix := ix, gen := s.genOf ix, cw := cw, soft := soft, seq := s.dec.nextItem }
  if s.dec.softCount = 0 && (soft || s.dec.hardCount = 0) then (s.cwFails ix cw .uncorrectable).stepDone ix
  else s.onDec (fun d =>
    { d with nextItem := d.nextItem + 1, hardQ := if soft then d.hardQ else d.hardQ ++ [item],
             softQ := if soft then d.softQ ++ [item] else d.softQ })

/-- The threshold sample of a step 0 read whose packets have all come (R230): where the learner's queue is full it is
dropped and counted (R233). -/
def State.takeSample (ix : Nat) (s : State) : State :=
  match s.unit? ix with
  | none => s
  | some u =>
    match dieOf s (faLun u.addr) with
    | none => s
    | some d =>
      let zs := (u.raws.filter (fun q => q.1 < 4)).map Prod.snd
      let pol := polarity s d (pageType d (faPage u.addr))
      let kind := u.kind == .read || u.kind == .readScan || u.kind == .readStream || u.kind == .patrol || u.kind == .internal
      if !kind || u.step ≠ 0 || zs.isEmpty || pol = 0 then s
      else if 64 ≤ s.cal.samples.length then s.onCal (fun c => { c with rejectCnt := c.rejectCnt + 1 })
      else
        let n := 36672 * zs.length
        let p : Sample :=
          { ix := ix, gen := u.gen, iters := u.hardSum, cws := u.hardCws, lun := faLun u.addr, group := blockGroup d (faBlock u.addr),
            pol := pol, n := n, ones := n - zs.sum,
            inRange := zs.all (fun z => 35 * 36672 ≤ 100 * (36672 - z) && 100 * (36672 - z) ≤ 65 * 36672),
            patrol := u.kind == .patrol, internal := if u.kind == .internal then u.ctx else none }
        s.onCal (fun c => { c with samples := c.samples ++ [p] })

end Sys2Proof.Machine
end

