-- ==== Sys2Proof/Machine/Intake.lean ====
section
/-! DEFINITION. What comes in over a channel and where it lands (R177-R185, R204, R205): packets, flushes, the grants of
pecks (R174, R175), the admission of folds (R154). -/

namespace Sys2Proof.Machine

/-! ## Packets -/

/-- The bytes of a region as they stand in its peck: derandomised (R199), but for RAW. -/
def State.plain (s : State) (u : LUnit) (region : Nat) (bytes : List Byte) : List Byte :=
  if 5 ≤ region then bytes
  else
    let a := s.readAddr u
    Codec.randomise (Codec.seed (faPage a) (faBlock a) (faPlane a) region) bytes

/-- Every codeword that the present read moves has arrived (R205): DECODING; a page with every
selected codeword erased ends ERASED_PAGE, and otherwise its erased codewords enter the hard queue. -/
def State.allArrived (ix : Nat) (s : State) : State :=
  match s.unit? ix with
  | none => s
  | some u =>
    if ended u then s
    else
      let s := s.onUnit ix (fun u => { u with st := .decoding })
      if u.erased == u.sel then
        ((bitsOf 4 u.sel.toNat).foldl (fun (s : State) k => s.cwFails ix k .erasedPage) s).readEnd ix
      else ((bitsOf 4 u.erased.toNat).foldl (fun (s : State) k => s.toLane ix k false) s).stepDone ix

/-- A sense of a soft step has arrived (R228, R317): from DECODING the entry is queued for the next one, or after the third the codewords enter the soft queue. -/
def State.senseArrived (ix : Nat) (s : State) : State :=
  match s.unit? ix with
  | none => s
  | some u =>
    if u.sense < 2 then (s.onUnit ix (fun u => { u with st := .decoding, sense := u.sense + 1, raws := [] })).linkAgain ix
    else
      (bitsOf 4 u.pend.toNat).foldl (fun (s : State) k => s.toLane ix k true)
        (s.onUnit ix (fun u => { u with st := .decoding, raws := [] }))

/-- A codeword packet is complete (R179, R204, R205); with the last of a read its sample is taken (R230). The read has still to
bring what is pending and has not arrived: a codeword ends only once it has come. R205 does not say whether the senses of a soft step are
classified: DESIGN CHOICE (log 137), they are not, nor counted. -/
def State.codewordIn (ix r zeros : Nat) (s : State) : State :=
  match s.unit? ix with
  | none => s
  | some u =>
    let here := u.raws.foldl (fun (m : BitVec 4) q => m ||| (1#4 <<< q.1)) (1#4 <<< r)
    let last := u.pend &&& ~~~here == 0
    let s := s.onUnit ix (fun u => { u with raws := u.raws ++ [(r, zeros)] })
    if u.step = 16 then (if last then s.senseArrived ix else s)
    else
      let s := if last then s.takeSample ix else s
      let erased := zeros ≤ fld s.dec.cfg 16 12
      let s := if erased then
          (s.onUnit ix (fun u => { u with erased := u.erased ||| (1#4 <<< r) })).onDec (fun d =>
            { d with erasedCnt := d.erasedCnt + 1 })
        else s.toLane ix r false
      if last then s.allArrived ix else s

/-- The 80-byte record of a READ_SHERD (R96). -/
def sherdRecord (st : Status) (payload : List Byte) : List Byte :=
  (if st == .ok then pad 72 payload else zeros 72) ++ leBytes 1 st.code ++ zeros 7

/-- What the outcome of a sherd sets off: a READ_SHERD gives out its record, a fold keeps the payload or ends, a scan page
waits for its decision (R96, R154, R281). -/
def State.sherdOutcome (ix : Nat) (st : Status) (payload : List Byte) (s : State) : State :=
  match s.unit? ix with
  | none => s
  | some u =>
    match u.kind with
    | .readSherd =>
      (match u.ctx with
       | some ctx =>
         let s := (s.onUnit ix (fun u =>
           { u with dmaDone := true, failed := if st = .ok then u.failed else [(0, st)] })).giveOut ctx ix 4 0
             (sherdRecord st payload) true
         s.pageEnd ix
       | none => s)
    | .fold =>
      if st = .ok then
        (s.onUnit ix (fun u => { u with sherds := u.sherds.filter (fun q => q.1 != u.src) ++ [(u.src, payload)] })).readEnd ix
      else (s.dropDecodes ix).endUnder ix st 0
    | _ => s

/-- With no BCH decoder in service a sherd ends UNCORRECTABLE without a decode (R210). -/
def State.sherdLost (ix : Nat) (s : State) : State :=
  ((s.onUnit ix (fun u => { u with sherd := some .uncorrectable })).onDec (fun d =>
    { d with sherdFail := d.sherdFail + 1 })).sherdOutcome ix .uncorrectable []

/-- A sherd packet is complete (R205, R209): it goes to a BCH decoder; with none in service it is UNCORRECTABLE (R210). -/
def State.sherdIn (ix zeros : Nat) (bytes : List Byte) (s : State) : State :=
  match s.unit? ix with
  | none => s
  | some u =>
    let erased := zeros ≤ fld s.dec.cfg 28 4
    let s := s.onUnit ix (fun u =>
      { u with st := if u.kind == .fold then u.st else .decoding, sherd := if erased then some .erasedPage else none,
               sherds := if u.kind == .fold then (u.sherds.filter (fun q => q.1 != 4 + u.src)) ++ [(4 + u.src, bytes)]
                 else u.sherds })
    if s.dec.bchOut = 3 then s.sherdLost ix
    else s.onDec (fun d =>
      { d with nextItem := d.nextItem + 1,
               bchQ := d.bchQ ++ [{ ix := ix, gen := u.gen, cw := 4, soft := false, seq := d.nextItem }] })

/-- A RAW packet is complete (R178): on to its chain. -/
def State.rawIn (ix n : Nat) (bytes : List Byte) (s : State) : State :=
  match s.unit? ix with
  | none => s
  | some u =>
    match u.ctx, s.cmdOf u with
    | some ctx, some c =>
      let t := s.lun (faLun u.addr)
      let end_ := 4584 * n + bytes.length
      s.giveOut ctx ix (n % 256) (4584 * n) bytes (entRawLen c.raw ≤ end_ || (t.rawMoved == end_ && !t.sched.run))
    | _, _ => s

/-- A RAW packet with the bytes of S that its schedule has appended to the stream (R298). -/
def State.withS (s : State) (l n : Nat) (bytes : List Byte) : List Byte :=
  let base := 4584 * n
  ((s.lun l).rawS.foldl (fun (a : List Byte) q =>
    if base ≤ q.1 then overlay a (q.1 - base) q.2
    else overlay a 0 (q.2.drop (base - q.1))) bytes).take bytes.length

/-- The peck that a die-to-host RAW packet is to fill still holds its previous packet, which the host has not acknowledged
(R173). -/
def rawPeckBusy (u : LUnit) (region : Nat) : Bool :=
  5 ≤ region && u.pecks.length ≤ region - 5 &&
    u.dmaLeft.any (fun d => d.1 == (region - 5 - u.pecks.length) % 256 && d.2 != 0)

/-- The packets of a channel without the first. -/
def Chan.popArriving (c : Chan) : Chan :=
  match c.late with
  | _ :: r => { c with late := r }
  | [] => { c with grant := c.grant.map (fun g => { g with expect := g.expect.drop 1 }) }

/-- The packet that a RAW's data-in is in the middle of is closed SHORT by a queue pointer mismatch, and the data-in is faulty
(R183, R185). -/
def State.cutEgress (ch : Nat) (s : State) : State :=
  match (s.chan ch).grant with
  | none => s
  | some g =>
    if g.dinLeft.isNone then s
    else
      let s := s.onGrant g.lun (fun g => { g with faulty := true })
      match s.sentFrom g 0 (5 + (s.lun g.lun).rawMoved / 4584) with
      | some p => s.onPeck p (fun k => { k with flags := k.flags ||| 1 })
      | none => s

/-- PACKET_COMPLETE (R178-R180, R184, R185): the packet has passed the ingress queue, and its header and bytes stand in its
peck. One that arrives SHORT, or FLUSHED because a flush has closed it, makes its entry repeat; one of an entry that has
ended, or has been queued again, is dropped, and of an older generation counted (R319, R322). Behind a flush no packet comes until it has taken effect. -/
def execPacketComplete (ch : Nat) (bytes : List Byte) (short : Bool) (mismatch : Option Mismatch) (s : State) : Res :=
  match (s.chan ch).arriving.head? with
  | none => .next s
  | some e =>
    let q := SMap.getD s.pool.ingress ch Queue.init
    onlyIf (s.live && (!q.flush || q.closeShort) && !s.unitIs (fun u => rawPeckBusy u e.region) e.ix) (fun s =>
      match mismatch with
      | some m =>
        let lost := (s.chan ch).arriving.map Expect.ix
        (if m.egress then s.cutEgress ch else s).mismatch ch m (if m.egress then [] else lost)
      | none =>
        let flushed := q.closeShort
        let bytes := bytes.take e.len
        let bytes := if 5 ≤ e.region then s.withS ((s.unit? e.ix).map (fun u => faLun u.addr) |>.getD 0) (e.region - 5) bytes
          else bytes
        let short := short || flushed || bytes.length < e.len
        let lines := packetQ false short flushed bytes
        let s := (s.onChan ch Chan.popArriving).onPool (fun p =>
          { p with ingress := SMap.put Queue.init p.ingress ch { (q.pass lines) with closeShort := false } })
        match s.unit? e.ix with
        | none => s.stale
        | some u =>
          if u.gen ≠ e.gen then s.stale
          else if ended u || e.gone then s
          else
            let data := s.plain u e.region bytes
            let s := s.packetLands u e (packetFlags short flushed) (packetBytes lines).length data
            if short then s.losePackets [e.ix]
            else if 5 ≤ e.region then s.rawIn e.ix (e.region - 5) bytes
            else if e.region = 4 then s.sherdIn e.ix (Codec.zeroBits bytes) data
            else s.codewordIn e.ix e.region (Codec.zeroBits bytes)) s

/-! ## Flushes -/

/-- FLUSH_TAKES_EFFECT (R184): at the consumer's packet boundary the queued lines are discarded, the pointers equal and the
credits 64, and POOL_FLUSH is no longer BUSY once every flush it asked for has taken effect. Entries whose packets were
discarded repeat. -/
def execFlushTakesEffect (ch : Nat) (egress : Bool) (s : State) : Res :=
  let q := SMap.getD (if egress then s.pool.egress else s.pool.ingress) ch Queue.init
  onlyIf (!s.inReset && s.pwr.st == .fire && q.flush && !q.closeShort) (fun s =>
    let s := s.onPool (fun p =>
      { p with ingress := if egress then p.ingress else SMap.on Queue.init p.ingress ch Queue.flushed,
               egress := if egress then SMap.on Queue.init p.egress ch Queue.flushed else p.egress,
               flushAsk := if p.flushCh.toNat = ch then p.flushAsk.filter (· != egress) else p.flushAsk })
    if egress then s
    else
      let lost := (s.chan ch).arriving.map Expect.ix
      (s.onChan ch (fun c => { c with late := [], grant := c.grant.map (fun g => { g with expect := [] }) })).losePackets lost) s

/-- A write of POOL_FLUSH (R189): ignored while BUSY; a channel that is not fenced flushes nothing. -/
def State.writeFlush (data : Word) (s : State) : State :=
  if !s.pool.flushAsk.isEmpty then s
  else
    let ch := fld data 0 5
    let s := s.onPool (fun p => { p with flushCh := BitVec.ofNat 5 ch })
    let open_ := !(s.chan ch).arriving.isEmpty
    if (s.chan ch).fenced then
      s.onPool (fun p =>
        { p with flushAsk := (if bit data 8 then [false] else []) ++ (if bit data 9 then [true] else []),
                 ingress := if bit data 8 then SMap.on Queue.init p.ingress ch (fun q => if q.flush then q else q.ask open_)
                   else p.ingress,
                 egress := if bit data 9 then SMap.on Queue.init p.egress ch (Queue.ask false) else p.egress })
    else s

/-- POOL_FLUSH_INGRESS (R189). -/
def execPoolFlushIngress (data : Word) (s : State) : Res :=
  hcpAction (fun s => bit data 8 && s.pool.flushAsk.isEmpty && (s.chan (fld data 0 5)).fenced) (fun s => if bit data 8 then s.writeFlush data else s) s

/-- POOL_FLUSH_EGRESS (R189). -/
def execPoolFlushEgress (data : Word) (s : State) : Res :=
  hcpAction (fun s => bit data 9 && s.pool.flushAsk.isEmpty && (s.chan (fld data 0 5)).fenced) (fun s => if bit data 9 then s.writeFlush data else s) s

/-! ## Pecks (R174, R175) -/

/-- The head request of a channel is a fold's. -/
def State.foldHead (s : State) (c : Nat) : Bool :=
  match s.pool.queueOf c with
  | r :: _ => s.unitIs (fun u => u.kind == .fold && u.bundle.isNone) r.ix
  | [] => false

/-- The caps of R154 admit one more fold on a channel; FOLD_MAX 9-15 acts as 8 (R165). -/
def State.foldRoom (s : State) (c : Nat) : Bool :=
  s.foldsOpen < 16 && s.foldsOn c < min 8 (fld (s.chan c).cfg 20 4)

/-- The first channel whose head request can be granted, from the channel after the one last served (R175); a fold's is its
admission, under the caps of R154. -/
def State.servedNext (s : State) : Option Nat :=
  rrFind 32 (s.pool.lastCh + 1) (fun c =>
    match s.pool.queueOf c with
    | r :: _ => s.pool.grants c r.count && (!s.foldHead c || s.foldRoom c)
    | [] => false)

/-- Hand pecks to a channel's head request: to a unit, which then goes on, or behind DATA_CREDIT of a bundle (R351). -/
def State.serve (c : Nat) (r : AllocReq) (pecks : List Nat) (s : State) : State :=
  let s := s.onPool (fun p => { p with allocQ := SMap.put [] p.allocQ c ((p.queueOf c).drop 1), lastCh := c })
  let s := if 131072 ≤ r.ix then
      pecks.foldl (fun (s : State) p => s.giveCredit (r.ix - 131072) c p) s
    else
      match s.unit? r.ix with
      | none => s
      | some u =>
        let s := s.givePecks r.ix pecks
        match u.bundle, s.cmdOf u with
        | some b, some cmd =>
          if opPrograms cmd.op then ((s.startDma r.ix).progAsk (u.ctx.getD 0))
          else (s.rawRefill r.ix).relayPump b
        | none, some cmd =>
          if opPrograms cmd.op then ((s.startDma r.ix).progAsk (u.ctx.getD 0))
          else s.rawRefill r.ix
        | _, none => s
  s.considerHead c

/-- PECK_ALLOCATION_GRANT (R174, R175, R228): the next channel in turn whose head can be granted, or the head of the soft
reserve's queue. -/
def execPeckAllocationGrant (ch : Option Nat) (pecks : List Nat) (s : State) : Res :=
  match ch with
  | some c =>
    match s.pool.queueOf c with
    | r :: _ =>
      onlyIf (s.live && s.servedNext == some c && s.freePecks pecks && pecks.length == r.count) (·.serve c r pecks) s
    | [] => .next s
  | none =>
    match s.pool.softQ with
    | (ix, k) :: rest =>
      onlyIf (s.live && 2 ≤ s.pool.softFree && s.freePecks pecks && pecks.length == 2) (fun s =>
        let s := s.onPool (fun p => { p with softQ := rest })
        match s.unit? ix with
        | none => s
        | some u =>
          let s := pecks.foldl (fun (s : State) p => s.allocPeck ix u true p k) s
          if (s.lun (faLun u.addr)).ev.backoff.isSome then s else s.climb ix) s
    | [] => .next s

/-- FOLD_ADMISSION (R154, R164, R173, R175): the FOLD at the head of the order list asks for its sixteen pecks and takes them
at once where its channel is the next to be served; otherwise its request waits in the channel's allocation queue. -/
def execFoldAdmission (lun : Nat) (pecks : List Nat) (s : State) : Res :=
  match (s.lun lun).orderQ.head? with
  | none => .next s
  | some ix =>
    match s.unit? ix with
    | none => .next s
    | some u =>
      let c := u.chan
      onlyIf (s.going && u.kind == .fold && u.pecks.isEmpty && s.orderReady u && !s.foldOpen lun && s.foldRoom c) (fun s =>
        match s.refuses u with
        | some st => s.endUnder ix st 0
        | none =>
          let s := s.askPecks c ix 16
          match s.pool.queueOf c with
          | r :: _ =>
            if r.ix == ix && s.servedNext == some c && s.freePecks pecks && pecks.length == 16 then s.serve c r pecks else s
          | [] => s) s

end Sys2Proof.Machine
end

