-- ==== Sys2Proof/Machine/Predicate.lean ====
section
/-! DEFINITION. Sherds and predicates (R271-R274, R277-R280, R284). -/

namespace Sys2Proof.Machine

/-! ## Key order (R273) -/

/-- A binary64 pattern is a NaN. -/
def isNan (x : Nat) : Bool := x / 2 ^ 52 % 2048 == 2047 && x % 2 ^ 52 != 0

/-- A bound as a number that orders as R273 says: ENC 1 as it is, 2 signed, 3 mapped, 4 byte 0 first. -/
def orderKey (enc : Nat) (bs : List Byte) : Int :=
  let x := leNat bs
  match enc with
  | 2 => (BitVec.ofNat 64 x).toInt
  | 3 =>
    let x := if x = 2 ^ 63 then 0 else x
    if x < 2 ^ 63 then x + 2 ^ 63 else 2 ^ 64 - 1 - x
  | 4 => leNat bs.reverse
  | _ => x

/-! ## Slots (R272, R274) -/

/-- The 20 bytes of slot `i` of a sherd payload. -/
def slotOf (sherd : List Byte) (i : Nat) : List Byte := slice sherd (12 + 20 * i) 20
/-- ENC of a slot or term. -/
def encOf (b : List Byte) : Nat := num b 1 1 % 16
/-- NULLS of a slot. -/
def nullsOf (slot : List Byte) : Nat := num slot 2 2
/-- ROWS of a sherd. -/
def rowsOf (sherd : List Byte) : Nat := num sherd 2 2
/-- A slot is all-null (R274). -/
def allNull (rows : Nat) (slot : List Byte) : Bool := nullsOf slot == rows && rows < 0xFFFF

/-- The slot that is usable for a key (R274). -/
def usableSlot (sherd : List Byte) (key : Nat) : Option (List Byte) :=
  match ((List.range 3).map (slotOf sherd)).filter (fun t => encOf t != 0 && num t 0 1 == key) with
  | [t] =>
    let e := encOf t
    let lo := slice t 4 8
    let hi := slice t 12 8
    if 1 ≤ e && e ≤ 4 && num t 1 1 / 16 == 0 && nullsOf t ≤ rowsOf sherd &&
        (allNull (rowsOf sherd) t ||
          (decide (orderKey e lo ≤ orderKey e hi) && !(e == 3 && (isNan (leNat lo) || isNan (leNat hi))))) then some t
    else none
  | _ => none

/-! ## Terms (R278, R279) -/

/-- The 20 bytes of term `i`. -/
def termOf (pred : List Byte) (i : Nat) : List Byte := slice pred (8 + 20 * i) 20

/-- The term is FALSE (R279). -/
def termFalse (sherd term : List Byte) : Bool :=
  match usableSlot sherd (num term 0 1) with
  | none => false
  | some t =>
    let e := encOf t
    let lo := slice term 4 8
    let hi := slice term 12 8
    if e != encOf term then false
    else match num term 2 1 with
      | 0 =>
        if allNull (rowsOf sherd) t then true
        else if e == 3 && (isNan (leNat lo) || isNan (leNat hi)) then false
        else decide (orderKey e hi < orderKey e (slice t 4 8)) || decide (orderKey e (slice t 12 8) < orderKey e lo)
      | 1 => nullsOf t == 0
      | 2 => allNull (rowsOf sherd) t
      | _ => false

/-- The predicate is FALSE (R280). -/
def predFalse (pred sherd : List Byte) : Bool :=
  let n := num pred 1 1
  let terms := (List.range n).map (termOf pred)
  let f (t : List Byte) : Bool := termFalse sherd t
  let group (g : Nat) : List (List Byte) := terms.filter (fun t => num t 3 1 % 4 == g)
  if n = 0 ∨ 6 < n then false
  else match num pred 2 1 with
    | 0 => terms.any f
    | 1 => terms.all f
    | 2 => (List.range 4).any (fun g => !(group g).isEmpty && (group g).all f)
    | 3 => (List.range 4).all (fun g => (group g).isEmpty || (group g).any f)
    | _ => false

/-- The decision code (R284). -/
def decisionCode (outcome : Status) (pred sherd : List Byte) (a : BitVec 64) : Nat :=
  if outcome == .uncorrectable then 2
  else if outcome == .erasedPage then 3
  else if num sherd 8 4 != (Codec.addrCheck a 0).toNat then 4
  else if num sherd 0 1 != 1 then 5
  else if num pred 4 4 != 0 && num pred 4 4 != num sherd 4 4 then 6
  else if predFalse pred sherd then 1
  else 0

end Sys2Proof.Machine
end

