-- ==== Sys2Proof/Machine/Decoders.lean ====
section
/-! DEFINITION. The decoder pool (R206-R213) and the predicate decision (R281-R285). -/

namespace Sys2Proof.Machine

/-! ## Lanes -/

/-- Hard lanes in service, in order (R210). -/
def Dec.hardLanes (d : Dec) : List Nat :=
  (List.range 26).filter (fun l => (l < 24 || bit d.spareIn (l - 24)) && !bit d.hardOut l)
/-- Soft lanes in service. -/
def Dec.softLanes (d : Dec) : List Nat := (List.range 4).filter (fun l => !bit d.softOut l)
/-- BCH decoders in service. -/
def Dec.bchLanes (d : Dec) : List Nat := (List.range 2).filter (fun l => !bit d.bchOut l)

/-- HARD_LIMIT in force (R214). -/
def hardLimit (cfg : Word) : Nat := let n := fld cfg 0 5; if n = 0 then 1 else min n 24
/-- SOFT_LIMIT in force (R214). -/
def softLimit (cfg : Word) : Nat := let n := fld cfg 8 6; if n = 0 then 1 else min n 40

/-- The item that a decoder of a kind takes next, with its lane (R47, R209, R210): with no hard lane in service the soft
lanes serve both queues as one. -/
def Dec.nextStart (d : Dec) (kind : LaneKind) : Option (DecItem × Nat) :=
  let lane (base : Nat) (ls : List Nat) : Option Nat := (ls.map (base + ·)).find? (fun k => (SMap.get? d.busy k).isNone)
  let pick (item : Option DecItem) (l : Option Nat) : Option (DecItem × Nat) :=
    item.bind (fun i => l.map (fun l => (i, l)))
  match kind with
  | .hard => pick d.hardQ.head? (lane 0 d.hardLanes)
  | .soft =>
    let item := if d.hardLanes.isEmpty then
        (match d.hardQ.head?, d.softQ.head? with
         | some h, some t => if h.seq < t.seq then some h else some t
         | some h, none => some h
         | none, t => t)
      else d.softQ.head?
    pick item (lane 32 d.softLanes)
  | .bch => pick d.bchQ.head? (lane 64 d.bchLanes)

/-- DECODE_START (R209): the item keeps the limits in force now (R208). -/
def execDecodeStart (kind : LaneKind) (s : State) : Res :=
  match s.dec.nextStart kind with
  | none => .next s
  | some (i, lane) =>
    onlyIf s.live (fun s => s.onDec (fun d =>
      { d with hardQ := d.hardQ.filter (· != i), softQ := d.softQ.filter (· != i), bchQ := d.bchQ.filter (· != i),
               busy := SMap.set d.busy lane (i, d.cfg, d.llr) })) s

/-- A decoder's item leaves it. -/
def State.freeLane (lane : Nat) (s : State) : State := s.onDec (fun d => { d with busy := SMap.erase d.busy lane })

/-- Items that no decoder in service can take any more end UNCORRECTABLE (R210). -/
def State.orphans (s : State) : State :=
  let d := s.dec
  let soft := if d.softCount = 0 then d.softQ ++ (if d.hardCount = 0 then d.hardQ else []) else []
  let bch := if d.bchLanes.isEmpty then d.bchQ else []
  let s := s.onDec (fun d =>
    { d with softQ := d.softQ.filter (fun i => !soft.contains i), hardQ := d.hardQ.filter (fun i => !soft.contains i),
             bchQ := d.bchQ.filter (fun i => !bch.contains i) })
  let s := soft.foldl (fun (s : State) i =>
    match s.unit? i.ix with
    | some u => if u.gen = i.gen ∧ !ended u then (s.cwFails i.ix i.cw .uncorrectable).stepDone i.ix else s
    | none => s) s
  bch.foldl (fun (s : State) i =>
    match s.unit? i.ix with
    | some u => if u.gen = i.gen ∧ !ended u then s.sherdLost i.ix else s
    | none => s) s

/-- A decoder fault (R210, R217): the item goes back to the head of its queue, the decoder retires, the lowest-numbered
spare is due, MCHK rises. -/
def State.decoderFault (kind : LaneKind) (lane : Nat) (i : DecItem) (cause : DecCause) (s : State) : State :=
  let s := s.onDec (fun d =>
    let spare := ([24, 25] : List Nat).find? (fun l => !bit d.spareIn (l - 24) && !bit d.hardOut l && !d.spareDue.contains l)
    let d := if d.faultValid then d
      else { d with faultValid := true, faultLane := lane, faultCause := cause == .parity,
                    faultKind := match kind with
                      | .hard => 0
                      | .soft => 1
                      | .bch => 2 }
    let d := { d with faultCount := satInc 0xFF d.faultCount }
    let d := match kind with
      | .hard => { d with hardOut := d.hardOut ||| (1 <<< lane), spareDue := d.spareDue ++ spare.toList }
      | .soft => { d with softOut := d.softOut ||| (1 <<< lane) }
      | .bch => { d with bchOut := d.bchOut ||| (1 <<< lane) }
    if i.cw = 4 then { d with bchQ := i :: d.bchQ }
    else if i.soft then { d with softQ := i :: d.softQ }
    else { d with hardQ := i :: d.hardQ })
  (s.raise 0).orphans

/-- SPARE_LANE_IN_SERVICE (R210). -/
def execSpareLaneInService (lane : Nat) (s : State) : Res :=
  onlyIf (s.live && s.dec.spareDue.head? == some lane) (fun s => s.onDec (fun d =>
    { d with spareDue := d.spareDue.drop 1, spareIn := d.spareIn ||| (1 <<< (lane - 24)) })) s

/-! ## Codewords -/

/-- The codeword passes (R196, R208): its bytes stand in the peck, its tag is compared with the address read, and its data
goes out; its sense pecks, if it holds any, are released (R173). -/
def State.cwPasses (ix cw n : Nat) (data : List Byte) (s : State) : State :=
  match s.unit? ix with
  | none => s
  | some u =>
    let peck := if u.kind == .fold then u.pecks[4 * u.src + cw]? else s.peckOf ix cw
    let s := s.dropSense ix (some cw)
    let s := match peck with
      | some p => s.onPeck p (fun k =>
          { k with payload := overlay k.payload 0 (data.take 4104), iter := n, flags := k.flags ||| 8 })
      | none => s
    if num data 4096 4 ≠ (Codec.addrCheck (s.readAddr u) cw).toNat then
      (s.cwFails ix cw .tagMismatch).onDec (fun d => { d with tagCnt := d.tagCnt + 1 })
    else
      let s := s.onUnit ix (fun u =>
        { u with cwOk := u.cwOk ||| (1#4 <<< cw), pend := u.pend &&& ~~~(1#4 <<< cw) })
      let s := if u.step = 0 then s
        else s.onCal (fun c => if u.step = 16 then { c with softPass := c.softPass + 1 } else { c with refirePass := c.refirePass + 1 })
      match u.ctx, s.cmdOf u with
      | some ctx, some c =>
        if u.kind == .fold || u.kind == .patrol || u.kind == .internal then s
        else s.giveOut ctx ix cw (cwOffset c u cw) (data.take 4096) ((u.cwOk ||| (1#4 <<< cw)) == u.sel)
      | _, _ => s

/-- The channel values' source: the bytes of a codeword as they stand in its peck. -/
def State.cwBytes (s : State) (ix cw : Nat) : List Byte :=
  match s.unit? ix with
  | none => []
  | some u =>
    match (if u.kind == .fold then u.pecks[4 * u.src + cw]? else s.peckOf ix cw) with
    | some p => (s.peck p).payload
    | none => []

/-- Iterations of a step 0 decode join the quality figures of its sample (R238), which may not have been taken yet. -/
def State.addIters (ix : Nat) (gen : BitVec 16) (n : Nat) (s : State) : State :=
  (s.onUnit ix (fun u => { u with hardSum := u.hardSum + n, hardCws := u.hardCws + 1 })).onCal (fun c =>
    { c with samples := c.samples.map (fun p => if p.ix = ix ∧ p.gen = gen then { p with iters := p.iters + n, cws := p.cws + 1 } else p),
             quality := c.quality.map (fun e => (e.1, e.2.map (fun q =>
               if q.ix = ix ∧ q.gen = gen then { q with iters := q.iters + n, cws := q.cws + 1 } else q))) })

/-- A decode that reached its limit: the peck keeps the received bytes (R208). -/
def State.cwLimit (ix cw n : Nat) (s : State) : State :=
  match s.unit? ix with
  | none => s
  | some u =>
    match (if u.kind == .fold then u.pecks[4 * u.src + cw]? else s.peckOf ix cw) with
    | some p => s.onPeck p (fun k => { k with iter := n })
    | none => s

/-- The end of a hard decode (R206, R208, R225): it passes, or the codeword waits for the next step. -/
def State.hardEnd (lane : Nat) (i : DecItem) (cfg llr : Word) (s : State) : State :=
  let s := s.freeLane lane
  match s.unit? i.ix with
  | none => s.stale
  | some u =>
    if u.gen ≠ i.gen then s.stale
    else if ended u then s
    else
      let soft := 32 ≤ lane
      let (n, out) := Codec.decode (if soft then 127 else 31) (if soft then 255 else 63) (fld llr 24 3) (hardLimit cfg)
        (Codec.hardValues (fld llr 0 6) (pad 4584 (s.cwBytes i.ix i.cw)))
      let s := s.onDec (fun d =>
        { d with cwCnt := d.cwCnt + 1, iterAcc := d.iterAcc + BitVec.ofNat 32 n,
                 failCnt := if out.isNone then d.failCnt + 1 else d.failCnt })
      let s := s.onUnit i.ix (fun u => { u with iter := max u.iter n })
      let s := if u.step = 0 then s.addIters i.ix i.gen n else s
      match out with
      | some data => (s.cwPasses i.ix i.cw n data).stepDone i.ix
      | none =>
        ((s.cwLimit i.ix i.cw n).onUnit i.ix (fun u => { u with pend := u.pend &&& ~~~(1#4 <<< i.cw) })).stepDone i.ix

/-- HARD_DECODE_END (R208, R210): on a hard lane, or on a soft lane while no hard lane is in service. -/
def execHardDecodeEnd (kind : LaneKind) (lane : Nat) (fault : Option DecCause) (s : State) : Res :=
  let key := match kind with
    | .hard => lane
    | .soft => 32 + lane
    | .bch => 96
  match SMap.get? s.dec.busy key with
  | none => .next s
  | some (i, cfg, llr) =>
    onlyIf (s.live && !i.soft && i.cw < 4) (fun s =>
      match fault with
      | some cause => (s.freeLane key).decoderFault kind lane i cause
      | none => s.hardEnd key i cfg llr) s

/-- The end of a soft decode (R207, R227): the codeword's ladder ends with it, and its sense pecks are released. The
soft map is that of the step's beginning. -/
def State.softEnd (lane : Nat) (i : DecItem) (cfg llr : Word) (s : State) : State :=
  let s := s.freeLane lane
  match s.unit? i.ix with
  | none => s.stale
  | some u =>
    if u.gen ≠ i.gen then s.stale
    else if ended u then s
    else
      let sense (k : Nat) : List Byte := match (s.sensePecks i.ix i.cw)[k]? with
        | some p => pad 4584 (s.peck p).payload
        | none => zeros 4584
      let map (j : Nat) : Nat := fld u.softMap (4 * j) 3
      let mags (m : Nat) : Nat := if m = 0 then 0 else fld llr (6 * m) 6
      let (n, out) := Codec.decode 127 255 (fld llr 24 3) (softLimit cfg)
        (Codec.softValues map mags (sense 0) (pad 4584 (s.cwBytes i.ix i.cw)) (sense 1))
      let s := s.onDec (fun d => { d with softCnt := d.softCnt + 1 })
      let s := s.onUnit i.ix (fun u => { u with iter := max u.iter n, soft := true })
      match out with
      | some data => (s.cwPasses i.ix i.cw n data).stepDone i.ix
      | none => ((s.cwLimit i.ix i.cw n).cwFails i.ix i.cw .uncorrectable).stepDone i.ix

/-- SOFT_DECODE_END (R207, R208, R210). -/
def execSoftDecodeEnd (lane : Nat) (fault : Option DecCause) (s : State) : Res :=
  match SMap.get? s.dec.busy (32 + lane) with
  | none => .next s
  | some (i, cfg, llr) =>
    onlyIf (s.live && i.soft) (fun s =>
      match fault with
      | some cause => (s.freeLane (32 + lane)).decoderFault .soft lane i cause
      | none => s.softEnd (32 + lane) i cfg llr) s

/-! ## Sherds -/

/-- The end of a sherd decode (R213): the located bits, of payload and parity, are corrected where the sherd stands in its
peck. -/
def State.sherdEnd (lane : Nat) (i : DecItem) (s : State) : State :=
  let s := s.freeLane lane
  match s.unit? i.ix with
  | none => s.stale
  | some u =>
    if u.gen ≠ i.gen then s.stale
    else if ended u then s
    else
      let bytes := if u.kind == .fold then
          ((u.sherds.find? (fun q => q.1 == 4 + u.src)).map Prod.snd).getD []
        else match u.pecks.head? with
          | some p => (s.peck p).payload
          | none => []
      let out := if u.sherd == some .erasedPage then none else Codec.bchDecode (pad 96 bytes)
      let st : Status := if u.sherd == some .erasedPage then .erasedPage else if out.isSome then .ok else .uncorrectable
      let s := s.onDec (fun d =>
        { d with sherdCnt := if st = .ok then d.sherdCnt + 1 else d.sherdCnt,
                 sherdFail := if st = .uncorrectable then d.sherdFail + 1 else d.sherdFail })
      let s := match out, s.landing i.ix u 4 with
        | some good, some p =>
          if (s.peck p).kind = 1 then s.onPeck p (fun k => { k with payload := overlay k.payload 0 good }) else s
        | _, _ => s
      (s.onUnit i.ix (fun u => { u with sherd := some st })).sherdOutcome i.ix st ((out.getD []).take 72)

/-- SHERD_DECODE_END (R213, R210). -/
def execSherdDecodeEnd (lane : Nat) (fault : Option DecCause) (s : State) : Res :=
  match SMap.get? s.dec.busy (64 + lane) with
  | none => .next s
  | some (i, _, _) =>
    onlyIf (s.live && i.cw == 4) (fun s =>
      match fault with
      | some cause => (s.freeLane (64 + lane)).decoderFault .bch lane i cause
      | none => s.sherdEnd (64 + lane) i) s

/-! ## The decision -/

/-- A sherd of the unit is still on its way through a BCH decoder. -/
def Dec.sherdBusy (d : Dec) (ix : Nat) : Bool :=
  d.bchQ.any (fun i => i.ix == ix) || d.busy.any (fun e => e.2.1.ix == ix && e.2.1.cw == 4)

/-- The decision is taken (R284, R285, R292). -/
def State.decideScan (ix : Nat) (u : LUnit) (c : Cmd) (st : Status) (s : State) : State :=
  let sherd := match u.pecks.head? with
    | some p => (s.peck p).payload
    | none => []
  let pred := leBytes 128 ((c.pred.map BitVec.toNat).getD 0)
  let code := decisionCode st pred sherd u.addr
  let s := s.onHif (fun h =>
    { h with probes := h.probes + 1, skips := if code = 1 then h.skips + 1 else h.skips,
             forced := if 2 ≤ code then h.forced + 1 else h.forced, checks := if code = 4 then h.checks + 1 else h.checks })
  let s := s.onUnit ix (fun u =>
    { u with decided := true, dec := code, rows := if code ≤ 1 then BitVec.ofNat 16 (rowsOf sherd) else 0 })
  if code = 1 then (s.offDie ix).endUnder ix .skipped 0
  else
    let s := s.onUnit ix (fun u => { u with place := some true })
    if (s.chan (faChan u.addr)).fenced then (s.offDie ix).endUnder ix .channelFenced 0
    else
      let s := s.onUnit ix (fun u => { u with st := .data })
      match u.ctx with
      | some ctx => s.settle ctx
      | none => s

/-- PREDICATE_DECISION (R281, R284). -/
def execPredicateDecision (ix : Nat) (gen : BitVec 16) (s : State) : Res :=
  match s.unit? ix with
  | none => onlyIf (s.live && s.genOf ix != gen) State.stale s
  | some u =>
    if u.gen ≠ gen then onlyIf s.live State.stale s
    else match s.cmdOf u, u.sherd with
      | some c, some st =>
        onlyIf (s.going && s.probes u && u.st == .decoding && !s.dec.sherdBusy ix && !s.unitHeld u) (fun s => s.decideScan ix u c st) s
      | _, _ => .next s

end Sys2Proof.Machine
end

