-- ==== Sys2Proof/Machine/Cal.lean ====
section
/-! DEFINITION. The learner, the cone and patrol (08_calibration… R230-R242): samples, temperature readings, relearns,
CALIBRATE, patrol accruals and reads, PATROL_NOW, the host die temperature (R60, R260). -/

namespace Sys2Proof.Machine

/-! ## Learning -/

/-- The error e of a sample in parts per thousand, rounded with halves away from zero (R230). -/
def sampleError (p : Sample) : Int :=
  let x : Int := 2000 * (p.ones : Int) - 1000 * (p.n : Int)
  let y : Int := 2 * (p.n : Int)
  if 0 ≤ x then (2 * x + y) / (2 * y) else -((-2 * x + y) / (2 * y))

/-- ΔX of R232. -/
def learnDelta (pol e : Int) (gain : Nat) : Int :=
  -pol * (if e = 0 then 0 else if e < 0 then -1 else 1) * ((min 4 ((e.natAbs * gain + 32) / 64) : Nat) : Int)

/-- Move one learnt value, clamped to 8 bits (R222). -/
def learn (m : SMap Int) (k : Nat) (delta : Int) : SMap Int :=
  SMap.put 0 m k (clampInt (-128) 127 (SMap.getD m k 0 + delta))

/-- TRACK_EN (R243). -/
def Cal.track (c : Cal) : Bool := bit c.cfg 30
/-- CONV_PPT. -/
def Cal.conv (c : Cal) : Nat := fld c.cfg 24 4
/-- RELEARN_GAIN. -/
def Cal.relearnGain (c : Cal) : Nat := fld c.cfg 16 8
/-- TRACK_GAIN. -/
def Cal.trackGain (c : Cal) : Nat := fld c.cfg 8 8
/-- CONE_DELTA; 0 acts as 1. -/
def Cal.coneDelta (c : Cal) : Nat := max 1 (fld c.cfg 0 8)

/-- The accepted sample joins the LUN's quality figures (R238). -/
def Cal.keepQuality (p : Sample) (e : Int) (c : Cal) : Cal :=
  let q := SMap.getD c.quality p.lun [] ++ [{ ix := p.ix, gen := p.gen, e := e.natAbs, iters := p.iters, cws := p.cws }]
  { c with quality := SMap.put [] c.quality p.lun (q.drop (q.length - 8)) }

/-- T_CAL takes the latest reading (R236), clamped to 8 bits as every learnt value (R222). -/
def Cal.takeTCal (l : Nat) (c : Cal) : Cal :=
  { c with tCal := SMap.set c.tCal l (clampInt (-128) 127 (SMap.getD c.tNow l 0)) }

/-- A cone relearn ends by convergence: T keeps its value, T_CAL takes the latest reading (R236, R400). -/
def State.relearnConverged (l : Nat) (s : State) : State :=
  (s.onCal (fun c => { c.takeTCal l with relearns := SMap.erase c.relearns l })).autoSnapshot

/-- A cone relearn times out (R236, R246): T is restored, T_CAL takes the latest reading, source 9 rises. -/
def State.relearnTimedOut (l : Nat) (r : Relearn) (s : State) : State :=
  (s.onCal (fun c =>
    { c.takeTCal l with
             relearns := SMap.erase c.relearns l, t := SMap.put 0 c.t l r.saved,
             timeoutCount := satInc 0xFF c.timeoutCount, timeoutValid := true,
             timeoutLun := if c.timeoutValid then c.timeoutLun else l })).raise 9

/-- A foreground sample of a LUN under cone relearn (R232, R236). -/
def State.relearnSample (p : Sample) (e : Int) (r : Relearn) (s : State) : State :=
  let inBound := e.natAbs ≤ s.cal.conv
  let r := { r with count := r.count + 1, run := if inBound then r.run + 1 else 0 }
  let s := s.onCal (fun c =>
    { c with t := if inBound then c.t else learn c.t p.lun (learnDelta p.pol e c.relearnGain),
             relearns := SMap.set c.relearns p.lun r })
  if 8 ≤ r.run then s.relearnConverged p.lun
  else if 64 ≤ r.count then s.relearnTimedOut p.lun r
  else s

/-- The KIND 0 part of a CALIBRATE has converged (R237): reads not yet issued are not made; STATUS is that of its units (R99).
AUTO_SNAP makes a snapshot (R400). -/
def State.calConverged (ctx : Nat) (s : State) : State :=
  match s.cmd? ctx with
  | none => s
  | some c =>
    let both := ent c.raw 32 1 != 2 || c.trained
    let s := s.onCmd ctx (fun c =>
      { c with doneCount := some both.toNat, want := 0, stopped := true })
    let s := if s.hif.waiting = some ctx then s.onHif (fun h => { h with waiting := none }) else s
    let s := c.units.foldl (fun (s : State) ix =>
      match s.unit? ix with
      | some u => if unissued u then s.endUnit ix .done .ok 0 else s
      | none => s) s
    (s.settle ctx).autoSnapshot

/-- A sample of an internal read (R232, R237); `asked` counts the consecutive samples within CONV_PPT. After the end of
the relearn it changes nothing. -/
def State.internalSample (ctx : Nat) (p : Sample) (e : Int) (s : State) : State :=
  match s.cmd? ctx with
  | none => s
  | some c =>
    if c.doneCount.isSome || c.stage != 2 then s
    else
      let inBound := e.natAbs ≤ s.cal.conv
      let run := if inBound then c.asked + 1 else 0
      let s := (s.onCmd ctx (fun c => { c with asked := run })).onCal (fun k =>
        { k with d := if inBound then k.d else learn k.d (64 * p.lun + p.group) (learnDelta p.pol e k.relearnGain) })
      if 8 ≤ run then s.calConverged ctx else s

/-- A block-group relearn of a LUN is in progress (R237). -/
def State.groupRelearns (s : State) (l : Nat) : Bool :=
  s.ldg.cmds.any (fun e => e.2.op == .calibrate && e.2.stage == 2 && e.2.doneCount.isNone && e.2.cqPos.isNone &&
    e.2.whole.isNone && faInst (entAddr e.2.raw) == s.sys.instance_.toNat && faLun (entAddr e.2.raw) == l)

/-- Apply an accepted sample (R232). -/
def State.applySample (p : Sample) (s : State) : State :=
  let e := sampleError p
  let s := s.onCal (fun c => ({ c with sampleCnt := c.sampleCnt + 1 }).keepQuality p e)
  let tracked (s : State) : State :=
    s.onCal (fun c =>
      { c with d := if c.track then learn c.d (64 * p.lun + p.group) (learnDelta p.pol e c.trackGain) else c.d })
  match p.internal with
  | some ctx => s.internalSample ctx p e
  | none =>
    if p.patrol then tracked s
    else match SMap.get? s.cal.relearns p.lun with
      | some r => s.relearnSample p e r
      | none => if s.groupRelearns p.lun then s else tracked s

/-- SAMPLE_APPLY (R231-R233): the learner takes the oldest sample; one out of range is counted and changes nothing. -/
def execSampleApply (s : State) : Res :=
  match s.cal.samples with
  | [] => .next s
  | p :: rest =>
    onlyIf s.live (fun s =>
      let s := s.onCal (fun c => { c with samples := rest })
      let s := if p.inRange then s.applySample p else s.onCal (fun c => { c with rejectCnt := c.rejectCnt + 1 })
      match p.internal with
      | some ctx => s.settle ctx
      | none => s) s

/-! ## Temperature and the cone -/

/-- THM_DIE_T rounded to the nearest °C, halves upwards (R60, R234). -/
def dieDegrees (code : BitVec 10) : Int := ((code.toNat + 2) / 4 : Nat) - 40

/-- TEMPERATURE_READ_DUE (R157, R234): the next reading is placed, and the thread asks for GET_FEAT; a die type without
TEMP_FA takes the last valid THM_DIE_T. With TEMP_PERIOD = 0 the reading is not taken. -/
def execTemperatureReadDue (lun : Nat) (s : State) : Res :=
  match (s.lun lun).ev.temp with
  | none => .next s
  | some due =>
    s.onEvent lun (some due) (fun s =>
      let p := fld s.cal.temp 0 16
      let next := if p = 0 then none else some (s.event none (s.nextDue due (1000000 * p)))
      let s := s.onLun lun (fun t => { t with ev := { t.ev with temp := next } })
      match if p = 0 then none else dieOf s lun with
      | none => s
      | some d =>
        if d.tempFa ≠ 0 then s.onLun lun (fun t => { t with tempReq := true })
        else match s.cal.thmLast with
          | some code => s.onLun lun (fun t => { t with tempS := some (dieDegrees code) })
          | none => s)

/-- The patrol period in ns in force (R241): P, or ⌈P / 2⌉ while the LUN is hot. -/
def Patrol.periodNs (p : Patrol) : Nat := 1000000 * (if p.hot then (p.period + 1) / 2 else p.period)

/-- Patrol of a LUN becomes urgent (R240). -/
def State.urgentCheck (l : Nat) (s : State) : State :=
  let p := SMap.getD s.cal.patrol l Patrol.init
  if !p.urgent && p.limit < p.debt then
    (s.onCal (fun c => { c with patrol := SMap.on Patrol.init c.patrol l (fun p => { p with urgent := true }) })).raise 10
  else s

/-- A change between hot and cold (R241): the new limit applies at once, and the next accrual falls due one new period after
the last, or at the next tick. -/
def State.crossing (l : Nat) (hot : Bool) (s : State) : State :=
  let s := (s.onCal (fun c =>
    { c with patrol := SMap.on Patrol.init c.patrol l (fun p =>
        let p := { p with hot := hot }
        { p with urgent := p.urgent && p.limit / 2 < p.debt }) })).raise 11
  let p := SMap.getD s.cal.patrol l Patrol.init
  let due := p.last + BitVec.ofNat 64 p.periodNs
  let due := if s.reached due then s.after (1000 - s.time.ns.toNat % 1000) else due
  let s := s.onLun l (fun t =>
    { t with ev := { t.ev with patrol := t.ev.patrol.map (fun _ => s.event none due) } })
  s.urgentCheck l

/-- TEMPERATURE_READING (R234-R236, R241): T_NOW, a cone relearn, and the hot state. -/
def execTemperatureReading (lun : Nat) (t : Int) (s : State) : Res :=
  onlyIf (s.going && (s.lun lun).tempS == some t) (fun s =>
    let s := (s.onLun lun (fun u => { u with tempS := none })).onCal (fun c =>
      { c with tNow := SMap.set c.tNow lun t })
    let moved := match SMap.get? s.cal.tCal lun with
      | none => true
      | some c => s.cal.coneDelta < (t - c).natAbs
    let s := if bit s.cal.cfg 31 && moved && (SMap.get? s.cal.relearns lun).isNone then
        let r : Relearn := { saved := SMap.getD s.cal.t lun 0, count := 0, run := 0, start := s.time.ns }
        (s.onCal (fun c => { c with relearns := SMap.set c.relearns lun r })).raise 8
      else s
    let bound := (BitVec.ofNat 8 (fld s.cal.temp 16 8)).toInt
    let p := SMap.getD s.cal.patrol lun Patrol.init
    if !p.hot && bound ≤ t then s.crossing lun true
    else if p.hot && t < bound - 3 then s.crossing lun false
    else s) s

/-- RELEARN_TIMEOUT (R236): 5 ms of TIME_NS have passed since the relearn began. -/
def execRelearnTimeout (lun : Nat) (s : State) : Res :=
  match SMap.get? s.cal.relearns lun with
  | none => .next s
  | some r => onlyIf (s.live && s.passed r.start 5000000) (fun s => s.relearnTimedOut lun r) s

/-- The pair holds a channel that is in service and not fenced. -/
def State.pairRuns (s : State) (k : Nat) : Bool :=
  (s.pair k).inService && (!(s.chan (2 * k)).fenced || !(s.chan (2 * k + 1)).fenced)

/-- Training of a pair becomes pending, unless it is pending or training already (R257). -/
def State.askTraining (k : Nat) (s : State) : State :=
  if bit s.cal.pending k || bit s.cal.active k then s
  else s.onCal (fun c => { c with pending := c.pending ||| (1 <<< k) })

/-- The calibration code of a pair (R260), as its channels record it. -/
def State.pairCode (s : State) (k : Nat) : BitVec 10 :=
  let c := (s.phyOf (2 * k)).calCode
  if c = 0x3FF then (s.phyOf (2 * k + 1)).calCode else c

/-- THM_DIE_T_SAMPLE (R60, R260): a value is taken when two successive samples agree; at a valid one the pairs whose training a
warm reset has abandoned are pending again, and it is compared with the calibration code of every pair. A pair so triggered is a wake
event in Soak and Bank (R414). -/
def execThmDieTSample (code : BitVec 10) (s : State) : Res :=
  onlyIf s.awake (fun s =>
    let taken := s.cal.thm == code
    let s := s.onCal (fun c => { c with thm := code })
    if !taken || code == 0x3FF then s
    else
      let again := s.cal.again &&& ~~~s.cal.active
      let s := s.onCal (fun c => { c with thmLast := some code, pending := c.pending ||| again, again := 0 })
      let s := if again = 0 then s else s.wake 5
      if !bit s.cal.trainCfg 31 then s
      else
        let delta := max 1 (fld s.cal.trainCfg 16 8)
        (List.range 16).foldl (fun (s : State) k =>
          let old := s.pairCode k
          let far := 4 * delta < ((code.toNat : Int) - (old.toNat : Int)).natAbs
          if s.pairRuns k && old != 0x3FF && far && !bit s.cal.pending k && !bit s.cal.active k then
            ((s.askTraining k).raise 8).wake 5
          else s) s) s

/-! ## CALIBRATE -/

/-- The KIND 1 part of a CALIBRATE (R257, R260, R261): the command joins the pair's next or present training; on a fenced
channel it completes CHANNEL_FENCED. -/
def State.joinTraining (ctx : Nat) (s : State) : State :=
  match s.cmd? ctx with
  | none => s
  | some c =>
    let ch := faChan (entAddr c.raw)
    if (s.chan ch).fenced then (s.onCmd ctx (fun c => { c with whole := some .channelFenced })).settle ctx
    else
      let s := s.onCmd ctx (fun c => { c with stage := 1 })
      (s.askTraining (ch / 2)).onCal (fun k =>
        { k with joined := SMap.put [] k.joined (ch / 2) (SMap.getD k.joined (ch / 2) [] ++ [ctx]) })

/-- Begin a CALIBRATE of this instance. -/
def State.beginCalibrate (ctx : Nat) (fetching : Bool) (s : State) : State :=
  match s.cmd? ctx with
  | none => s
  | some c => if ent c.raw 32 1 = 0 then s.beginRelearn ctx fetching else s.joinTraining ctx

/-- A CALIBRATE or PATROL_NOW of another instance travels as one COMMAND frame under one unit entry (R353). -/
def State.beginRemote (ctx : Nat) (s : State) : State :=
  (s.onCmd ctx (fun c => { c with want := 1 })).onHif (fun h => { h with waiting := some ctx })

/-- CALIBRATE (R95, R237, R261, R314). -/
def execCalibrate (entry : BitVec 512) (ctx : List Nat) (s : State) : Res :=
  fetchedMeaning .calibrate entry ctx (fun c0 s =>
    if faInst (entAddr entry) = s.sys.instance_.toNat then s.beginCalibrate c0 true else s.beginRemote c0) s

/-! ## Patrol -/

/-- Patrol state of a LUN. -/
def State.patrol (s : State) (l : Nat) : Patrol := SMap.getD s.cal.patrol l Patrol.init
/-- Change the patrol state of a LUN. -/
def State.onPatrol (l : Nat) (f : Patrol → Patrol) (s : State) : State :=
  s.onCal (fun c => { c with patrol := SMap.on Patrol.init c.patrol l f })

/-- A LUN's patrol period P (R240, R248): patrol that was off begins with an accrual one period from now, and P = 0 takes
its event off the delay list. -/
def State.setPeriod (l : Nat) (n : Nat) (s : State) : State :=
  let s := s.onPatrol l (fun p => { p with period := n })
  if n = 0 then s.onLun l (fun t => { t with ev := { t.ev with patrol := none } })
  else if (s.lun l).ev.patrol.isNone ∧ (s.lun l).die.isSome then
    let due := s.after (s.patrol l).periodNs
    (s.onPatrol l (fun p => { p with last := s.time.ns })).onLun l (fun t =>
      { t with ev := { t.ev with patrol := some (s.event none due) } })
  else s

/-- PATROL_ACCRUAL (R240): one more patrol read is owed; the next accrual falls due one current period later. -/
def execPatrolAccrual (lun : Nat) (s : State) : Res :=
  match (s.lun lun).ev.patrol with
  | none => .next s
  | some due =>
    s.onEvent lun (some due) (fun s =>
      let s := s.onCal (fun c =>
        { c with patrol := SMap.on Patrol.init c.patrol lun (fun p =>
            if p.period = 0 then p else { p with debt := satInc 4095 p.debt, last := s.nextDue due 0 }) })
      let p := SMap.getD s.cal.patrol lun Patrol.init
      let next := if p.period = 0 then none else some (s.event none (s.nextDue due p.periodNs))
      (s.onLun lun (fun t => { t with ev := { t.ev with patrol := next } })).urgentCheck lun)

/-- The (block, plane) at or after a place in patrol order that patrol does not pass over, and whether it is the place
itself (R239). -/
def State.patrolPlace (s : State) (d : DieType) (lun block plane : Nat) : Option ((Nat × Nat) × Bool) :=
  let n := d.blocks * d.planes
  let start := block * d.planes + plane
  (rrFind n start (fun i =>
    let a := mkFa 0 lun (i % d.planes) (i / d.planes) 0
    !s.isWaster a && !s.isCrazed a)).map (fun i => ((i / d.planes, i % d.planes), i == start))

/-- The next page of the cursor, and the cursor behind it (R239): pages, then planes, then blocks. -/
def State.patrolNext (s : State) (d : DieType) (lun : Nat) (p : Patrol) : Option (BitVec 64 × Patrol) :=
  (s.patrolPlace d lun p.block p.plane).map (fun q =>
    let page := if q.2 then p.page else 0
    let b := q.1.1
    let l := q.1.2
    let next := if page + 1 < d.pages then { p with block := b, plane := l, page := page + 1 }
      else if l + 1 < d.planes then { p with block := b, plane := l + 1, page := 0 }
      else { p with block := (b + 1) % max 1 d.blocks, plane := 0, page := 0 }
    (mkFa s.sys.instance_.toNat lun l b page, next))

/-- The oldest PATROL_NOW of a LUN that has reads still to issue (R96). -/
def State.patrolNowOf (s : State) (lun : Nat) : Option Nat :=
  ((s.ldg.cmds.filter (fun e => e.2.op == .patrolNow && e.2.whole.isNone && !e.2.stopped && e.2.cqPos.isNone &&
      faInst (entAddr e.2.raw) == s.sys.instance_.toNat && faLun (entAddr e.2.raw) == lun &&
      e.2.units.length < entCount e.2.raw)).foldl (fun (b : Option (Nat × Cmd)) e =>
    match b with
    | some a => if e.2.seq < a.2.seq then some e else some a
    | none => some e) none).map Prod.fst

/-- PATROL_READ_LINK (R96, R239, R240, R314): for a PATROL_NOW whatever is owed; otherwise while reads are owed and P is not 0, and while
patrol is not urgent only behind empty lists and an idle die. A LUN with no page to patrol ends its PATROL_NOW. -/
def execPatrolReadLink (lun ix : Nat) (s : State) : Res :=
  match dieOf s lun with
  | none => .next s
  | some d =>
    let p := SMap.getD s.cal.patrol lun Patrol.init
    let t := s.lun lun
    let cmd := s.patrolNowOf lun
    let idle := t.readQ.isEmpty && t.orderQ.isEmpty && t.free
    onlyIf (s.going && dieBushel d && !p.outstanding && s.isFree ix &&
        (cmd.isSome || (p.period != 0 && 1 ≤ p.debt && (p.urgent || idle)))) (fun s =>
      match s.patrolNext d lun p with
      | none =>
        match cmd with
        | some ctx => (s.onCmd ctx (fun c => { c with stopped := true })).settle ctx
        | none => s
      | some (a, next) =>
        let pos := match cmd.bind s.cmd? with
          | some c => c.units.length
          | none => 0
        let s := s.onCal (fun c => { c with patrol := SMap.put Patrol.init c.patrol lun { next with outstanding := true } })
        let s := (s.takeUnit ix .patrol cmd pos a 0xF).onUnit ix (fun u => { u with urgent := p.urgent })
        s.tryLink ix) s

/-- PATROL_NOW (R96): its reads are linked one behind the other (PATROL_READ_LINK). -/
def execPatrolNow (entry : BitVec 512) (ctx : List Nat) (s : State) : Res :=
  fetchedMeaning .patrolNow entry ctx (fun c0 s =>
    if faInst (entAddr entry) = s.sys.instance_.toNat then s else s.beginRemote c0) s

end Sys2Proof.Machine
end

