-- ==== Sys2Proof/Machine/RegMap.lean ====
section
/-! DEFINITION. The register map (18_register_map.md): what each offset reads as, block by block. Reads with side effects
and writes are in Hcp.lean. -/

namespace Sys2Proof.Machine

/-- The low 32 bits of a number, as a register word. -/
abbrev lo32 (n : Nat) : Word := BitVec.ofNat 32 n
/-- The next 32 bits. -/
abbrev hi32 (n : Nat) : Word := BitVec.ofNat 32 (n / 2 ^ 32)
/-- Offset `o` of a pair of registers, the low word at `base`. -/
abbrev half (o base n : Nat) : Word := if o = base then lo32 n else hi32 n
/-- A signed byte in a register field. -/
def byteOf (x : Int) : Nat := (BitVec.ofInt 8 x).toNat
/-- A signed value in ns, saturating at ±(2^31 − 1) (R433). -/
def satWord (x : Int) : Word := BitVec.ofInt 32 (clampInt (-(2 ^ 31 - 1)) (2 ^ 31 - 1) x)

/-- HIF_STATUS.QUIESCED (R111). -/
def State.quiesced (s : State) : Bool := !bit s.hif.cfg 0 && s.hif.cycle.isNone && s.hif.fetch.isNone

/-- A fetch waits for a FREE ledger entry (R111, R314): for the unit entries of its command, or for five context entries. -/
def State.fetchStalls (s : State) : Bool :=
  s.hif.waiting.isSome || (s.hif.fetch.isSome && 131072 < s.inUse + 5)

/-- HIF block (R4, R5, R110-R116, R292, R450). -/
def State.readHif (s : State) (o : Nat) : Word :=
  let h := s.hif
  if o = 0x00 then 0x00030100
  else if o = 0x04 then
    word32 [(16, 0x7A0B), (12, s.sys.tgtPers.toNat), (11, s.sys.idSrc.toNat), (0, s.sys.instance_.toNat)]
  else if o = 0x08 then h.cfg
  else if o = 0x0C then
    word32 [(16, h.restart.toNat), (2, s.fetchStalls.toNat), (1, s.quiesced.toNat), (0, h.ready.toNat)]
  else if o = 0x10 ∨ o = 0x14 then half o 0x10 h.ringTable.toNat
  else if o = 0x18 ∨ o = 0x1C then half o 0x18 h.db.toNat
  else if o = 0x20 ∨ o = 0x24 then half o 0x20 h.predBase.toNat
  else if o = 0x28 then lo32 h.poll.toNat
  else if o = 0x2C then word32 [(31, h.cmdBusy.toNat), (30, h.cmdErr.toNat), (0, h.cmdRing.toNat)]
  else if o = 0x34 then word32 [(31, h.faultValid.toNat), (16, h.faultKind.toNat), (0, h.faultRing.toNat)]
  else if o = 0x38 ∨ o = 0x3C then half o 0x38 h.faultAddr.toNat
  else if o = 0x40 then h.probes
  else if o = 0x44 then h.skips
  else if o = 0x48 then h.forced
  else if o = 0x4C then h.checks
  else 0

/-- The mask of output `n` (R444). -/
def Irq.mask (q : Irq) (n : Nat) : BitVec 64 :=
  if n = 0 then q.mask0 else if n = 1 then q.mask1 else if n = 2 then q.mask2 else q.mask3

/-- The lowest-numbered source that is pending and unmasked for output `n` (R437). -/
def Irq.top (q : Irq) (n : Nat) : Option Nat := (bitsOf 58 (q.pend &&& ~~~q.mask n).toNat).head?

/-- INT_OUT[n] (R437). -/
def Irq.out (q : Irq) (n : Nat) : Bool := (q.top n).isSome

/-- IRQ block (R443-R446, R451). -/
def State.readIrq (s : State) (o : Nat) : Word :=
  let q := s.irq
  if o = 0x00 ∨ o = 0x04 then half o 0x00 q.pend.toNat
  else if 0x10 ≤ o ∧ o < 0x30 then
    half (o % 8) 0 (q.mask ((o - 0x10) / 8)).toNat
  else if 0x30 ≤ o ∧ o < 0x40 then
    match q.top ((o - 0x30) / 4) with
    | some n => lo32 n
    | none => 0x80000000
  else if o = 0x40 then lo32 (match q.wakeEnNext with
    | some (v, _) => v.toNat
    | none => q.wakeEn.toNat)
  else 0

/-- PWR block (R427-R430, R452); STATE reads 0 over the HCP. -/
def State.readPwr (s : State) (o : Nat) : Word :=
  let p := s.pwr
  if o = 0x00 then word32 [(28, p.padHeld.toNat), (16, p.wakeCause.toNat)]
  else if o = 0x04 then p.cfg
  else if o = 0x08 then lo32 p.idle0.toNat
  else if o = 0x0C then lo32 p.idle1.toNat
  else if o = 0x10 then lo32 p.idle2.toNat
  else if o = 0x14 then lo32 p.idle3.toNat
  else if o = 0x1C then word32 [(28, p.abortUnit.toNat), (0, p.abortCnt.toNat)]
  else 0

/-- TIME block (R36, R37, R431-R433, R453). -/
def State.readTime (s : State) (o : Nat) : Word :=
  let t := s.time
  if o = 0x00 then lo32 t.ns.toNat
  else if o = 0x04 then hi32 t.capNs.toNat
  else if o = 0x08 then lo32 t.aon.toNat
  else if o = 0x0C then hi32 t.capAon.toNat
  else if o = 0x10 ∨ o = 0x14 then half o 0x10 t.alarm.toNat
  else if o = 0x18 then word32 [(31, t.fired.toNat), (0, t.arm.toNat)]
  else if o = 0x1C then t.cfg
  else if o = 0x20 then satWord t.offset
  else if o = 0x24 then satWord t.slew
  else if o = 0x40 then word32 [(31, t.paceValid.toNat), (0, if t.paceValid then t.pacePs.toNat else 0xC80)]
  else if o = 0x44 then word32 [(16, t.paceMax.toNat), (0, t.paceMin.toNat)]
  else 0

/-- NEXT of a unit entry (R315): the entry behind it on its list. -/
def State.nextOf (s : State) (ix : Nat) (u : LUnit) : Nat :=
  let l := s.lun (faLun u.addr)
  let q := if u.order then l.orderQ else l.readQ
  match (q.dropWhile (· != ix)).tail.head? with
  | some n => n
  | none => 0x1FFFF

/-- A unit entry's 128 bits (R315). -/
def State.unitBits (s : State) (ix : Nat) (u : LUnit) : BitVec 128 :=
  BitVec.ofNat 128
    (u.st.code ||| u.gen.toNat <<< 4 ||| u.kind.code <<< 20 ||| (u.ctx.getD 0) <<< 24 ||| s.nextOf ix u <<< 41 |||
      fld u.addr 14 39 <<< 58 ||| u.cwOk.toNat <<< 97 ||| (u.dec % 8) <<< 101 ||| (u.step % 32) <<< 104 |||
      u.conf.toNat <<< 109 ||| u.replayed.toNat <<< 110 ||| u.urgent.toNat <<< 111 ||| (u.passes % 32) <<< 112 |||
      u.order.toNat <<< 117 ||| u.merged.toNat <<< 118 ||| (u.iter % 64) <<< 119)

/-- A READ_STREAM has pages still to be admitted (R125, R127): its context entry then shows FETCHED although every unit entry it
has taken so far has ended (R316). -/
def State.streamOpen (s : State) (ix : Nat) (c : Cmd) : Bool :=
  c.op == .readStream && c.origin.isNone && c.whole.isNone && !c.stopped &&
    (match s.stream? ix with
     | some t => t.left != 0
     | none => true)

/-- What LDG_PEEK_DATA shows of an entry (R343); a command's first context entry shows FETCHED while the command is open
(R316). -/
def State.entryBits (s : State) (ix : Nat) : BitVec 128 :=
  match s.unit? ix with
  | some u => s.unitBits ix u
  | none =>
    match s.cmd? ix with
    | some c => BitVec.ofNat 128 ((if c.cqPos.isSome || (s.unitsEnded c && s.opDone c && !s.streamOpen ix c) then 8 else 1) ||| c.gen.toNat <<< 4)
    | none => if s.isFree ix then BitVec.ofNat 128 ((s.genOf ix).toNat <<< 4) else 0

/-- The recovery record at an index (R342): whether it is a torn one, and its place. -/
def Ldg.recov (l : Ldg) (i : Nat) : Option (Bool × Loc) :=
  if i < l.recovCrazed.length then (l.recovCrazed[i]?).map (fun x => (false, x))
  else (l.recovTorn[i - l.recovCrazed.length]?).map (fun x => (true, x))

/-- LDG block (R339-R343, R454). -/
def State.readLdg (s : State) (o : Nat) : Word :=
  let l := s.ldg
  if o = 0x00 then word32 [(31, l.halted.toNat), (30, l.replaying.toNat), (0, s.inUse)]
  else if o = 0x04 then l.replayCnt
  else if o = 0x08 then l.unknownCnt
  else if o = 0x0C then l.staleCnt
  else if o = 0x10 then word32 [(31, l.faultValid.toNat), (17, l.corr), (0, l.faultIndex)]
  else if o = 0x14 then word32 [(31, (l.wasterFull || 65536 ≤ l.wasters.length).toNat), (17, l.nvRecords), (0, l.wasters.length)]
  else if o = 0x18 then lo32 l.crazed.length
  else if o = 0x1C then word32 [(25, l.overflow), (16, l.recovTorn.length), (0, l.recovCrazed.length)]
  else if o = 0x20 then lo32 l.recovSel.toNat
  else if o = 0x24 then
    match l.recov l.recovSel.toNat with
    | some (k, x) => word32 [(31, 1), (27, k.toNat), (11, x.block), (9, x.plane), (0, x.lun)]
    | none => 0
  else if o = 0x28 then
    match l.recov l.recovSel.toNat with
    | some (k, x) => if k then lo32 x.page else 0
    | none => 0
  else if o = 0x2C then lo32 l.peek.toNat
  else if o = 0x30 then lo32 (fld (s.entryBits (fld l.peek 0 17)) (32 * fld l.peek 17 2) 32)
  else 0

/-- The 24 bytes of a slot header (R171). -/
def Peck.header (k : Peck) : List Byte :=
  leBytes 2 k.length ++ leBytes 1 k.kind ++ leBytes 1 k.flags.toNat ++ leBytes 4 k.entry ++ leBytes 2 k.gen.toNat ++
    leBytes 1 k.cw ++ leBytes 1 k.chan ++ leBytes 1 k.iter ++ leBytes 1 k.step ++ zeros 2 ++ leBytes 8 k.addr.toNat

/-- POOL block (R186-R191, R455). -/
def State.readPool (s : State) (o : Nat) : Word :=
  let p := s.pool
  if o = 0x00 then word32 [(24, p.softFree), (12, p.sharedFree), (0, p.free)]
  else if o = 0x04 then lo32 s.foldsOpen
  else if o = 0x08 then lo32 p.sharedMin
  else if o = 0x0C then p.waitCnt
  else if o = 0x10 then p.underrun
  else if o = 0x14 then
    word32 [(31, p.qerrValid.toNat), (30, p.qerrDir.toNat), (29, p.qerrPtr.toNat), (16, p.qerrCount), (0, p.qerrCh)]
  else if o = 0x18 then word32 [(31, (!p.flushAsk.isEmpty).toNat), (0, p.flushCh.toNat)]
  else if o = 0x1C then p.peek
  else if o = 0x20 then
    if fld p.peek 16 3 < 6 then lo32 (num (s.peck (fld p.peek 0 11)).header (4 * fld p.peek 16 3) 4) else 0
  else if 0x40 ≤ o ∧ o < 0xC0 then
    let c := (o - 0x40) / 4
    word32 [(16, SMap.getD p.peaks c 0), (0, p.held c)]
  else 0

/-- Spare lanes not yet in service. -/
def Dec.spares (d : Dec) : List Nat := ([24, 25] : List Nat).filter (fun l => !bit d.spareIn (l - 24) && !bit d.hardOut l)

/-- DEC block (R214-R218, R456). -/
def State.readDec (s : State) (o : Nat) : Word :=
  let d := s.dec
  if o = 0x00 then d.cfg
  else if o = 0x04 then d.llr
  else if o = 0x08 then
    word32 [(16, d.bchLanes.length), (12, d.softLanes.length), (8, d.spares.length), (0, d.hardLanes.length)]
  else if o = 0x0C then word32 [(30, d.bchOut.toNat), (26, d.softOut.toNat), (0, d.hardOut.toNat)]
  else if o = 0x10 then
    word32 [(31, d.faultValid.toNat), (29, d.faultKind.toNat), (28, d.faultCause.toNat), (16, d.faultLane),
            (0, d.faultCount)]
  else if o = 0x14 then d.cwCnt
  else if o = 0x18 then d.iterSum
  else if o = 0x1C then d.failCnt
  else if o = 0x20 then d.softCnt
  else if o = 0x24 then d.erasedCnt
  else if o = 0x28 then d.tagCnt
  else if o = 0x2C then d.sherdCnt
  else if o = 0x30 then d.sherdFail
  else 0

/-- A mean in 1/16: 16 × sum / count, rounded either way where it is no whole number (log 14). -/
def mean16 (sum count : Nat) : Nat :=
  if count = 0 then 0
  else 16 * sum / count + (if 16 * sum % count ≠ 0 ∧ Config.meanRoundsUp sum count then 1 else 0)

/-- RESID and ITER_MEAN of a LUN (R238). -/
def Cal.qual (c : Cal) (l : Nat) : Nat × Nat :=
  let q := SMap.getD c.quality l []
  (mean16 (q.map Qual.e).sum q.length, mean16 (q.map Qual.iters).sum (q.map Qual.cws).sum)

/-- CAL block (R243-R250, R266, R267, R457). A T_NOW above 127 °C does not fit its field: DESIGN CHOICE (log 138), its low byte is
shown. -/
def State.readCal (s : State) (o : Nat) : Word :=
  let c := s.cal
  let l := fld c.sel 0 9
  if o = 0x00 then c.cfg
  else if o = 0x04 then c.temp
  else if o = 0x08 then c.recovery
  else if o = 0x0C then c.softMap
  else if o = 0x10 then lo32 c.relearns.length
  else if o = 0x14 then word32 [(31, c.timeoutValid.toNat), (16, c.timeoutCount), (0, c.timeoutLun)]
  else if o = 0x18 then lo32 c.sel.toNat
  else if o = 0x1C then
    word32 [(24, byteOf (SMap.getD c.tCal l 0)), (16, byteOf (SMap.getD c.tNow l 0)), (8, byteOf (SMap.getD c.t l 0)),
            (0, byteOf (SMap.getD c.d (64 * l + fld c.sel 9 6) 0))]
  else if o = 0x20 then
    word32 [(31, ((SMap.get? c.relearns l).isSome || s.groupRelearns l).toNat), (16, (c.qual l).1), (0, (c.qual l).2)]
  else if o = 0x24 then c.patrolCfg
  else if o = 0x28 then lo32 c.patrolSel.toNat
  else if o = 0x2C then
    let p := s.patrol c.patrolSel.toNat
    word32 [(31, p.urgent.toNat), (30, p.hot.toNat), (16, p.debt), (0, p.period)]
  else if o = 0x30 then word32 [(31, c.logValid.toNat), (29, c.logReason.toNat), (0, c.logCount)]
  else if o = 0x34 ∨ o = 0x38 then half o 0x34 c.logAddr.toNat
  else if o = 0x3C then c.sampleCnt
  else if o = 0x40 then c.rejectCnt
  else if o = 0x44 then c.refirePass
  else if o = 0x48 then c.softPass
  else if o = 0x4C then c.uncorr
  else if o = 0x80 then c.trainCfg
  else if o = 0x84 then word32 [(16, c.pending.toNat), (0, c.active.toNat)]
  else if o = 0x88 then
    word32 [(31, c.failValid.toNat), (29, c.failCause.toNat), (24, c.failRate), (16, c.failCount), (5, c.failBoth.toNat),
            (0, c.failCh)]
  else if o = 0x8C then c.trainCnt
  else 0

/-- The die of a LUN runs an operation, a RAW's schedule among them, or holds one suspended (R142, R166). -/
def Lun.busy (l : Lun) : Bool := l.op.isSome || l.rd.isSome || l.cache.isSome || l.rawOpen.isSome

/-- Bits of the 16 threads of channel `c` that satisfy `p`. -/
def State.threadBits (s : State) (c : Nat) (p : Lun → Bool) : Nat :=
  ((List.range 16).map (fun t => if p (s.lun (16 * c + t)) then 2 ^ t else 0)).sum

/-- Entries linked on a thread's die queue, saturated at 0xFFFF (R169). -/
def State.queueDepth (s : State) (l : Nat) : Nat := min 0xFFFF ((s.lun l).readQ.length + (s.lun l).orderQ.length)

/-- CHE block of channel `c` (R165-R169, R458). -/
def State.readChe (s : State) (c o : Nat) : Word :=
  let e := s.chan c
  if o = 0x00 then e.cfg
  else if o = 0x04 then
    word32 [(31, e.fenced.toNat), (29, e.pers.toNat), (8, s.foldsOn c), (0, popCount 16 (s.threadBits c Lun.busy))]
  else if o = 0x08 then
    word32 [(16, s.threadBits c (fun l => l.op.any ArrayOp.suspended)), (0, if (List.range 16).any (fun k => (s.lun (16 * c + k)).die.isSome && !(s.lun (16 * c + k)).checked) then 0xFFFF
                 else s.threadBits c Lun.absent)]
  else if o = 0x0C then e.suspCnt
  else if o = 0x10 then e.mergeCnt
  else if o = 0x14 then e.promoteCnt
  else if o = 0x18 then e.busy
  else if 0x40 ≤ o ∧ o < 0x60 then
    let l := 16 * c + (o - 0x40) / 4 * 2
    word32 [(16, s.queueDepth (l + 1)), (0, s.queueDepth l)]
  else 0

/-- PHY block of channel `c` (R268-R270, R459). -/
def State.readPhy (s : State) (c o : Nat) : Word :=
  let p := s.phyOf c
  let tap (l : List Nat) (d : Nat) : Nat := (l[d]?).getD 0x40
  if o = 0x00 then
    word32 [(29, p.rate), (28, p.trained.toNat), (16, p.calCode.toNat), (8, p.tapStep.toNat)]
  else if o = 0x04 then word32 [(24, p.rdVref.toNat), (16, p.wrVref.toNat), (8, p.dcc.toNat), (0, p.dqsTap.toNat)]
  else if o = 0x08 then p.retrain
  else if 0x10 ≤ o ∧ o < 0x30 then (p.eyes[(o - 0x10) / 4]?).getD 0
  else if 0x30 ≤ o then
    let k := (o - 0x30) / 4
    word32 [(24, tap p.wrTaps (2 * k + 1)), (16, tap p.rdTaps (2 * k + 1)), (8, tap p.wrTaps (2 * k)),
            (0, tap p.rdTaps (2 * k))]
  else 0

/-- SCHED block (R310-R313, R460). -/
def State.readSched (s : State) (o : Nat) : Word :=
  let c := s.sched
  if o = 0x00 then c.version
  else if o = 0x04 then
    word32 [(31, c.loaded.toNat), (30, c.slot.toNat), (29, (!c.reloading.isEmpty).toNat), (8, min 0xFF c.broken.length),
            (0, c.perrCount)]
  else if o = 0x08 then lo32 c.grantMax.toNat
  else if o = 0x0C then word32 [(31, c.perrValid.toNat), (21, c.perrThread), (16, c.perrCh), (0, c.perrStep)]
  else if o = 0x10 then
    word32 [(31, c.faultValid.toNat), (30, c.faultCause.toNat), (21, c.faultThread), (16, c.faultCh), (0, c.faultStep)]
  else if o = 0x14 then c.peek
  else if o = 0x18 then
    let e := SMap.getD c.store (fld c.peek 0 13) (0, 0)
    if fld c.peek 16 3 < 5 then lo32 (fld e.1 (32 * fld c.peek 16 3) 32)
    else if fld c.peek 16 3 = 5 then lo32 e.2.toNat else 0
  else if o = 0x1C then c.reloadCnt
  else 0

/-- Code of a link state (R371). -/
def LinkState.code : LinkState → Nat
  | .down => 0
  | .bringing => 1
  | .up => 2
  | .hold => 3
  | .mismatch => 4

/-- RLY block (R369-R371, R461). -/
def State.readRly (s : State) (o : Nat) : Word :=
  let r := s.rly
  if o = 0x00 then r.cfg
  else if o = 0x04 then r.event
  else if o = 0x08 then lo32 r.routeSel.toNat
  else if o = 0x0C then lo32 (SMap.getD r.routes r.routeSel.toNat 0).toNat
  else if o = 0x10 then r.boot
  else if o = 0x14 then lo32 (s.ldg.units.countP (fun u => u.2.st == .parked))
  else if o = 0x18 then lo32 (r.links.map (fun l => l.2.log.length)).sum
  else if o = 0x1C then r.retryCnt
  else if o = 0x20 then r.crcCnt
  else if o = 0x24 then r.lostCnt
  else if o = 0x28 then r.resumeCnt
  else if 0x80 ≤ o ∧ o < 0x100 then
    match SMap.get? r.links ((o - 0x80) / 4) with
    | some l =>
      word32 [(31, 1), (29, if l.target then 2 else 1), (27, Nat.log2 l.size), (24, l.st.code), (16, l.mask.toNat),
              (15, l.resumed.toNat), (0, l.partner.toNat)]
    | none => 0
  else 0

/-- SPM block (R404, R405, R462). -/
def State.readSpm (s : State) (o : Nat) : Word :=
  let m := s.spm
  if o = 0x00 then
    word32 [(31, m.booted.toNat), (30, m.bootFail.toNat), (29, m.xipReady.toNat), (28, m.slot.toNat), (27, m.validB.toNat),
            (26, m.validA.toNat), (25, m.openKept.toNat), (24, m.noSuspend.toNat), (22, m.mode), (8, m.sckDiv)]
  else if o = 0x04 then m.genA
  else if o = 0x08 then m.genB
  else if o = 0x0C then word32 [(31, m.xipErr.toNat), (12, m.xipBase.toNat)]
  else if o = 0x10 then lo32 m.opAddr.toNat
  else if o = 0x14 then m.opLen
  else if o = 0x18 ∨ o = 0x1C then half o 0x18 m.opBuf.toNat
  else if o = 0x20 then word32 [(31, m.opBusy.toNat), (8, m.opSlot.toNat)]
  else if o = 0x24 then word32 [(31, m.opDone.toNat), (28, m.opResult), (0, m.progress)]
  else if o = 0x28 then m.suspCnt
  else 0

/-- NVS block (R406, R407, R463). -/
def State.readNvs (s : State) (o : Nat) : Word :=
  let n := s.nvs
  if o = 0x00 then
    word32 [(31, n.scanned.toNat), (30, (n.snapWant || n.snapping.isSome).toNat), (29, n.snapSlot.toNat),
            (28, n.snapValid.toNat), (0, n.sparesLeft)]
  else if o = 0x04 then
    word32 [(31, n.faultValid.toNat), (28, n.faultRegion.toNat), (16, n.faultCount), (0, n.faultLine)]
  else if o = 0x08 then n.snapGen
  else if o = 0x0C then n.markHead
  else if o = 0x10 then lo32 n.opens.length
  else if o = 0x14 then n.cfg
  else if o = 0x18 then n.writeCnt
  else 0

/-- The members: a settled instance counts itself (R366). -/
def State.pspMembers (s : State) : List Nat :=
  (if s.psp.settled then [s.sys.instance_.toNat] else []) ++ s.psp.members.map Prod.fst

/-- PSP block (R372, R373, R464). -/
def State.readPsp (s : State) (o : Nat) : Word :=
  let p := s.psp
  if o = 0x00 then p.cfg
  else if o = 0x04 then
    word32 [(31, p.settled.toNat), (30, p.synced.toNat), (29, p.source.toNat), (16, p.sourceId.toNat),
            (0, s.pspMembers.length)]
  else if o = 0x08 then p.epoch
  else if o = 0x0C then word32 [(16, p.lastId.toNat), (2, p.evEpoch.toNat), (1, p.evLeft.toNat), (0, p.evJoined.toNat)]
  else if o = 0x10 then p.crcCnt
  else if 0x40 ≤ o ∧ o < 0x140 then
    let k := (o - 0x40) / 4
    lo32 ((s.pspMembers.filter (fun m => m / 32 == k)).map (fun m => 2 ^ (m % 32))).sum
  else 0

/-- Direction, WHAT and address of a failed chain access (R138). -/
def failedView : Failed → Bool × Nat × Nat
  | .rd r =>
    (false, (match r.what with
      | .seg _ => 1
      | .link _ => 1
      | .cons _ => 3
      | _ => 0), r.addr)
  | .wr w =>
    (true, (match w.what with
      | .segStatus _ _ => 2
      | .segFlags _ _ => 2
      | .stream _ => 3
      | .bitmap _ => 3
      | _ => 0), w.addr)

/-- The halted chain shown by DMA_FAULT (R130, R138): its command and its first failed access. -/
def State.shownFault (s : State) : Option (Cmd × Bool × Nat × Nat) :=
  match s.dma.haltQ.head? with
  | none => none
  | some ctx =>
    match s.cmd? ctx, (SMap.get? s.dma.chains ctx).bind (fun h => h.failed.head?) with
    | some c, some f => some (c, failedView f)
    | _, _ => none

/-- DMA block (R137-R140, R465). DMA_FAULT and its address, and DMA_LEG_FADDR, read 0 while no chain is halted (log 47, log
107). -/
def State.readDma (s : State) (o : Nat) : Word :=
  let d := s.dma
  if o = 0x00 then lo32 d.disable.toNat
  else if o = 0x04 then
    match s.shownFault with
    | some (c, dir, what, _) => word32 [(31, 1), (30, dir.toNat), (28, what), (16, c.sq), (0, entCmdId c.raw)]
    | none => lo32 ((!d.haltQ.isEmpty).toNat <<< 31)
  else if o = 0x08 then (match s.shownFault with
    | some (_, _, _, a) => lo32 a
    | none => 0)
  else if o = 0x0C then (match s.shownFault with
    | some (_, _, _, a) => hi32 a
    | none => 0)
  else if o = 0x10 then lo32 (min 0xFFFF d.haltQ.length)
  else if o = 0x14 then d.bytesWr
  else if o = 0x18 then d.bytesRd
  else if o = 0x40 ∨ o = 0x44 then half o 0x40 d.leg.src.toNat
  else if o = 0x48 ∨ o = 0x4C then half o 0x48 d.leg.dst.toNat
  else if o = 0x50 then lo32 d.leg.coherent.toNat
  else if o = 0x54 then
    word32 [(31, d.leg.busy.toNat), (30, d.leg.done.toNat), (29, d.leg.halt.toNat), (28, d.leg.dir.toNat)]
  else if o = 0x58 then d.leg.bytes
  else if o = 0x5C then if d.leg.halt then lo32 d.leg.faddr.toNat else 0
  else if o = 0x60 then if d.leg.halt then hi32 d.leg.faddr.toNat else 0
  else 0

/-- What a word offset below 0x8000 reads as (R447-R449); unlisted and reserved offsets read zero (R16, R448). -/
def State.readReg (s : State) (o : Nat) : Word :=
  if o < 0x400 then s.readHif o
  else if o < 0x800 then s.readIrq (o - 0x400)
  else if o < 0xC00 then s.readPwr (o - 0x800)
  else if o < 0x1000 then s.readTime (o - 0xC00)
  else if o < 0x1400 then s.readLdg (o - 0x1000)
  else if o < 0x1800 then s.readPool (o - 0x1400)
  else if o < 0x1C00 then s.readDec (o - 0x1800)
  else if o < 0x2000 then s.readCal (o - 0x1C00)
  else if o < 0x3000 then s.readChe ((o - 0x2000) / 0x80) (o % 0x80)
  else if o < 0x3800 then s.readPhy ((o - 0x3000) / 0x40) (o % 0x40)
  else if o < 0x3C00 then s.readSched (o - 0x3800)
  else if o < 0x4000 then s.readRly (o - 0x3C00)
  else if o < 0x4400 then s.readSpm (o - 0x4000)
  else if o < 0x4800 then s.readNvs (o - 0x4400)
  else if o < 0x4C00 then s.readPsp (o - 0x4800)
  else if o < 0x5000 then s.readDma (o - 0x4C00)
  else 0

end Sys2Proof.Machine
end

