-- ==== Sys2Proof/Machine/Nvs.lean ====
section
/-! DEFINITION. What a durable NVS line sets off: markers (R27, R153, R154, R386, R396), grown-waster records and their
clearing (R334, R387, R398), health records (R397), snapshots (R399, R400); failing writes, spares and retries (R394). -/

namespace Sys2Proof.Machine

/-! ## Markers -/

/-- A marker takes its place in the set of open ones (R396): a start marker opens its location, anew at its newest line
where it was open already (log 34); an end marker closes what it names. -/
def markReplay (kind loc page line : Nat) (ms : List OpenMark) : List OpenMark :=
  if kind = 2 then ms.filter (fun m => !((m.kind == 1 || m.kind == 3) && m.loc == loc))
  else if kind = 4 then ms.filter (fun m => !(m.kind == 3 && m.loc == loc && m.page == page))
  else if kind = 6 then ms.filter (fun m => !(m.kind == 5 && m.loc == loc))
  else ms.filter (fun m => !(m.kind == kind && m.loc == loc && m.page == page)) ++
    [{ kind := kind, loc := loc, page := page, line := line }]

/-- KIND of a marker line. -/
def markKind (w : BitVec 256) : Nat := fld w 32 8
/-- PAGE of a marker line. -/
def markPage (w : BitVec 256) : Nat := fld w 48 16
/-- LOC of a marker line. -/
def markLoc (w : BitVec 256) : Nat := fld w 64 32
/-- SEQ of a marker or health line. -/
def lineSeq (w : BitVec 256) : Nat := fld w 0 32
/-- The CRC of a marker or health line checks (R395, R397). -/
def lineOk (w : BitVec 256) : Bool := withCrc (leBytes 28 w.toNat) == w && w != 0

/-- The location a LOC names. -/
def locPlace (loc page : Nat) : Loc :=
  { lun := loc % 512, plane := loc / 512 % 4, block := loc / 2048 % 65536, page := page }

/-- A durable end marker of an ERASE takes the block out of the crazed set and clears its torn records (R153, R330). -/
def Ldg.erased (loc : Nat) (l : Ldg) : Ldg :=
  let p := locPlace loc 0
  let other (q : Loc) : Bool := !(q.lun == p.lun && q.plane == p.plane && q.block == p.block)
  { l with crazed := l.crazed.filter other, torn := l.torn.filter other }

/-- What a durable marker lets its unit do: an ERASE may issue (R153), a FOLD goes on to its fine pass, which no cancel stops any
more (R336), or ends (R154). -/
def State.markUnit (unit : Option Nat) (kind : Nat) (s : State) : State :=
  match unit.bind (fun ix => (s.unit? ix).map (fun u => (ix, u))) with
  | none => s
  | some (ix, u) =>
    if ended u then s
    else if kind = 1 ∧ u.mark = .startAsked then
      (s.onUnit ix (fun u => { u with mark := .started })).headEvent (faLun u.addr)
    else if kind = 3 ∧ u.kind = .fold ∧ u.dec = 2 then
      (s.onUnit ix (fun u => { u with dec := 3, won := true })).headEvent (faLun u.addr)
    else if kind = 4 ∧ u.kind = .fold ∧ u.dec = 4 then s.endUnder ix .ok 0
    else s

/-- A marker has become durable. -/
def State.markDurable (unit : Option Nat) (kind : Nat) (r : NvsReq) (s : State) : State :=
  let loc := markLoc r.data
  let s := s.onNvs (fun n =>
    { n with markHead := BitVec.ofNat 32 (lineSeq r.data), markLine := (n.markLine + 1) % 8192,
             opens := markReplay kind loc (markPage r.data) r.line n.opens })
  let s := if kind = 2 && !unit.any (s.unitIs (fun u => u.status == .eraseFail)) then s.onLdg (Ldg.erased loc) else s
  s.markUnit unit kind

/-! ## Snapshots (R400) -/

/-- A snapshot line has become durable: the next line is asked for; the trailer makes the snapshot the newest valid one,
and the NVS_SYNC commands it was taken for go on. -/
def State.snapDurable (k : Nat) (r : NvsReq) (s : State) : State :=
  if k < 1089 then
    (s.onNvs (fun n =>
      { n with snapCrc := (leBytes 32 r.data.toNat).foldl Codec.crcByte n.snapCrc, snapping := some (k + 1) })).nvsAsk
      (.snapshot (k + 1)) 0 0
  else
    let s := s.nvs.syncs.foldl (fun (s : State) ctx => s.onCmd ctx (fun c => { c with stage := c.stage / 2 * 2 })) s
    s.onNvs (fun n =>
      { n with snapSlot := n.snapTarget, snapValid := true, snapGen := n.snapNew, snapping := none, syncs := [] })

/-! ## The write port (R394) -/

/-- The region of a line (R406). -/
def regionOf (line : Nat) : Nat :=
  if line < 2048 then 0 else if line < 4096 then 1 else if line < 6144 then 2 else if line < 14336 then 3 else 4

/-- A line with the words that a write was changing at free values (R394, log 7): what each reads as behind its SEC-DED code, zero where
the error is a double-bit one. -/
def State.disturb (r : NvsReq) (s : State) : State :=
  (List.range 4).foldl (fun (s : State) k =>
    let old := s.nvs.line r.line
    if fld old (64 * k) 64 = fld r.data (64 * k) 64 then s
    else
      let (v, s) := s.drawFree
      s.onNvs (fun n => { n with lines := SMap.put 0 n.lines r.line (setFld old (64 * k) 64 v.toNat) })) s

/-- Step 2 of R374 ends as the boot number is durable: SCANNED, RLY_BOOT (R359, R375), and the listening for the epoch (R367). -/
def State.scanEnds (s : State) : State :=
  if !s.nvs.booting then s
  else
    ((s.onNvs (fun n => { n with booting := false, scanned := true, healthAt := s.time.ns })).onRly (fun r =>
      { r with boot := s.nvs.health.boot })).onPsp (fun p =>
      { p with stored := s.nvs.health.epoch, listenFrom := some s.time.ns, bestSettled := none,
               bestCandidate := s.nvs.health.epoch + 1 })

/-- The line that the running write holds verifies: it is durable. -/
def State.nvsDurable (r : NvsReq) (s : State) : State :=
  let s := s.onNvs (fun n =>
    { n with lines := SMap.put 0 n.lines r.line r.data, writeCnt := n.writeCnt + 1, running := none })
  let s := match r.what with
    | .marker unit kind => s.markDurable unit kind r
    | .waster _ =>
      (s.onLdg (fun l => { l with nvRecords := s.nvs.records })).onNvs (fun n =>
        { n with health := { n.health with grown := n.health.grown + 1 } })
    | .clear =>
      let s := s.onLdg (fun l => { l with nvRecords := s.nvs.records })
      if (s.nvs.queue ++ s.nvs.retry).any (fun q => q.what == NvsWhat.clear) then s
      else match s.spm.op with
        | some o => if o.kind = SpmKind.consolidate ∧ o.stage = 5 then s.consolidated o else s
        | none => s
    | .health =>
      (s.onNvs (fun n =>
        { n with healthLine := (n.healthLine + 1) % 1024, health := { n.health with seq := n.health.seq + 1 } })).scanEnds
    | .snapshot k => s.snapDurable k r
  (s.syncCheck).nvsStart.spmGo

/-- A verify has failed: one more write, then the next free spare line; with no spare left the fault is recorded, source 5
rises, and the write waits for its retry. -/
def State.nvsFailed (r : NvsReq) (s : State) : State :=
  let n := s.nvs
  if r.fails = 0 then s.onNvs (fun n => { n with running := some { r with fails := 1 } })
  else if n.sparesLeft ≠ 0 then
    s.onNvs (fun n =>
      { n with spares := SMap.set n.spares (1024 - n.sparesLeft) r.line, sparesLeft := n.sparesLeft - 1,
               running := some { r with fails := 0 } })
  else
    let s := (s.disturb r).onNvs (fun n =>
      { n with faultValid := true, faultRegion := if n.faultValid then n.faultRegion else BitVec.ofNat 3 (regionOf r.line),
               faultLine := if n.faultValid then n.faultLine else r.line, faultCount := satInc 0xFF n.faultCount,
               retryAt := if n.retry.isEmpty then s.time.ns else n.retryAt,
               retry := n.retry ++ [{ r with fails := 0 }], running := none })
    (s.raise 5).nvsStart

/-- NVS_WRITE_DONE (R394): the running write and its verify have ended. A warm reset does not disturb them (R31). -/
def execNvsWriteDone (verified : Bool) (s : State) : Res :=
  match s.nvs.running with
  | none => .next s
  | some r => onlyIf (!s.sys.coldLow) (fun s => if verified then s.nvsDurable r else s.nvsFailed r) s

/-- NVS_RETRY_DUE (R394): every 1 ms the failed writes are tried again. -/
def execNvsRetryDue (s : State) : Res :=
  onlyIf (s.live && !s.nvs.retry.isEmpty && s.passed s.nvs.retryAt 1000000) (fun s =>
    (s.onNvs (fun n => { n with queue := n.retry ++ n.queue, retry := [], retryAt := s.time.ns })).nvsStart) s

/-- SNAPSHOT_START (R400): no sooner than 10 s after the previous one; the NVS_SYNC commands that wait for a snapshot are
served by this one. -/
def execSnapshotStart (s : State) : Res :=
  onlyIf (s.live && s.nvs.scanned && s.nvs.snapWant && s.nvs.snapping.isNone &&
      (match s.nvs.snapLast with
       | some t => s.passed t 10000000000
       | none => true)) (fun s =>
    let waits := (s.openSyncs.filter (fun e => e.2.stage % 2 == 1)).map Prod.fst
    (s.onNvs (fun n =>
      { n with snapWant := false, snapping := some 0, snapCrc := 0xFFFFFFFF, snapNew := n.snapGen + 1,
               snapLast := some s.time.ns, syncs := waits })).nvsAsk (.snapshot 0) 0 0) s

/-- HEALTH_UPDATE_DUE (R397): each hour of TIME_NS. -/
def execHealthUpdateDue (s : State) : Res :=
  onlyIf (s.live && s.nvs.scanned && s.passed s.nvs.healthAt 3600000000000) (fun s =>
    (s.onNvs (fun n => { n with healthAt := n.healthAt + 3600000000000 })).nvsHealth (fun h =>
      { h with hours := h.hours + 1 })) s

end Sys2Proof.Machine
end

