-- ==== Sys2Proof/Machine/Setup.lean ====
section
/-! DEFINITION. Schedules that a thread runs outside the grants of its lists: the checks of a die at start-up (R161, R374
step 9) and the set-feature cycles of training (R251, R254). What they put on the pins stands in `Chan.setup` (R162). -/

namespace Sys2Proof.Machine

/-- One schedule to run: its entry step, the argument kind and arguments (R301), and what the die answers to its reads. -/
structure SetUp where
  entry : Nat
  k : Nat
  a : List Word
  status : List (BitVec 64)
  deriving DecidableEq, Repr

/-- The schedule of ENTRY `i`, where the die type provides it (R160). -/
def setUpOf (d : DieType) (i k : Nat) (a : List Word) (status : List (BitVec 64)) : List SetUp :=
  ((dieEntry d i).map (fun e => { entry := e, k := k, a := a, status := status })).toList

/-- SET_FEAT of a feature write (R301): FA with the LUN-level flag, and P1 to P4. -/
def setFeature (d : DieType) (fa p : Nat) : List SetUp :=
  setUpOf d 23 0 [BitVec.ofNat 32 (fa % 2 ^ 9), BitVec.ofNat 32 p, 0, 0] []

/-- SET_FEAT of a VrefQ step (R251, R301). -/
def setVref (d : DieType) (step : Nat) : List SetUp := setUpOf d 23 2 [BitVec.ofNat 32 (step % 64), 0, 0, 0] []

/-- The surroundings and the blank run of a set-up of LUN `l`; `sdr` the CPK cycles per
byte where its pins run in SDR timing mode 0 (R296). -/
def State.setUpRun (s : State) (l : Nat) (d : DieType) (sdr : Option Nat) : Env × Run :=
  let g := (s.makeGrant l d { kind := .reset, ix := 0, cls := 0, long := false } [] { status := [], bad := [], underrun := none, ecc := .ok, mismatch := none }).1
  let v := s.envOf d g
  ({ v with slow := sdr.getD v.slow },
   { ctx := SchedCtx.init, g := g, rawMoved := 0, appended := [], moved := [], egress := Queue.init, marks := [], draws := 0,
     inSdr := sdr.isSome })

/-- The run still stands at its start or behind an END (R302); a RELEASE ends a schedule here too (R304). -/
def Run.good (x : Run) : Bool :=
  match x.g.fin with
  | .running => true
  | .ended _ _ => true
  | .released _ => true
  | _ => false

/-- S at the END of the schedule last run (R302). -/
def Run.readBack (x : Run) : BitVec 64 :=
  match x.g.fin with
  | .ended _ v => v
  | _ => x.ctx.s

/-- Run schedules one behind the other, each as a grant of its own (R308); none where one loops (log 9). -/
def runSetUps (v : Env) (base : Nat) : List SetUp → Run → Option Run
  | [], x => some x
  | p :: ps, x =>
    if !x.good then some x
    else
      (runSteps v base stepLimit
        { x with
          ctx := { SchedCtx.init with run := true, pc := p.entry, a := p.a, k := p.k }
          g := { x.g with fin := .running, pinTime := 0, io := { x.g.io with status := p.status } } }).bind
        (runSetUps v base ps)

/-- Pin actions join what the set-up of a CE has carried. -/
def State.addSetup (ch ce : Nat) (acts : List PinAct) (s : State) : State :=
  s.onChan ch (fun c => { c with setup := c.setup ++ acts.map (fun a => (ce, a)) })

/-- Take over a set-up run: the free values drawn, the pins, the die resets among them. A bad step halts the thread and a
pin time past the limit fences the channel (R306-R308). -/
def State.setUpDone (l : Nat) (x : Run) (s : State) : State :=
  let s := s.onFreeCtr (· + x.draws)
  let s := (resetsIn x.g.pins).foldl (fun (s : State) b => s.dieReset l b) s
  match x.g.fin with
  | .halted n => s.stepError l n
  | .overLimit n => s.schedFault l n false
  | _ => s

/-- Schedules of a LUN come to a step that is being reloaded (R306). -/
def State.setUpWaits (s : State) (l : Nat) (d : DieType) (ps : List SetUp) : Bool :=
  let (v, x) := s.setUpRun l d none
  (runSetUps v s.freeCtr ps x).any (fun x => match x.g.fin with
    | .waiting _ => true
    | _ => false)

/-- Schedules of a LUN outside its lists' grants: what they put on the pins joins what its CE's set-up has carried. On a
fenced channel nothing runs; none where a schedule loops (log 9). -/
def State.runSetUp (l : Nat) (d : DieType) (sdr : Option Nat) (ps : List SetUp) (s : State) : Option State :=
  if (s.chan (lunChan l)).fenced then some s
  else
    let (v, x) := s.setUpRun l d sdr
    (runSetUps v s.freeCtr ps x).map (fun x =>
      (s.setUpDone l x).addSetup (lunChan l) (l % 16 / 2) x.g.pins)

end Sys2Proof.Machine
end

