-- ==== Sys2Proof/Machine/Startup.lean ====
section
/-! DEFINITION. Start-up (R374): the NVS scan, discovery, option records and slot selection (R377-R383), the image and its
sections, the waster table and the recovery sets (R330-R335), calibration restore (R401), die checks (R161), READY. -/

namespace Sys2Proof.Machine

/-! ## Step 2: the NVS scan -/

/-- SEQ x is newer than y (R379). -/
def newerSeq (x y : Nat) : Bool := 1 ≤ (x + 2 ^ 32 - y) % 2 ^ 32 && (x + 2 ^ 32 - y) % 2 ^ 32 < 2 ^ 31

/-- The newest of a list of (line, contents) by SEQ (R396, R397). -/
def newestLine (ls : List (Nat × BitVec 256)) : Option (Nat × BitVec 256) :=
  ls.foldl (fun (b : Option (Nat × BitVec 256)) e =>
    match b with
    | some a => if newerSeq (lineSeq e.2) (lineSeq a.2) then some e else some a
    | none => some e) none

/-- Valid lines of a region. -/
def Nvs.validLines (n : Nvs) (first size : Nat) : List (Nat × BitVec 256) :=
  n.lines.filter (fun e => first ≤ e.1 && e.1 < first + size && lineOk e.2)

/-- The marker ring (R396): the open markers, in marker order, the newest SEQ and the line behind its own. -/
def Nvs.scanRing (n : Nvs) : Nvs :=
  let ms := n.validLines ringLine 8192
  match newestLine ms with
  | none => { n with opens := [], markHead := 0, markLine := 0 }
  | some h =>
    let age (e : Nat × BitVec 256) : Nat := (lineSeq h.2 + 2 ^ 32 - lineSeq e.2) % 2 ^ 32
    let inOrder := ms.mergeSort (fun a b => age b ≤ age a)
    { n with
      opens := inOrder.foldl (fun o e => markReplay (markKind e.2) (markLoc e.2) (markPage e.2) e.1 o) [],
      markHead := BitVec.ofNat 32 (lineSeq h.2), markLine := (h.1 - ringLine + 1) % 8192 }

/-- The health record in force (R397): EPOCH and BOOT are 0 where no line is valid. -/
def Nvs.scanHealth (n : Nvs) : Nvs :=
  match newestLine (n.validLines healthRegion 1024) with
  | none => n
  | some h =>
    let w (k : Nat) : Word := BitVec.ofNat 32 (fld h.2 (32 * k) 32)
    { n with health := { seq := w 0, boot := w 1, epoch := w 2, hours := w 3, grown := w 4, consol := w 5 },
             healthLine := (h.1 - healthRegion + 1) % 1024 }

/-- GEN of a calibration slot's snapshot, where it is valid (R401). -/
def Nvs.snapOf (n : Nvs) (slot : Bool) : Option Word :=
  let at_ (k : Nat) : BitVec 256 := n.line (snapLine slot + k)
  let gen := fld (at_ 0) 0 32
  let crc := (List.range 1089).foldl (fun c k => (leBytes 32 (at_ k).toNat).foldl Codec.crcByte c) 0xFFFFFFFF#32
  if gen ≠ 0 ∧ gen = fld (at_ 1089) 0 32 ∧ fld (at_ 1089) 32 32 = (crc ^^^ 0xFFFFFFFF#32).toNat then
    some (BitVec.ofNat 32 gen)
  else none

/-- The newer valid snapshot (R401). -/
def Nvs.scanSnaps (n : Nvs) : Nvs :=
  let pick (slot : Bool) (g : Word) : Nvs := { n with snapSlot := slot, snapValid := true, snapGen := g }
  match n.snapOf false, n.snapOf true with
  | some a, some b => if newerSeq b.toNat a.toNat then pick true b else pick false a
  | some a, none => pick false a
  | none, some b => pick true b
  | none, none => n

/-- NVS_START_SCAN_END (R374 step 2): the regions are read; a cold start increments the boot number (R359), and the step ends
once that is durable, which the end of a Cold state leaves out (R412, R419). -/
def execNvsStartScanEnd (s : State) : Res :=
  onlyIf (!s.inReset && s.sys.started && !s.nvs.scanned && !s.nvs.booting) (fun s =>
    let s := s.onNvs (fun n =>
      let n := n.scanRing.scanHealth.scanSnaps
      { n with scanned := s.sys.resume, booting := !s.sys.resume, sparesLeft := 1024 - n.spares.length, healthAt := s.time.ns })
    if s.sys.resume then s.onRly (fun r => { r with boot := s.nvs.health.boot })
    else s.nvsHealth (fun h => { h with boot := h.boot + 1 })) s

/-! ## Step 3: discovery (R377-R379) -/

/-- An option record, where it is valid. -/
def optRecord (bs : List Byte) : Option OptRec :=
  if num bs 0 4 = 0x33425A55 ∧ num bs 4 2 = 1 ∧ num bs 60 4 = (Codec.crc32c (pad 60 (slice bs 0 60))).toNat then
    let w (o : Nat) : Word := BitVec.ofNat 32 (num bs o 4)
    some { modeLimit := num bs 6 1, sckDiv := num bs 7 1, seq := w 8, genA := w 12, genB := w 16, xipBase := w 20 }
  else none

/-- SERIAL_DISCOVERY (R377, R379, R391): 100 µs after step 1; a suspended program or erase is resumed and polled to its
end, and of two valid option records the newer is taken. -/
def execSerialDiscovery (sfdp : Sfdp) (opt0 opt1 : List Byte) (suspended : Bool) (s : State) : Res :=
  onlyIf (s.live && s.sys.started && !s.sys.resume && !s.sys.discovered && 100000 ≤ s.now) (fun s =>
    let s := s.onSys (fun y => { y with discovered := true })
    s.onSpm (fun m =>
      let m := { m with sfdp := if sfdp.found then sfdp else noSfdp, noSuspend := !(sfdp.found && sfdp.suspend),
                        sent := if suspended then [bareTx sfdp.resumeOp] else [] }
      match optRecord opt0, optRecord opt1 with
      | some a, some b =>
        if newerSeq b.seq.toNat a.seq.toNat then { m with opt := some b, optOther := some a, optSector := true }
        else { m with opt := some a, optOther := some b, optSector := false }
      | some a, none => { m with opt := some a, optOther := none, optSector := false }
      | none, some b => { m with opt := some b, optOther := none, optSector := true }
      | none, none => { m with opt := none, optOther := none, optSector := false })) s

/-! ## Step 4: slot selection -/

/-- The fastest mode that SFDP advertises and the record allows (R377). -/
def Spm.workMode (m : Spm) : Nat :=
  match m.opt with
  | none => 0
  | some r =>
    if 3 ≤ r.modeLimit ∧ m.sfdp.octal then 3
    else if 2 ≤ r.modeLimit ∧ m.sfdp.quad144 then 2
    else if 1 ≤ r.modeLimit ∧ m.sfdp.quad114 then 1
    else 0

/-- Committed generation of a slot. -/
def Spm.gen (m : Spm) (b : Bool) : Word := if b then m.genB else m.genA

/-- Sectors to be re-erased join the list, each under a new start marker (R386, R392). -/
def State.askReerase (secs : List Nat) (s : State) : State :=
  (secs.filter (fun a => !s.sys.reerase.contains a && !s.nvs.owesMark 6 a)).foldl (fun (s : State) a =>
    (s.onSys (fun y => { y with reerase := y.reerase ++ [a] })).nvsMarker none 5 a 0) s

/-- No slot is valid (R383): start-up stops with BOOT_FAIL and source 7; the sectors of the slots are re-erased. -/
def State.bootFails (s : State) : State :=
  ((s.onSpm (fun m => { m with bootFail := true, loading := none })).raise 7).askReerase
    (s.openSectors.filter (fun a => inSlot false a || inSlot true a))

/-- A record whose sector has an open marker gives way to the other valid one, or is kept where that has one too (R392). -/
def State.chooseRecord (s : State) : State :=
  let m := s.spm
  if m.opt.isSome && s.openSectors.contains (if m.optSector then 4096 else 0) then
    match m.optOther.filter (fun _ => !s.openSectors.contains (if m.optSector then 0 else 4096)) with
    | some r => s.onSpm (fun m => { m with opt := some r, optOther := m.opt, optSector := !m.optSector })
    | none => s.onSpm (fun m => { m with openKept := true })
  else s

/-- SLOT_SELECTION (R374 step 4, R377-R379, R383, R384, R392): the record, whose SCK_DIV of 0 acts as 1, the working mode, the
window, the slot to be read first; sectors outside the slots and the record in force are re-erased. -/
def execSlotSelection (s : State) : Res :=
  onlyIf (s.live && s.nvs.scanned && s.sys.discovered && !s.spm.xipReady && !s.sys.resume) (fun s =>
    let s := s.chooseRecord
    let s := s.onSpm (fun m =>
      { m with genA := match m.opt with
                 | some r => r.genA
                 | none => 0
               genB := match m.opt with
                 | some r => r.genB
                 | none => 0
               xipBase := match m.opt with
                 | some r => BitVec.ofNat 16 (fld r.xipBase 12 16)
                 | none => 2
               sckDiv := match m.opt with
                 | some r => max 1 r.sckDiv
                 | none => 8
               mode := m.workMode, xipReady := true, tried := [], validA := false, validB := false, passedOver := none })
    let s := s.onSpm (fun m => { m with sent := m.enterMode })
    let s := s.askReerase (s.openSectors.filter (fun a => !inSlot false a && !inSlot true a && !s.spm.recordKept a))
    let m := s.spm
    let s := if m.genA = 0 ∧ m.genB = 0 then s.bootFails
      else s.onSpm (fun m => { m with loading := some (m.genA.toNat < m.genB.toNat) })
    s.xipServe) s

/-! ## Die descriptors (R158-R160, R219) -/

/-- A descriptor's fields. -/
def dieOfImage (m : SparseBytes) (k : Nat) : DieType :=
  let o := secOff m 0 + 256 * k
  let b (i : Nat) : Byte := imgByte m (o + i)
  let n (i len : Nat) : Nat := imgNum m (o + i) len
  { id := imgBytes m o 8, idMask := imgBytes m (o + 8) 8, planes := n 16 1, cell := b 17, pages := n 18 2,
    slcPages := n 20 2, blocks := if n 22 2 = 0 then 65536 else n 22 2, rowCycles := n 24 1, lunBit := n 25 1,
    readLevels := b 31, ifCaps := b 26, extFa := b 27, extVal := b 28, tempFa := b 29, tTurn := n 30 1, caps := BitVec.ofNat 16 (n 32 2),
    trFirst := n 34 2, trPoll := n 36 2, tprogFirst := n 38 2, tprogPoll := n 40 2, tslcFirst := n 42 2,
    entry := (List.range 24).map (fun i => n (64 + 2 * i) 2),
    tfoldCFirst := n 44 2, tfoldFFirst := n 46 2, tbersFirst := n 48 2, tbersPoll := n 50 2, runMinPgm := n 52 2,
    initFeat := (List.range 8).map (fun i => BitVec.ofNat 64 (n (128 + 8 * i) 8)), runMinErs := n 54 2, suspWin := n 56 2, tSusp := n 58 2, suspMaxPgm := n 60 1, suspMaxErs := n 61 1,
    suspReads := n 62 1, refireBase := n 112 2, refireSteps := n 114 1,
    reservedOk := b 63 == 0 && (List.range 13).all (fun i => b (115 + i) == 0) &&
      (List.range 64).all (fun i => b (192 + i) == 0) }

/-- The entries a die type must provide (R160). -/
def entriesNeeded (d : DieType) : List Nat :=
  [0, 3, 5] ++ (if dieBushel d then
    [6, 8, 12, 18, 22, 23] ++ (([(0, 7), (1, 13), (2, 19), (4, 9), (5, 10)] : List (Nat × Nat)).filter (fun c => bit d.caps c.1)).map Prod.snd ++
      (if bit d.caps 4 || bit d.caps 5 then [11] else []) ++ (if bit d.caps 6 || bit d.caps 7 then [20, 21] else [])
  else [])

/-- The descriptor binds LUNs (R67, R158, R160, R219). -/
def dieValid (d : DieType) : Bool :=
  fld d.ifCaps 0 2 != 0 && (d.planes == 1 || d.planes == 2 || d.planes == 4) && fld d.cell 3 5 == 0 && fld d.ifCaps 3 5 == 0 && !bit d.caps 15 &&
    1 ≤ d.pages && d.pages ≤ 4096 && d.slcPages ≤ 4096 && (d.rowCycles == 3 || d.rowCycles == 4) &&
    d.lunBit < 8 * d.rowCycles && 4 ≤ d.tTurn && d.tTurn ≤ 63 && d.trPoll != 0 && d.tprogPoll != 0 && d.tbersPoll != 0 &&
    d.suspReads != 0 && d.refireSteps ≤ 15 && d.reservedOk &&
    d.initFeat.all (fun f => fld f 0 8 == 0 || (fld f 9 7 == 0 && fld f 16 16 == 0)) &&
    d.entry.all (fun e => e < 6144 || e == 0xFFFF) && (entriesNeeded d).all (fun i => (dieEntry d i).isSome) &&
    d.refireBase + d.refireSteps + 1 ≤ 4095

/-! ## Step 5: the image goes into service -/

/-- A waster entry (R333); CAUSE 4-7 reads as 0. -/
def wasterOf (loc flags : Nat) : Waster :=
  let c := loc / 2 ^ 27 % 8
  { lun := loc % 512, plane := loc / 512 % 4, block := loc / 2048 % 65536, cause := if 4 ≤ c then 0 else c,
    grown := flags % 2 == 1, consolidated := flags / 2 % 2 == 1 }

/-- A table from a function, unlisted entries being zero. -/
def tableOf {n : Nat} (size : Nat) (f : Nat → BitVec n) : SMap (BitVec n) :=
  ((List.range size).map (fun i => (i, f i))).filter (fun e => e.2 != 0)

/-- The image's tables (R158, R219, R333, R382). -/
def imgOf (m : SparseBytes) : Img :=
  { dies := (List.range 16).map (dieOfImage m), bind := tableOf 512 (bindEntry m),
    rates := (List.range 16).map (fun k => (imgByte m (secOff m 2 + k)).toNat),
    chans := (List.range 32).map (chanByte m),
    rdVref := (List.range 32).map (fun k => fld (imgByte m (secOff m 2 + 48 + k)) 0 6),
    wrVref := (List.range 32).map (fun k => fld (imgByte m (secOff m 2 + 80 + k)) 0 6),
    refire := tableOf 4096 (fun i => BitVec.ofNat 128 (imgNum m (secOff m 4 + 16 * i) 16)),
    wasters := (List.range (secSize m 6 / 8)).map (fun i =>
      { wasterOf (imgNum m (secOff m 6 + 8 * i) 4) (imgNum m (secOff m 6 + 8 * i + 4) 4) with consolidated := true }) }

/-- The die type a LUN is bound to (R23, R158). -/
def boundDie (g : Img) (l : Nat) : Option Nat :=
  let e := SMap.getD g.bind l 0
  let k := fld e 0 4
  if bit e 15 && fld e 4 11 == 0 && chanPers ((g.chans[lunChan l]?).getD 0) == 0 && (g.dies[k]?).any dieValid then some k
  else none

/-- The schedule store from section 3, with the parity that the loader computes (R294). -/
def storeOf (m : SparseBytes) : SMap (BitVec 160 × BitVec 20) :=
  (List.range 6144).map (fun i =>
    let w := BitVec.ofNat 160 (imgNum m (secOff m 3 + 20 * i) 20)
    (i, (w, stepParity w)))

/-- The relay bundles of the topology (R344), each with no session kept. -/
def linksOf (g : Img) : SMap Link :=
  (List.range 32).filterMap (fun n =>
    let b := (g.chans[n]?).getD 0
    if chanPers b ≠ 0 ∧ n % chanSize b = 0 then some (n, Link.fresh (chanPers b == 2) (chanSize b)) else none)

/-- PERS of a channel (R167). -/
def State.persOf (s : State) (g : Img) (c : Nat) : BitVec 2 :=
  match chanPers ((g.chans[c]?).getD 0) with
  | 0 => if (List.range 16).any (fun t => (s.lun (16 * c + t)).die.isSome &&
      (!(s.lun (16 * c + t)).checked || !(s.lun (16 * c + t)).absent)) then 0 else 3
  | p => BitVec.ofNat 2 p

/-- PERS of every channel. -/
def State.setPers (s : State) : State :=
  (List.range 32).foldl (fun (s : State) c => s.onChan c (fun h => { h with pers := s.persOf s.img c })) s

/-- The store and SCHED_VERSION (R294). -/
def State.loadStore (slot : Bool) (m : SparseBytes) (s : State) : State :=
  (s.onSched (fun c =>
    { c with store := storeOf m, slot := slot, loaded := true,
             version := word32 [(16, imgNum m 20 2), (8, imgNum m 22 1), (0, imgNum m 23 1)] })).raise 57

/-- The power-timer section (R434); a Cold exit keeps the saved registers (R419). -/
def State.loadTimers (m : SparseBytes) (s : State) : State :=
  if s.sys.resume then s
  else
    let w (k : Nat) : Word := BitVec.ofNat 32 (imgNum m (secOff m 7 + 4 * k) 4)
    (s.onPwr (fun p =>
      { p with cfg := w 0 &&& 0x1E, idle0 := BitVec.ofNat 16 (fld (w 1) 0 16), idle1 := BitVec.ofNat 16 (fld (w 2) 0 16),
               idle2 := BitVec.ofNat 16 (fld (w 3) 0 16), idle3 := BitVec.ofNat 16 (fld (w 4) 0 16) })).onTime (fun t =>
      { t with cfg := w 5 &&& 0x8000FFFF })

/-- Instance ID (R6), TGT_PERS (R5) and BOOTED. -/
def State.loadIdentity (slot : Bool) (m : SparseBytes) (s : State) : State :=
  let g := s.img
  (s.onSys (fun y =>
    { y with tgtPers := g.chans.any (fun b => chanPers b == 2),
             instance_ := if y.straps = 0x7FF then BitVec.ofNat 11 (fld (BitVec.ofNat 16 (imgNum m 24 2)) 0 11) else y.straps,
             idSrc := y.straps == 0x7FF })).onSpm (fun m =>
    { m with booted := true, loading := none, passedOver := none, slot := slot, validA := m.validA || !slot, validB := m.validB || slot })

/-- Every section goes into service (R374 step 5): bindings, channels, links, routes, the store, the timers. After a Cold
exit the bound LUNs, which stayed powered, are taken as they were checked (R420; log 35), but for those that the interface of
their pair, which stands until the next cold reset, leaves out (R67). -/
def State.loadImage (slot : Bool) (m : SparseBytes) (s : State) : State :=
  let g := imgOf m
  let s := s.onImg (fun _ => g)
  let s := (List.range 512).foldl (fun (s : State) l =>
    s.onLun l (fun t =>
      { t with die := boundDie g l, checked := s.sys.resume,
               absent := !s.sys.resume || !((boundDie g l).bind (fun k => g.dies[k]?)).any (fun d =>
                 !(s.pair (l / 32)).lpddr || bit d.ifCaps 1) })) s
  let s := s.setPers
  let s := s.onRly (fun r =>
    { r with links := linksOf g, routes := tableOf 2048 (fun i => BitVec.ofNat 16 (imgNum m (secOff m 5 + 2 * i) 2) &&& 0x801F) })
  (((s.loadStore slot m).loadTimers m).loadIdentity slot m).onSpm (fun p => { p with image := m })

/-- The slot just read cannot be taken, nor one that has been passed over: start-up stops (R383). After a Cold exit, start-up goes on
as a cold start from slot selection (R419). -/
def State.slotFails (s : State) : State :=
  if s.sys.resume then
    (s.onSys (fun y => { y with resume := false })).onSpm (fun m => { m with loading := none, xipReady := false })
  else s.bootFails

/-- A slot goes into service (R374 step 5): its open markers, if it has any, stay open, and every other sector with one is
re-erased (R392). -/
def State.takeSlot (slot : Bool) (image : SparseBytes) (s : State) : State :=
  let s := s.loadImage slot image
  let s := if s.openSectors.any (inSlot slot) then s.onSpm (fun m => { m with openKept := true }) else s
  s.askReerase (s.openSectors.filter (fun a => !inSlot slot a && !s.spm.recordKept a))

/-- IMAGE_LOAD_END (R374 step 5, R383, R392): the slot that was being read is checked, its schedules having gone into the store as
they came. It goes into service, or the other slot is read, which is read once, or start-up stops. A slot with an open
serial-erase marker gives way to a valid alternative, and is not valid itself; where there is none, the one tried first is taken. -/
def execImageLoadEnd (image : SparseBytes) (s : State) : Res :=
  match s.spm.loading with
  | none => .next s
  | some slot =>
    onlyIf (s.live && s.spm.readable) (fun s =>
      let m := s.spm
      let s := if sectionsOk image then s.onSched (fun c => { c with store := storeOf image }) else s
      let ok := imageOk image && imgGen image == m.gen slot
      let marked := s.openSectors.any (inSlot slot)
      let other := m.gen (!slot) ≠ 0 && !m.tried.contains (!slot) && !s.sys.resume
      let s := s.onSpm (fun m => { m with validA := m.validA && slot, validB := m.validB && !slot })
      let t := if ok && !marked then s.takeSlot slot image
        else if other then
          s.onSpm (fun m => { m with loading := some (!slot), tried := slot :: m.tried,
                                     passedOver := if ok then some image else none })
        else match m.passedOver with
          | some first => s.takeSlot (!slot) first
          | none => if ok then s.takeSlot slot image else s.slotFails
      t.xipServe.spmGo) s

/-- SERIAL_SECTOR_REERASE (R374 step 6, R386, R392): the device has re-erased a sector; its end marker is asked for, lines of it
that the window holds are dropped, and waiting reads of it go on. -/
def execSerialSectorReerase (sector : Nat) (s : State) : Res :=
  onlyIf (s.live && s.spm.erasing.any (fun o => o.addr == sector && !o.suspended)) (fun s =>
    let s := (s.onSys (fun y => { y with reerase := y.reerase.filter (· != sector) })).onSpm (fun m =>
      { m with erasing := none, lines := m.lines.filter (fun e => sectorOf (64 * e.1) != sector),
               lineOrder := m.lineOrder.filter (fun l => sectorOf (64 * l) != sector) })
    (s.nvsMarker none 6 sector 0).xipServe.prefetch.spmGo) s

/-! ## Step 7: wasters, crazed blocks, torn wordlines -/

/-- Add an entry, merging duplicates (R398); a full table takes no more (R335). -/
def addWaster (ws : List Waster) (w : Waster) : List Waster :=
  if ws.any (fun v => v.lun == w.lun && v.plane == w.plane && v.block == w.block) || 65536 ≤ ws.length then ws else ws ++ [w]

/-- Words of the grown-waster region with GROWN = 1 (R398). -/
def Nvs.grownWords (n : Nvs) : List Nat :=
  ((n.lines.filter (fun e => wasterLine ≤ e.1 && e.1 < ringLine)).map (fun e => lineWords e.2)).flatten.filter (fun w =>
    w.testBit 32)

/-- Open markers beyond the limits of the crazed and the torn set, in marker order (R331). -/
def Nvs.excess (n : Nvs) : List Loc :=
  (n.opens.foldl (fun (a : List Loc × Nat × Nat) m =>
    let p := locPlace m.loc m.page
    if m.kind = 1 then (if a.2.1 < 4096 then a.1 else a.1 ++ [p], a.2.1 + 1, a.2.2)
    else if m.kind = 3 then (if a.2.2 < 256 then a.1 else a.1 ++ [p], a.2.1, a.2.2 + 1)
    else a) ([], 0, 0)).1

/-- WASTER_TABLE_BUILD (R330, R331, R342, R374 step 7, R398): OVERFLOW counts the blocks that excess markers have made wasters. -/
def execWasterTableBuild (s : State) : Res :=
  onlyIf (s.live && s.nvs.scanned && s.spm.booted && !s.sys.wasters) (fun s =>
    let grown := s.nvs.grownWords.map (fun w =>
      { wasterOf (w % 2 ^ 32) 1 with consolidated := false })
    let place (k : Nat) : List Loc :=
      (s.nvs.opens.filter (fun m => m.kind == k)).map (fun m => locPlace m.loc m.page)
    let crazed := (place 1).take 4096
    let torn := (place 3).take 256
    let excess := s.nvs.excess
    let s := s.onLdg (fun l =>
      { l with wasters := (s.img.wasters ++ grown).foldl addWaster [], nvRecords := s.nvs.records, crazed := crazed,
               torn := torn, recovCrazed := crazed, recovTorn := torn })
    let t := excess.foldl (fun (s : State) p => s.growWaster none (mkFa 0 p.lun p.plane p.block 0) 3) s
    (t.onLdg (fun l => { l with overflow := min 0x7F (l.wasters.length - s.ldg.wasters.length) })).onSys (fun y =>
      { y with wasters := true })) s

/-! ## Step 8: calibration -/

/-- The signed bytes of snapshot lines `first` to `first + n - 1`, numbered. -/
def Nvs.snapBytes (n : Nvs) (first len : Nat) : SMap Int :=
  ((List.range len).map (fun k => ((leBytes 32 (n.line (snapLine n.snapSlot + first + k)).toNat).zip (List.range 32)).map
    (fun b => (32 * k + b.2, b.1.toInt)))).flatten

/-- The same as a table in which 0 is not listed. -/
def Nvs.snapTable (n : Nvs) (first len : Nat) : SMap Int := (n.snapBytes first len).filter (fun e => e.2 != 0)

/-- CALIBRATION_RESTORE (R374 step 8, R401): from the newer valid slot; RATE and CAL_CODE are not restored. -/
def execCalibrationRestore (s : State) : Res :=
  onlyIf (s.live && s.nvs.scanned && s.spm.booted && !s.sys.restored) (fun s =>
    let s := s.onSys (fun y => { y with restored := true })
    if !s.nvs.snapValid then s
    else
      let n := s.nvs
      let s := s.onCal (fun c =>
        { c with d := n.snapTable 1 1024, t := n.snapTable 1025 16, tCal := n.snapBytes 1041 16 })
      (List.range 32).foldl (fun (s : State) c =>
        let bs := leBytes 32 (n.line (snapLine n.snapSlot + 1057 + c)).toNat
        let b (i : Nat) : Nat := num bs i 1
        s.onPhyOf c (fun p =>
          { p with rdTaps := (slice bs 0 8).map (fun x => x.toNat), wrTaps := (slice bs 8 8).map (fun x => x.toNat),
                   rdVref := BitVec.ofNat 6 (b 16), wrVref := BitVec.ofNat 6 (b 17), dcc := BitVec.ofNat 5 (b 18),
                   dqsTap := BitVec.ofNat 7 (b 19) })) s) s

/-! ## Step 9: die checks -/

/-- ID under ID_MASK equals ID_BYTES (R161). -/
def idMatches (d : DieType) (id : List Byte) : Bool :=
  ((pad 8 id).zip (d.id.zip d.idMask)).all (fun q => (q.1 &&& q.2.2) == (q.2.1 &&& q.2.2))

/-- A LUN is ready: RDY and ARDY, the other bits of its status as the die has them (a free value; log 7). -/
def readyStatus (f : BitVec 64) : BitVec 64 := f ||| 0x60#64

/-- The reset and the Read ID of a check, with the status poll that finds the LUN ready (R374 step 9). -/
def checkId (d : DieType) (id : List Byte) (f : BitVec 64) : List SetUp :=
  setUpOf d 0 0 [0, 0, 0, 0] [] ++ setUpOf d 5 0 [0, 0, 0, 0] [readyStatus f] ++
    setUpOf d 3 0 [0, 0, 0, 0] [BitVec.ofNat 64 (leNat (pad 8 id))]

/-- INIT_FEAT in order, each feature with the status poll that finds the LUN ready, and then EXT_FA (R161, R374 step 9).
CAPS says whether EXT_FA is read by the LUN (R159). -/
def checkFeatures (d : DieType) (ext : Byte) (f : BitVec 64) : List SetUp :=
  ((d.initFeat.filter (fun w => fld w 0 8 != 0)).map (fun w =>
    setFeature d (fld w 0 9) (fld w 32 32) ++ setUpOf d 5 0 [0, 0, 0, 0] [readyStatus f])).flatten ++
  (if bit d.ifCaps 2 then
    setUpOf d 22 0 [BitVec.ofNat 32 (d.extFa.toNat + (bit d.caps 13).toNat * 256), 0, 0, 0] [BitVec.ofNat 64 ext.toNat]
   else [])

/-- The check of a LUN is over: whether its ID is that of its die type, and whether it advertises the extension (R161). -/
def State.checkDone (lun : Nat) (good ext : Bool) (s : State) : State :=
  let s := s.onLun lun (fun t => { t with checked := true, absent := !good, ext := good && ext })
  s.onChan (lunChan lun) (fun h => { h with pers := s.persOf s.img (lunChan lun) })

/-- DIE_CHECK (R66, R161, R374 step 9): in order within the channel, the schedules of the check run in SDR timing mode 0. A
LUN whose ID differs stays unbound; `id` and `ext` are what the die answers to Read ID and to Get Features at EXT_FA. A
check whose schedule comes to no END stays to be made. -/
def execDieCheck (lun : Nat) (id : List Byte) (ext : Byte) (s : State) : Res :=
  match (s.lun lun).die.bind (fun k => s.img.dies[k]?) with
  | none => .next s
  | some d =>
    let before := (List.range 16).all (fun t =>
      let l := 16 * lunChan lun + t
      lun ≤ l || (s.lun l).die.isNone || (s.lun l).checked)
    if s.live && s.sys.wasters && s.sys.restored && lun < 512 && !(s.lun lun).checked && before then
      let base := s.freeCtr
      let (v, x) := s.setUpRun lun d (some (sdrCycles ((s.img.rates[lunChan lun / 2]?).getD 0)))
      let (f, x) := x.draw base
      runRes ((runSetUps v base (checkId d id f) x).bind (fun x =>
        let good := idMatches d (leBytes 8 x.readBack.toNat)
        let y := if x.good && good then runSetUps v base (checkFeatures d ext f) x else some x
        y.map (fun y =>
          let s := (s.setUpDone lun y).noteSetup (lunChan lun) (lun % 16 / 2) y.g.pins
          if !y.good then s
          else s.checkDone lun good (bit d.ifCaps 2 && BitVec.ofNat 8 (fld y.readBack 0 8) == d.extVal))))
    else .next s

/-! ## Step 11: READY -/

/-- A channel of a flash pair still has its training before it: it has a LUN, is not fenced, and its pair is not in
service. -/
def State.untrained (s : State) (c : Nat) : Bool :=
  chanPers ((s.img.chans[c]?).getD 0) == 0 && (List.range 16).any (fun t => (dieOf s (16 * c + t)).isSome) &&
    !(s.chan c).fenced && !(s.pair (c / 2)).inService

/-- The temperature events of LUNs without one (R157, R234): one period from now. -/
def State.placeTemps (s : State) : State :=
  let p := fld s.cal.temp 0 16
  if p = 0 then s
  else (List.range 512).foldl (fun (s : State) l =>
    if (dieOf s l).isSome && (s.lun l).ev.temp.isNone then
      s.onLun l (fun t => { t with ev := { t.ev with temp := some (s.event none (s.after (1000000 * p))) } })
    else s) s

/-- The patrol event of a LUN whose period Cold has kept falls due at the first tick after the exit (R412, R419, log 132). -/
def State.placePatrol (l : Nat) (s : State) : State :=
  if (s.patrol l).period ≠ 0 ∧ (s.lun l).die.isSome then
    s.onLun l (fun t => { t with ev := { t.ev with patrol := some (s.event none s.time.ns) } })
  else s

/-- HIF_STATUS.READY becomes 1 (R374 step 11): after a cold start every LUN is given
CAL_PATROL_CFG.DEFAULT_MS as its patrol period (R248, log 118), after a Cold exit the patrol event that stood fires once (R412,
log 132); the poll periods count from here (log 61), and a ring-table read or a cycle that waited for it begins (R82, R442). -/
def State.becomeReady (s : State) : State :=
  let resumed := s.sys.resume
  let s := (s.onHif (fun h => { h with ready := true, pollFrom := s.time.ns })).onSys (fun y => { y with resume := false })
  let s := s.placeTemps
  let s := if resumed then (List.range 512).foldl (fun (s : State) l => s.placePatrol l)
      (s.onHif (fun h => { h with sqs := h.sqs.map (fun q => (q.1, { q.2 with polled := s.time.ns })) }))
    else (List.range 512).foldl (fun (s : State) l => s.setPeriod l (fld s.cal.patrolCfg 16 16)) s
  if s.hif.enableDue && bit s.hif.cfg 0 then s.readTable else s.startAgain

/-- START_UP_READY (R374 step 11, R420). -/
def execStartUpReady (s : State) : Res :=
  onlyIf (s.live && !s.hif.ready && s.spm.booted && s.sys.wasters && s.sys.restored && !s.pwr.padHeld &&
      (List.range 512).all (fun l => (s.lun l).die.isNone || (s.lun l).checked) && s.cal.pending == 0 &&
      s.cal.active == 0 && (List.range 32).all (fun c => !s.untrained c)) State.becomeReady s

end Sys2Proof.Machine
end

