-- ==== Sys2Proof/Machine/Relay.lean ====
section
/-! DEFINITION. The relay link (14_relay_and_systems.md R344-R363): bringing a link up and losing it, the frames received
at both ends, transfers, timers. -/

namespace Sys2Proof.Machine

/-! ## Bringing a link up -/

/-- The HELLO frame of an end (R348, R360). -/
def State.helloFrame (s : State) (l : Link) : RFrame :=
  { mkFrame 6 with
      boot := s.rly.boot, size := Nat.log2 l.size, pers := (if l.target then 2 else 1), resume := l.kept, mask := l.mask }

/-- The host end opens its link with a HELLO frame (R346, R360). -/
def State.openLink (b : Nat) (s : State) : State :=
  match s.link? b with
  | none => s
  | some l =>
    if l.target then s
    else (s.onLink b (fun l =>
      { l with st := .bringing, helloSent := true, sending := [], retryQ := [],
               txq := s.helloFrame l :: l.txq.filter sequenced })).fillChannels b

/-- A relay channel's training has passed (R346, R357): it enters bundle service, and the host end opens a link that is
down, or tells its partner the new mask where it returns to one that is up (R348); the silence timers start. -/
def State.linkTrained (ch : Nat) (s : State) : State :=
  match s.bundleOf ch with
  | none => s
  | some b =>
    match s.link? b with
    | none => s
    | some l =>
      if l.target then s
      else
        let s := s.onLink b (fun l =>
          { l with mask := l.mask ||| (1#8 <<< (ch - b)), lastRx := SMap.set l.lastRx ch s.time.ns,
                   lastTx := SMap.set l.lastTx ch s.time.ns, st := if l.st = .hold then .up else l.st, trainAsked := none })
        if l.st == .down || l.st == .mismatch then s.openLink b
        else if (l.st == .up || l.st == .hold) && !bit l.mask (ch - b) then
          (s.onLink b (fun m => { m with txq := s.helloFrame m :: m.txq })).fillChannels b
        else s.fillChannels b

/-- RLY_EVENT and source 4 (R357, R369): the link went down or came up. -/
def State.linkEvent (b : Nat) (s : State) : State :=
  let was := bit s.rly.event b
  let s := s.onRly (fun r => { r with event := r.event ||| (1#32 <<< b) })
  if was then s else s.raise 4

/-! ## Losing a link -/

/-- RELAY_HOLD in ns (R369). -/
def State.holdNs (s : State) : Nat := 1000000 * min 100 (max 1 (fld s.rly.cfg 16 8))

/-- RETRY_US in ns (R369). -/
def State.retryNs (s : State) : Nat := 1000 * min 5 (max 1 (fld s.rly.cfg 0 4))

/-- The units of a bundle at its upstream end. -/
def State.bundleUnits (s : State) (b : Nat) : List (Nat × LUnit) :=
  s.ldg.units.filter (fun e => e.2.bundle == some b && !ended e.2)

/-- A unit that is ISSUED or later is parked (R317, R361). -/
def State.park (ix : Nat) (s : State) : State :=
  s.onUnit ix (fun u => if u.won then { u with st := .parked } else u)

/-- Retire an owner's unit unissued, its result a RETRACT (R362). -/
def State.retract (ctx ix : Nat) (s : State) : State :=
  match s.unit? ix with
  | none => s
  | some u =>
    let s := (s.onCmd ctx (fun c => { c with loss := 1 })).endUnit ix .done .ok 0
    let s := (s.release u.pecks).onUnit ix (fun u => { u with pecks := [], dmaLeft := [] })
    let s := match u.bundle with
      | some b => s.onLink b (fun l => { l with waiting := l.waiting.filter (· != ix) })
      | none => s
    s.originDone ctx

/-- The data of a read or RAW that an owner has still to send are discarded, and their pecks are free (R362). A frame that has its SEQ
stays in the retry buffer. -/
def State.discardData (ix : Nat) (o : Origin) (s : State) : State :=
  let s := s.onLink o.bundle (fun l =>
    { l with txq := l.txq.filter (fun f => !(f.typ == 2 && f.entry == o.entry && f.gen == o.gen)) })
  match s.unit? ix with
  | some u => u.dmaLeft.foldl (fun (s : State) d => s.dmaLess ix d.1 d.2) s
  | none => s

/-- The data of a relayed unit is discarded, and its command remembers which result its loss leaves (R362). -/
def State.loseData (s : State) (ctx ix loss : Nat) : State :=
  let s := s.onCmd ctx (fun c => { c with loss := loss })
  match (s.cmd? ctx).bind Cmd.origin with
  | some o => s.discardData ix o
  | none => s

/-- Take a held unit to its safe point (R362). -/
def State.ownerSafe (s : State) (ctx : Nat) : State :=
  match s.cmd? ctx with
  | none => s
  | some c =>
    if c.cqPos.isSome then s
    else match c.op, s.unitsOf c with
      | .calibrate, _ => s
      | .patrolNow, _ => s
      | .fold, _ => s
      | .erase, _ => s
      | .raw, (ix, u) :: _ =>
        if unissued u then s.retract ctx ix
        else if entRawOut c.raw then s
        else s.loseData ctx ix 2
      | .program, (ix, u) :: _ => if u.dmaDone then s else s.retract ctx ix
      | .programSlc, (ix, u) :: _ => if u.dmaDone then s else s.retract ctx ix
      | _, (ix, u) :: _ => if unissued u then s.retract ctx ix else s.loseData ctx ix 1
      | _, [] => s

/-- The link of a bundle goes down (R357, R361, R362): units are parked or made safe, RELAY_HOLD starts, and the session is
kept. The host end begins again with Read ID (R346). -/
def State.linkDown (b : Nat) (s : State) : State :=
  match s.link? b with
  | none => s
  | some l =>
    let s := s.onLink b (fun l =>
      { l with st := .down, kept := true, holdDue := some (s.after s.holdNs), identified := [], mask := 0, sending := [],
               retryQ := [], txq := l.txq.filter sequenced, toTrain := [], nakDue := false, helloSent := false,
               trainAsked := none, trainDue := none, crcRun := [] })
    let s := s.linkEvent b
    if l.target then l.held.foldl State.ownerSafe s
    else (s.bundleUnits b).foldl (fun (s : State) e => s.park e.1) s

/-- A unit of a bundle completes RELAY_LOST (R360, R361, R370). -/
def State.relayLost (s : State) (ix : Nat) : State :=
  (s.onRly (fun r => { r with lostCnt := r.lostCnt + 1 })).endUnder ix .relayLost 0

/-- Every PARKED and QUEUED unit of a bundle completes RELAY_LOST. -/
def State.loseUnits (b : Nat) (s : State) : State :=
  ((s.bundleUnits b).filter (fun e => e.2.st == .parked || e.2.st == .queued)).foldl (fun s e => s.relayLost e.1) s

/-- Discard a bundle's session state (R360-R362): sequence state, retry buffer, credits and results log; later results of
the old session are dropped. Pecks behind DATA_CREDIT, and those of DATA frames ahead of a gap, are released. -/
def State.dropSession (b : Nat) (s : State) : State :=
  match s.link? b with
  | none => s
  | some l =>
    let s := s.onLink b (fun l =>
      { Link.fresh l.target l.size with
          st := l.st, mask := l.mask, partner := l.partner, identified := l.identified, helloSent := l.helloSent,
          txq := l.txq.filter (fun f => !sequenced f), dataAsked := l.dataAsked, lastRx := l.lastRx, lastTx := l.lastTx,
          crcRun := l.crcRun, sending := l.sending, polled := l.polled, pins := l.pins, toTrain := l.toTrain, trainAsked := l.trainAsked,
          trainDue := l.trainDue })
    let s := s.release (l.dataPecks ++ if l.target then l.reorder.filterMap Prod.snd else [])
    l.held.foldl (fun (s : State) ctx =>
      s.onCmd ctx (fun c => { c with acked := c.acked || c.cqPos.isSome })) s

/-- Send the results of the log that the retry buffer does not hold (R360, R362). -/
def State.sendLog (b : Nat) (s : State) : State :=
  match s.link? b with
  | none => s
  | some l =>
    let there (f g : RFrame) : Bool := f.typ == 3 && f.entry == g.entry && f.gen == g.gen
    if !l.target then s
    else s.onLink b (fun l =>
      { l with txq := l.txq ++ (l.log.map Result.frame).filter (fun g =>
          !(l.unacked.map Prod.fst).any (fun f => there f g) && !l.txq.any (fun f => there f g)) })

/-- A PARKED unit is QUEUED and issued again at once, without a new frame (R317, R325, R360); one whose result had already come goes on
with its data (log 89). -/
def State.unpark (s : State) (ix : Nat) : State :=
  let s := s.onUnit ix (fun u => { u with st := if u.relayDone then .dma else .issued })
  match (s.unit? ix).bind LUnit.ctx with
  | some ctx => if (s.unitIs LUnit.relayDone ix) then s.settle ctx else s
  | none => s

/-- The link comes up (R360): the session resumes where both ends hold it under the same boot numbers, and its PARKED units are issued
again; a new session begins otherwise. The HELLO with which a target answers shows its new mask (R348). -/
def State.linkUp (b : Nat) (f : RFrame) (s : State) : State :=
  match s.link? b with
  | none => s
  | some l =>
    let host := if l.target then f.boot else s.rly.boot
    let tgt := if l.target then s.rly.boot else f.boot
    let resumes := l.kept && f.resume && l.host == host && l.tgt == tgt
    let s := if resumes then s else ((s.loseUnits b).dropSession b)
    let s := s.onLink b (fun l =>
      { l with st := .up, host := host, tgt := tgt, kept := true, resumed := resumes, partner := f.src, holdDue := none,
               mask := if l.target then f.mask else l.mask,
               txq := (if l.target then [s.helloFrame { l with mask := f.mask }] else []) ++ l.txq })
    let s := match s.link? b with
      | some l => s.onLink b (fun l' =>
          { l' with lastRx := (l.channels b).foldl (fun (m : SMap Ns) c => SMap.set m c s.time.ns) l'.lastRx,
                    lastTx := (l.channels b).foldl (fun (m : SMap Ns) c => SMap.set m c s.time.ns) l'.lastTx })
      | none => s
    let s := s.linkEvent b
    if resumes then
      let s := (s.onRly (fun r => { r with resumeCnt := r.resumeCnt + 1 })).sendLog b
      let s := ((s.bundleUnits b).filter (fun e => e.2.st == .parked)).foldl (fun (s : State) e => s.unpark e.1) s
      (s.replayFrames b).relayPump b
    else ((s.onLink b Link.grantCmds).askCredit b).relayPump b

/-! ## Frames received -/

/-- HOLD CPK cycles of a pair's rate, and 4 µs, in ns (R358). -/
def State.cyclesNs (s : State) (k cycles : Nat) : Nat :=
  let rate := (([800, 1200, 1600, 2400, 3200, 3600, 4800] : List Nat)[(s.pair k).rate]?).getD 800
  (cycles * 2000 + rate - 1) / rate

/-- A frame with a good CRC has come in on a channel (R350, R351, R357, R358): the channel is not silent; within the
session its ACK and NAK are taken, and its credits where they are newer. The first frame behind a TRAIN frame acknowledges it; a frame that comes to
the target end ends its training hold (log 25). -/
def State.rxGood (b ch : Nat) (f : RFrame) (s : State) : State :=
  match s.link? b with
  | none => s
  | some l =>
    let s := s.onLink b (fun l =>
      { l with lastRx := SMap.set l.lastRx ch s.time.ns, crcRun := SMap.erase l.crcRun ch })
    if !(l.st == .up || l.st == .hold) || f.bootHost ≠ l.host || f.bootTarget ≠ l.tgt then s
    else
      let s := s.onLink b (fun l =>
        if l.target then { l with st := if f.typ = 7 then l.st else .up }
        else
          let l := { l with cmdCredit := if beyond f.cmdCredit l.cmdCredit then f.cmdCredit else l.cmdCredit,
                            dataCredit := if beyond f.dataCredit l.dataCredit then f.dataCredit else l.dataCredit }
          match l.trainAsked with
          | some (k, c) =>
            if l.trainDue.isNone && l.toTrain.isEmpty then
              { l with st := .hold, trainDue := some (s.after (s.cyclesNs k c + 4000)) }
            else l
          | none => l)
      let raws := if l.target then [] else s.ldg.units.filter (fun e => e.2.bundle == some b && e.2.kind == .raw)
      let s := s.ackUpTo b f.ack
      let s := raws.foldl (fun (s : State) e => s.rawRefill e.1) s
      let s := if f.nak then s.replayFrames b else s
      s.relayPump b

/-- The FREE entries of lowest index, for commands that leave the reorder store (log 26). -/
def State.lowFree (s : State) (n : Nat) : List Nat := ((List.range (s.inUse + n)).filter s.isFree).take n

/-- Begin an owner's command that runs on this instance (R355): the checks of R97 that depend on the die type, then its
unit is linked; one that brings data waits for its DATA frames. -/
def State.ownLocal (ctx ix : Nat) (c : Cmd) (s : State) : State :=
  let ok := match dieOf s (faLun (entAddr c.raw)) with
    | some d => dieOk d c.op c.raw
    | none => false
  if !ok then (s.onCmd ctx (fun c => { c with whole := some .invalidDescriptor })).originDone ctx
  else match c.op with
    | .calibrate => s.beginCalibrate ctx false
    | .patrolNow => s
    | _ =>
      let s := s.takeUnit ix (unitKind c.op) (some ctx) 0 (unitAddr c.op c.raw 0) (unitSel c.op c.raw)
      if opPrograms c.op then s.onUnit ix (fun u => { u with st := .dma })
      else if c.op = .raw then
        if entRawOut c.raw then
          (s.onUnit ix (fun u => { u with dmaDone := entRawLen c.raw == 0, dmaLeft := srcLefts c })).tryLink ix
        else
          let s := (s.onUnit ix (fun u => { u with dmaDone := true })).tryLink ix
          s.askPecks (faChan (entAddr c.raw)) ix (rawPecks c)
      else s.tryLink ix

/-- Send an owner's command onward (R30, R355): ROUTE_UNKNOWN behind two hops or without a route. -/
def State.ownOnward (ctx ix : Nat) (c : Cmd) (hops : Nat) (s : State) : State :=
  match if 2 ≤ hops then none else s.routeOf (faInst (entAddr c.raw)) with
  | none => (s.onCmd ctx (fun c => { c with whole := some .routeUnknown })).originDone ctx
  | some b =>
    let s := s.takeUnit ix (unitKind c.op) (some ctx) 0 (entAddr c.raw) (unitSel c.op c.raw)
    let s := s.bindBundle ix b
    if opPrograms c.op then s.onUnit ix (fun u => { u with st := .dma })
    else if c.op = .raw ∧ entRawOut c.raw ∧ entRawLen c.raw ≠ 0 then
      (s.onUnit ix (fun u => { u with dmaLeft := srcLefts c })).relayQueue ix
    else s.relayQueue ix

/-- Accept a COMMAND frame (R30, R353, R355): a one-unit command with five context entries and one unit entry. -/
def State.takeCommand (b : Nat) (f : RFrame) (ixs : List Nat) (s : State) : State :=
  let e := BitVec.ofNat 512 (num f.payload 0 64)
  let op := opOf (entOp e)
  let o : Origin := { bundle := b, entry := f.entry, gen := f.gen, hops := f.hops }
  let s := s.takeCmd (ixs.take 5) (fun g =>
    { Cmd.fresh op e 0 0 0 g (ixs.take 5) s.time.ns f.remain.toNat s.ldg.nextSeq with
        origin := some o, pred := if f.pred then some (BitVec.ofNat 1024 (num f.payload 64 128)) else none })
  match ixs with
  | c0 :: _ :: _ :: _ :: _ :: ix :: _ =>
    let s := s.onLink b (fun l => ({ l with cmdRecv := l.cmdRecv + 1, held := l.held ++ [c0] }).grantCmds)
    match s.cmd? c0 with
    | some c =>
      if faInst (entAddr e) = s.sys.instance_.toNat then s.ownLocal c0 ix c else s.ownOnward c0 ix c f.hops
    | none => s
  | _ => s

/-- Put a DATA frame's payload into a peck, the slot header rewritten with the receiver's own values (R349); CODEWORD is 0 for a sherd and
for RAW (R10, R171). -/
def State.fillPeck (p ix : Nat) (u : LUnit) (f : RFrame) (s : State) : State :=
  let kind := num f.payload 2 1
  s.onPeck p (fun k =>
    { k with alloc := true, length := f.payload.length - 24, kind := kind,
             flags := BitVec.ofNat 8 (num f.payload 3 1), entry := ix, gen := u.gen, cw := num f.payload 10 1,
             iter := num f.payload 12 1, step := num f.payload 13 1, addr := faWithCw u.addr (if kind = 1 ∨ kind = 2 then 0 else f.cw.toNat),
             payload := f.payload.drop 24 })

/-- The owner's unit that a frame of a bundle names. -/
def State.ownerUnit (s : State) (b : Nat) (f : RFrame) : Option (Nat × LUnit) :=
  s.ldg.units.find? (fun e => !ended e.2 && (match (s.cmdOf e.2).bind Cmd.origin with
    | some o => o.bundle == b && o.entry == f.entry && o.gen == f.gen
    | none => false))

/-- A peck of a full RAW whose packet has left the egress queue makes room for the next (R173). -/
def State.rawRoom (ix : Nat) (u : LUnit) (s : State) : State :=
  match u.pecks with
  | p :: ps =>
    if u.bundle.isNone && 16 ≤ u.pecks.length && u.src < (s.lun (faLun u.addr)).rawMoved / 4584 then
      (s.release [p]).onUnit ix (fun u => { u with pecks := ps, src := u.src + 1 })
    else s
  | [] => s

/-- A DATA frame at the owner (R349, R351): it fills a peck behind DATA_CREDIT, `held` where it came ahead of a gap; a program page goes on with its last, a RAW
with each. A frame whose unit has ended leaves its credit standing. -/
def State.ownerData (b : Nat) (f : RFrame) (held : Option Nat) (s : State) : State :=
  match s.link? b with
  | none => s
  | some l =>
    match held.toList ++ l.dataPecks with
    | [] => s
    | p :: ps =>
      match s.ownerUnit b f with
      | none => s.onLink b (fun l => { l with dataPecks := ps ++ [p], dataCredit := l.dataCredit + 1, creditDue := true })
      | some (ix, u) =>
        let s := (s.fillPeck p ix u f).onLink b (fun l => { l with dataPecks := ps })
        let raw := u.kind == .raw
        let s := if raw then s.rawRoom ix u else s
        let s := s.onUnit ix (fun u =>
          { u with pecks := u.pecks ++ [p], dmaDone := f.last,
                   dmaLeft := if raw then u.dmaLeft.filter (fun d => d.1 % 256 != f.cw.toNat) else [] })
        let s := s.askCredit b
        match u.bundle with
        | some x => if raw then s.relayPump x else if f.last then s.relayQueue ix else s
        | none =>
          if raw then s.headEvent (faLun u.addr)
          else if f.last then s.tryLink ix
          else s

/-- The peck that a DATA frame fills at the upstream end (R349): a RAW's fill in turn. -/
def State.upstreamPeck (s : State) (f : RFrame) : Option Nat :=
  match s.unit? f.entry with
  | none => none
  | some u =>
    if u.gen ≠ f.gen || u.bundle.isNone || ended u then none
    else if u.kind == .raw then u.pecks[f.cw.toNat % max 1 u.pecks.length]?
    else s.peckOf f.entry (if u.kind == .readSherd then 4 else f.cw.toNat)

/-- A DATA frame at the upstream end (R349, R354): its bytes go on to the chain, the stream or the next instance. `src`
counts the packets of a RAW. -/
def State.upstreamData (f : RFrame) (s : State) : State :=
  match s.unit? f.entry with
  | none => s.stale
  | some u =>
    if u.gen ≠ f.gen || u.bundle.isNone || ended u then s.stale
    else
      match u.ctx, s.cmdOf u with
      | some ctx, some c =>
        let n := f.payload.length - 24
        let raw := u.kind == .raw
        let cw := if u.kind == .readSherd then 4 else f.cw.toNat
        let s := match s.upstreamPeck f with
          | some p => s.fillPeck p f.entry u f
          | none => s
        let s := s.onUnit f.entry (fun u =>
          { u with st := if f.last && (u.kind.reads || raw) then .dma else .data, src := if raw then u.src + 1 else u.src,
                   decided := true, dmaDone := u.dmaDone || u.kind == .readSherd,
                   place := if u.place.isNone then some true else u.place,
                   cwOk := if raw || u.kind == .readSherd then u.cwOk else u.cwOk ||| (1#4 <<< f.cw.toNat) })
        let off := if raw then 4584 * u.src else if u.kind == .readSherd then 0 else cwOffset c u f.cw.toNat
        (s.giveOut ctx f.entry cw off ((f.payload.drop 24).take n) f.last).settle ctx
      | _, _ => s

/-- A retracted unit is sent again, with its data where it has them (R325, R362). -/
def State.sendAgain (ix : Nat) (s : State) : State :=
  let s := s.unaccount ix
  (s.onUnit ix (fun u =>
    { u with won := false, contested := false, relaySent := false, relayNext := 0, cwOk := 0, dmaLeft := [], src := 0,
             recSent := false, dmaDone := u.dmaDone && !u.kind.reads })).relayQueue ix

/-- A scan page with this status has passed its decision, whatever its body gave (R285). -/
def bodied (st : Status) : Bool :=
  st == .ok || st == .okSoft || st == .uncorrectable || st == .erasedPage || st == .tagMismatch

/-- A COMPLETION frame at the upstream end (R348, R354, R362): the decision of a page sent as READ_SCAN is the owner's, and
one that passed takes its place though no data came, whatever its status where the code says that it passed (R284, R285). A
RELAY_LOST is counted (R370). -/
def State.upstreamDone (f : RFrame) (s : State) : State :=
  match s.unit? f.entry with
  | none => s.stale
  | some u =>
    if u.gen ≠ f.gen || u.bundle.isNone || ended u || u.relayDone then s.stale
    else if bit f.cflags 3 then s.sendAgain f.entry
    else
      let st := Status.ofCode f.status.toNat
      let scan := (s.cmdOf u).any (fun c => bindsPred c.op c.raw)
      let s := if st == .relayLost then s.onRly (fun r => { r with lostCnt := r.lostCnt + 1 }) else s
      let s := s.onUnit f.entry (fun u =>
        { u with iter := f.iter, stepMax := f.refire, soft := bit f.cflags 0, replayed := u.replayed || bit f.cflags 2,
                 dec := if scan then f.decision else u.dec, rows := f.rows, decided := true, relayDone := true,
                 place := if scan && u.kind == .readScan && u.place.isNone && f.decision != 1 &&
                     (bodied st || (2 ≤ f.decision && f.decision ≤ 6)) then some true
                   else u.place })
      let s := match u.ctx, u.kind with
        | some ctx, .patrol => s.onCmd ctx (fun c => { c with doneCount := some f.doneCount, whole := some st })
        | some ctx, .internal => s.onCmd ctx (fun c => { c with doneCount := some f.doneCount, whole := some st })
        | _, _ => s
      let data := u.kind == .read || u.kind == .readScan || u.kind == .readSherd || u.kind == .readStream
      if data && (st == .ok || st == .okSoft) then
        match u.ctx, s.cmdOf u with
        | some ctx, some c =>
          if c.origin.isSome then s.endUnder f.entry st 0
          else (s.onUnit f.entry (fun u => { u with st := .dma })).settle ctx
        | _, _ => s
      else s.endUnder f.entry st f.failCw

/-- Accept one sequenced frame (R350), whose data stand in the peck `held` where it came ahead of a gap. -/
def State.takeFrame (b : Nat) (f : RFrame) (held : Option Nat) (ixs : List Nat) (s : State) : State :=
  let s := s.onLink b (fun l => { l with rxSeq := l.rxSeq + 1, creditDue := true })
  match s.link? b with
  | none => s
  | some l =>
    if l.target then
      if f.typ = 1 then s.takeCommand b f ixs else if f.typ = 2 then s.ownerData b f held else s
    else if f.typ = 2 then s.upstreamData f
    else if f.typ = 3 then s.upstreamDone f
    else s

/-- A frame ahead of a gap (R350): its data go into the peck that it fills, at the owner the next behind DATA_CREDIT, and the rest into
the reorder store. -/
def State.holdAhead (b : Nat) (f : RFrame) (s : State) : State :=
  match s.link? b with
  | none => s
  | some l =>
    let p := if f.typ ≠ 2 then none else if l.target then l.dataPecks.head? else s.upstreamPeck f
    match p with
    | none => s.onLink b (fun l => { l with reorder := l.reorder ++ [(f, none)] })
    | some p =>
      (s.onPeck p (fun k => { k with payload := f.payload.drop 24 })).onLink b (fun l =>
        { l with dataPecks := if l.target then l.dataPecks.tail else l.dataPecks,
                 reorder := l.reorder ++ [({ f with payload := f.payload.take 24 }, some p)] })

/-- A frame of the reorder store, with the data that its peck holds. -/
def State.heldFrame (s : State) (q : RFrame × Option Nat) : RFrame :=
  match q.2 with
  | some p => { q.1 with payload := q.1.payload ++ pad (num q.1.payload 0 2) (s.peck p).payload }
  | none => q.1

/-- Accept the frames of the reorder store that now follow in order (R350), at most its 64; a COMMAND frame waits while fewer than six
entries are FREE (R355). -/
def State.drainReorder (b : Nat) : Nat → State → State
  | 0, s => s
  | n + 1, s =>
    match s.link? b with
    | none => s
    | some l =>
      match takeFirst (fun (q : RFrame × Option Nat) => q.1.seq == l.rxSeq) l.reorder with
      | none => s
      | some (q, r) =>
        let ixs := if q.1.typ = 1 then s.lowFree 6 else []
        if q.1.typ = 1 ∧ ixs.length < 6 then s
        else State.drainReorder b n ((s.onLink b (fun l => { l with reorder := r })).takeFrame b (s.heldFrame q)
          (if l.target then q.2 else none) ixs)

/-- A sequenced frame (R350): taken in SEQ order, held ahead of a gap, discarded outside the window or when already
accepted. -/
def State.rxSequenced (b ch : Nat) (f : RFrame) (ixs : List Nat) (s : State) : State :=
  let s := s.rxGood b ch f
  match s.link? b with
  | none => s
  | some l =>
    if !(l.st == .up || l.st == .hold) || f.bootHost ≠ l.host || f.bootTarget ≠ l.tgt then s
    else
      let d := (f.seq - l.rxSeq).toNat
      if d = 0 then
        (((s.onLink b (fun l => { l with reorder := l.reorder.filter (fun q => q.1.seq != f.seq) })).takeFrame b f none ixs).drainReorder
          b 64).fillChannels b
      else if d < 64 && !l.reorder.any (fun q => q.1.seq == f.seq) then (s.holdAhead b f).drainReorder b 64
      else s.drainReorder b 64

/-- A channel leaves bundle service (R352, R357): its unacknowledged frames are replayed on the others, and at the host
end its pair is to be trained. -/
def State.leaveService (ch : Nat) (l : Link) (s : State) : State :=
  let s := s.leaveMask ch
  if l.target then s else s.askTraining (ch / 2)

/-- A frame is discarded for its CRC or TYPE (R347, R350, R357): it is counted, a NAK follows; the sixteenth in succession takes
the channel out of service. -/
def State.badFrame (b ch : Nat) (l : Link) (s : State) : State :=
  let n := SMap.getD l.crcRun ch 0 + 1
  let s := (s.onRly (fun r => { r with crcCnt := r.crcCnt + 1 })).onLink b (fun l =>
    { l with nakDue := true, crcRun := SMap.set l.crcRun ch n })
  if 16 ≤ n && (l.channels b).contains ch then s.leaveService ch l else s.fillChannels b

/-- A frame of a TYPE comes in on a channel of a bundle in service; one of a TYPE that R347 does not give is discarded. -/
def relayRx (ch typ : Nat) (f : RFrame) (go : Nat → Link → State → State) (s : State) : Res :=
  match s.bundleOf ch with
  | none => .next s
  | some b =>
    match s.link? b with
    | none => .next s
    | some l =>
      onlyIf (s.live && !(s.chan ch).fenced) (fun s =>
        if f.typ = typ then go b l s else if f.typ = 0 ∨ 7 < f.typ then s.badFrame b ch l else s) s

/-- RAWs whose data-in stands still for want of lines go on, on every channel (R181, R182). -/
def State.resumeAll (s : State) : Option State :=
  (s.che.flatMap (fun e => (e.2.grant.toList ++ e.2.next.toList).map Grant.lun)).foldl
    (fun (o : Option State) l => o.bind (·.resumeStarved l)) (some s)

/-- A row that may bring RAW data, with what it sets going where the block is in service. -/
def thenResume (r : Res) : Res :=
  match r with
  | .next s => if s.live then runRes s.resumeAll else .next s
  | r => r

/-- RELAY_COMMAND_FRAME (R353, R355): `ctx` are the FREE entries it takes, five context entries and a unit entry. -/
def execRelayCommandFrame (ch : Nat) (f : RFrame) (ctx : List Nat) (s : State) : Res :=
  thenResume (relayRx ch 1 f (fun b l s =>
    if l.target && s.ldg.halted = false && ctx.length == 6 && ctx.Nodup && ctx.all s.isFree then s.rxSequenced b ch f ctx
    else s) s)

/-- RELAY_DATA_FRAME (R349, R354). -/
def execRelayDataFrame (ch : Nat) (f : RFrame) (s : State) : Res :=
  thenResume (relayRx ch 2 f (fun b _ s => s.rxSequenced b ch f []) s)

/-- RELAY_COMPLETION_FRAME (R354, R362). -/
def execRelayCompletionFrame (ch : Nat) (f : RFrame) (s : State) : Res :=
  relayRx ch 3 f (fun b l s => if l.target then s else s.rxSequenced b ch f []) s

/-- RELAY_CREDIT_FRAME (R351). -/
def execRelayCreditFrame (ch : Nat) (f : RFrame) (s : State) : Res := relayRx ch 4 f (fun b _ s => s.rxGood b ch f) s

/-- RELAY_HEARTBEAT_FRAME (R357). -/
def execRelayHeartbeatFrame (ch : Nat) (f : RFrame) (s : State) : Res := relayRx ch 5 f (fun b _ s => s.rxGood b ch f) s

/-- RELAY_HELLO_FRAME (R344, R360): another SIZE is a MISMATCH, which takes down a link that is up, and which a target end lets its
partner see by its answer. On a link that is up, a HELLO of the same session gives the
mask alone; one of another session is a loss of the link first. -/
def execRelayHelloFrame (ch : Nat) (f : RFrame) (s : State) : Res :=
  relayRx ch 6 f (fun b l s =>
    let s := s.onLink b (fun l => { l with lastRx := SMap.set l.lastRx ch s.time.ns, crcRun := SMap.erase l.crcRun ch })
    if f.pers ≠ (if l.target then 1 else 2) then s
    else if f.size ≠ Nat.log2 l.size then
      let s := if l.st == .up || l.st == .hold then s.linkDown b else s
      s.onLink b (fun l => { l with st := .mismatch, sending := [], txq := (if l.target then [s.helloFrame l] else []) ++ l.txq.filter sequenced })
    else if l.st == .up || l.st == .hold then
      let fresh := l.rxSeq == 0 && l.cmdRecv == 0
      if (if l.target then l.host else l.tgt) == f.boot && (!l.target || f.resume || fresh) then
        if l.target then
          (s.onLink b (fun m => { m with mask := f.mask, txq := s.helloFrame m :: m.txq })) else s
      else
        let s := s.linkDown b
        if l.target then s.linkUp b f else s
    else if l.target || (l.st == .bringing && l.helloSent) then s.linkUp b f
    else s) s

/-- RELAY_TRAIN_FRAME (R358): the target end acknowledges it and holds; silence does not count until the hold ends. -/
def execRelayTrainFrame (ch : Nat) (f : RFrame) (s : State) : Res :=
  relayRx ch 7 f (fun b l s =>
    let s := s.rxGood b ch f
    if l.target && (l.st == .up || l.st == .hold) && f.bootHost = l.host && f.bootTarget = l.tgt then
      s.onLink b (fun l =>
        { l with st := .hold, creditDue := true, trainDue := some (s.after (s.cyclesNs (ch / 2) f.hold + 4000)) })
    else s) s

/-- RELAY_BAD_FRAME (R347, R350, R357). -/
def execRelayBadFrame (ch : Nat) (s : State) : Res :=
  match s.bundleOf ch with
  | none => .next s
  | some b =>
    match s.link? b with
    | none => .next s
    | some l => onlyIf (s.live && !(s.chan ch).fenced) (·.badFrame b ch l) s

/-! ## Transfers and timers -/

/-- RELAY_READ_ID_POLL (R346): every 100 µs after start-up, on a channel of a host bundle whose partner has not answered.
Once the bundle's channels of a pair have all answered, the pair is to be trained. -/
def execRelayReadIdPoll (ch : Nat) (id : List Byte) (s : State) : Res :=
  match s.bundleOf ch with
  | none => .next s
  | some b =>
    match s.link? b with
    | none => .next s
    | some l =>
      let due := match SMap.get? l.polled ch with
        | some t => s.passed t 100000
        | none => true
      onlyIf (s.live && s.hif.ready && !l.target && !(s.chan ch).fenced && !l.identified.contains ch && due) (fun s =>
        let s := s.onLink b (fun l => { l with polled := SMap.set l.polled ch s.time.ns })
        if num id 2 1 ≠ 0x52 then s
        else
          let ids := l.identified ++ [ch]
          let s := s.onLink b (fun l => { l with identified := ids })
          let mine := ([ch / 2 * 2, ch / 2 * 2 + 1]).filter (fun c => b ≤ c && c < b + l.size && !(s.chan c).fenced)
          if mine.all ids.contains then s.askTraining (ch / 2) else s) s

/-- TARGET_READ_ID (R346): a target-personality channel answers with its eight identity bytes. -/
def execTargetReadId (ch : Nat) (s : State) : Res :=
  match (s.bundleOf ch).bind s.link? with
  | none => .next s
  | some l =>
    onlyIf (s.live && l.target) (fun s =>
      let i := s.sys.instance_.toNat
      s.onRly (fun r =>
        { r with lastId := [0x7A, 0x0B, 0x52, BitVec.ofNat 8 l.size, BitVec.ofNat 8 i, BitVec.ofNat 8 (i / 256), 0, 0] })) s

/-- A pull is due on a free channel of a link (R345): RB_N is low, or the host end has not pulled there for 2 µs. -/
def State.pullDue (s : State) (b : Nat) (l : Link) (ch : Nat) (rbLow : Bool) : Bool :=
  !l.target && (l.st == .up || l.st == .bringing) && (l.channels b).contains ch && !bit s.cal.active (ch / 2) &&
    (s.pair (ch / 2)).inService && (SMap.get? l.sending ch).isNone &&
    (rbLow || (match SMap.get? l.polled ch with
      | some t => s.passed t 2000
      | none => true))

/-- Begin a pull transfer on a channel, with C5h (R345). -/
def State.startPull (b ch : Nat) (s : State) : State :=
  s.onLink b (fun l =>
    { l with polled := SMap.set l.polled ch s.time.ns, sending := SMap.set l.sending ch (mkFrame 0),
             pins := SMap.set l.pins ch [.cmd 0xC5] })

/-- RELAY_PULL_DUE (R345): RB_N is low, or the host end has not pulled on the channel for 2 µs. -/
def execRelayPullDue (ch : Nat) (rbLow : Bool) (s : State) : Res :=
  match s.bundleOf ch with
  | none => .next s
  | some b =>
    match s.link? b with
    | none => .next s
    | some l => onlyIf (s.live && s.pullDue b l ch rbLow) (·.startPull b ch) s

/-- TARGET_PULL (R345, R352, R357): the target end drives its next queued frame, or a HEARTBEAT; on a channel that has left the service of
a link that is up it drives no sequenced frame. Nothing while the pair trains or is out of service (R23, R258, R264). -/
def execTargetPull (ch : Nat) (s : State) : Res :=
  match s.bundleOf ch with
  | none => .next s
  | some b =>
    match s.link? b with
    | none => .next s
    | some l =>
      onlyIf (s.live && l.target && (SMap.get? l.sending ch).isNone && !(s.chan ch).fenced && !bit s.cal.active (ch / 2) &&
          (s.pair (ch / 2)).inService) (fun s =>
        match if l.st != .up || (l.channels b).contains ch then l.nextFrame else l.nextHello with
        | some (f, isNew, l') => (s.onLink b (fun _ => l')).sendOn b ch f isNew
        | none => s.sendOn b ch (mkFrame 5) true) s

/-- RELAY_TRANSFER_END (R345, R352): the channel is free; a pull that is due comes next, else the next queued frame. -/
def execRelayTransferEnd (ch : Nat) (rbLow : Bool) (s : State) : Res :=
  match s.bundleOf ch with
  | none => .next s
  | some b =>
    onlyIf s.live (fun s =>
      let s := s.onLink b (fun l => { l with sending := SMap.erase l.sending ch })
      let s := match s.link? b with
        | some l => if s.pullDue b l ch rbLow then s.startPull b ch else s
        | none => s
      s.fillChannels b) s

/-- RELAY_HEARTBEAT_DUE (R357): the host end has sent nothing on a channel for 2 µs; while the link is being brought up
its HELLO is sent again (log 27). The target end heartbeats in answer to pulls. -/
def execRelayHeartbeatDue (ch : Nat) (s : State) : Res :=
  match s.bundleOf ch with
  | none => .next s
  | some b =>
    match s.link? b with
    | none => .next s
    | some l =>
      let due := match SMap.get? l.lastTx ch with
        | some t => s.passed t 2000
        | none => true
      onlyIf (s.live && !l.target && (l.channels b).contains ch && (l.st == .up || l.st == .bringing) &&
          !bit s.cal.active (ch / 2) && (s.pair (ch / 2)).inService && (SMap.get? l.sending ch).isNone && due) (fun s =>
        s.sendOn b ch (if l.st == .bringing then s.helloFrame l else mkFrame 5) true) s

/-- RELAY_RETRY_TIMEOUT (R350, R369): the oldest unacknowledged frame has waited RETRY_US. -/
def execRelayRetryTimeout (ch : Nat) (s : State) : Res :=
  match s.link? ch with
  | none => .next s
  | some l =>
    match l.unacked.head? with
    | none => .next s
    | some (_, t) => onlyIf (s.live && l.st == .up && l.retryQ.isEmpty && s.passed t s.retryNs) (·.replayFrames ch) s

/-- A channel has been silent for 6 µs (R357). In a bundle of 4 or 8 channels those whose pair trains do not count (R259). -/
def State.silent (s : State) (l : Link) (ch : Nat) : Bool :=
  !(bit s.cal.active (ch / 2) && 4 ≤ l.size) && (match SMap.get? l.lastRx ch with
    | some t => s.passed t 6000
    | none => true)

/-- RELAY_CHANNEL_SILENT (R357). -/
def execRelayChannelSilent (ch : Nat) (s : State) : Res :=
  match s.bundleOf ch with
  | none => .next s
  | some b =>
    match s.link? b with
    | none => .next s
    | some l =>
      let cs := l.channels b
      onlyIf (s.live && l.st == .up && l.trainDue.isNone && cs.contains ch && s.silent l ch &&
          cs.any (fun c => !s.silent l c)) (·.leaveService ch l) s

/-- RELAY_LINK_DOWN (R357, R361, R362): every channel of the bundle has been silent for 6 µs, those that train in a bundle of
4 or 8 left out (R259). -/
def execRelayLinkDown (ch : Nat) (s : State) : Res :=
  match s.link? ch with
  | none => .next s
  | some l =>
    let cs := (List.range l.size).map (ch + ·)
    onlyIf (s.live && (l.st == .up || l.st == .hold) && l.trainDue.isNone &&
        cs.all (fun c => s.silent l c || (bit s.cal.active (c / 2) && 4 ≤ l.size)))
      (·.linkDown ch) s

/-- TRAIN_HOLD_EXPIRY (R358): silence counts again from now. -/
def execTrainHoldExpiry (ch : Nat) (s : State) : Res :=
  match s.link? ch with
  | none => .next s
  | some l =>
    onlyIf (s.live && l.trainDue.any s.reached) (fun s =>
      let active := match l.trainAsked with
        | some (k, _) => bit s.cal.active k
        | none => false
      s.onLink ch (fun l =>
        { l with trainDue := none, st := if l.st = .hold && !active then .up else l.st,
                 trainAsked := if active then l.trainAsked else none,
                 lastRx := (l.channels ch).foldl (fun (m : SMap Ns) c => SMap.set m c s.time.ns) l.lastRx })) s

/-- RELAY_HOLD_EXPIRY (R361, R362): the units are lost and the session is discarded. -/
def execRelayHoldExpiry (ch : Nat) (s : State) : Res :=
  match s.link? ch with
  | none => .next s
  | some l => onlyIf (s.live && l.holdDue.any s.reached) (fun s => (s.loseUnits ch).dropSession ch) s

end Sys2Proof.Machine
end

