-- ==== Sys2Proof/Machine/Train.lean ====
section
/-! DEFINITION. Channel interface training (09_channel_training.md R251-R265): the starting rate and interface (R67), when
a pair trains, what its pins carry, what its sweeps choose, the rate ladder; the training of a target-personality channel
(R346). -/

namespace Sys2Proof.Machine

/-! ## Who trains -/

/-- The channel belongs to a relay bundle. -/
def State.isRelay (s : State) (ch : Nat) : Bool := (s.bundleOf ch).isSome

/-- The counted CEs of a channel: those with a bound LUN; a host-bundle channel whose partner has answered counts as one. -/
def State.countedCes (s : State) (ch : Nat) : List Nat :=
  if (s.chan ch).fenced then []
  else match (s.bundleOf ch).bind s.link? with
    | some l => if !l.target && l.identified.contains ch then [0] else []
    | none => (List.range 8).filter (fun e =>
        (dieOf s (16 * ch + 2 * e)).isSome || (dieOf s (16 * ch + 2 * e + 1)).isSome)

/-- The channels of a pair that its training runs on. -/
def State.trainees (s : State) (k : Nat) : List Nat :=
  ([2 * k, 2 * k + 1]).filter (fun c =>
    !(s.countedCes c).isEmpty && (match (s.pair k).alone with
      | some a => a == c
      | none => true))

/-- Every counted CE of a channel has an available LUN (R257). -/
def State.cesAvailable (s : State) (ch : Nat) : Bool :=
  s.isRelay ch || (s.countedCes ch).all (fun e =>
    ([16 * ch + 2 * e, 16 * ch + 2 * e + 1]).any (fun l => (dieOf s l).isSome && (s.lun l).available))

/-- C of R256 in CPK cycles. -/
def State.trainCycles (s : State) (k : Nat) : Nat :=
  let e := max 1 (max (s.countedCes (2 * k)).length (s.countedCes (2 * k + 1)).length)
  let r := (s.pair k).rate
  if 4 ≤ r then 18176 + 9128 * e else if r = 3 then 9984 + 5032 * e else 1792

/-! ## The starting rate and interface -/

/-- The bound LUNs of a pair's flash channels, with their die types. -/
def State.pairLuns (s : State) (k : Nat) : List (Nat × DieType) :=
  (List.range 32).filterMap (fun i => (dieOf s (32 * k + i)).map (fun d => (32 * k + i, d)))

/-- The rate and interface of a pair (R67, R255): its code, whether NV-LPDDR4, the LUNs treated as unbound. R67 fixes
NV-LPDDR4 for a pair whose channels form a relay bundle; DESIGN CHOICE (log 102): a pair with one flash and one relay
channel is taken so too. -/
def State.chooseRate (s : State) (k : Nat) : Nat × Bool × List Nat :=
  let luns := s.pairLuns k
  let r := (s.img.rates[k]?).getD 0
  let r := if r = 6 && !luns.all (fun l => (s.lun l.1).ext) then 5 else r
  let cap (i : Nat) (l : Nat × DieType) : Bool := bit l.2.ifCaps i
  let relay := s.isRelay (2 * k) || s.isRelay (2 * k + 1)
  let a : Nat × Bool × List Nat :=
    if luns.all (cap 1) then (r, true, [])
    else if luns.all (cap 0) && !relay then (min r 1, false, [])
    else (r, true, (luns.filter (fun l => !cap 1 l)).map Prod.fst)
  let left := luns.filter (fun l => !a.2.2.contains l.1)
  (if left.all (fun l => bit l.2.caps 11 && bit l.2.caps 12) then a.1 else min a.1 2, a.2.1, a.2.2)

/-! ## What the pins carry -/

/-- Rates below 2,400 MT/s sweep nothing; at 2,400 every second point (R254). -/
def sweepStride (rate : Nat) : Nat := if rate = 3 then 2 else 1

/-- The counted CEs of a channel with their training LUNs: LUN 0 where it is available, else LUN 1 (R254). -/
def State.trainLuns (s : State) (ch : Nat) : List (Nat × Nat) :=
  (s.countedCes ch).map (fun e =>
    let a := 16 * ch + 2 * e
    (e, if (dieOf s a).isSome && (s.lun a).available then a else a + 1))

/-- Some bound LUN of a CE has a capability bit; a relay channel's partner has every one (R254). R255 speaks of the one die type of a
CE: DESIGN CHOICE (log 130), a CE whose two LUNs are of different types has what either has. -/
def State.ceCap (s : State) (ch e i : Nat) : Bool :=
  s.isRelay ch || ([16 * ch + 2 * e, 16 * ch + 2 * e + 1]).any (fun l => (dieOf s l).any (fun d => bit d.caps i))

/-- A CE's dies leave SDR: the set-features cycles of their pair's interface and rate, in SDR timing mode 0 (R66, R262, R264). -/
def State.setInterface (k c e : Nat) (s : State) : State :=
  let p := s.pair k
  ([16 * c + 2 * e, 16 * c + 2 * e + 1].foldl (fun (s : State) m => s.onLun m (fun t => { t with sdr := false })) s).addSetup
    c e [.sdr p.lpddr p.rate]

/-- The pair is brought back from a Cold state, where its dies kept their impedance: no ZQ Calibration Long and no wait behind it
(R420). A step-down is set up in full (R264). -/
def State.warmPair (s : State) (k : Nat) : Bool := s.sys.resume && !(s.pair k).stepDown

/-- ZQ Calibration Long, where a die of the CE has it (R255, R262). -/
def State.calibrateZq (k c e : Nat) (s : State) : State :=
  if s.ceCap c e 9 && !s.warmPair k then s.addSetup c e [.zqLong] else s

/-- SET_FEAT with a VrefQ step (R251); a relay channel's partner has no die's VrefQ (R259). -/
def State.driveVref (ch l n : Nat) (s : State) : Option State :=
  match if s.isRelay ch then none else dieOf s l with
  | some d => s.runSetUp l d none (setVref d n)
  | none => some s

/-- The pins of a counted CE in the sequence (R251, R254, R255): on the reference CE first the Vref sweeps, the write sweep
with one SET_FEAT for each step; then the chosen VrefQ, die DCC and the tap sweeps. -/
def State.trainCe (ch rate : Nat) (first : Bool) (vrefQ : BitVec 6) (e l : Nat) (s : State) : Option State :=
  let lead := if first then
      ((List.range 64).filter (fun i => i % sweepStride rate == 0)).foldl (fun (o : Option State) n =>
        (o.bind (State.driveVref ch l n)).map (State.addSetup ch e [.wrTrain])) (some (s.addSetup ch e [.rdTrain]))
    else some s
  (lead.bind (State.driveVref ch l vrefQ.toNat)).map (fun s =>
    (s.addSetup ch e (if s.ceCap ch e 10 then [.dieDcc] else [])).addSetup ch e [.rdTrain, .wrTrain])

/-- The pins of a channel in the training sequence, with the VrefQ that its write sweep chooses: every counted CE in turn, then the
confirmation sweeps of the reference CE; below 2,400 MT/s the channel's pins carry nothing (R254). -/
def State.trainPins (ch rate : Nat) (vrefQ : BitVec 6) (s : State) : Option State :=
  if rate < 3 then some s
  else
    ((s.trainLuns ch).foldl (fun (o : Option State) q =>
      o.bind (State.trainCe ch rate (some q.1 == (s.countedCes ch).head?) vrefQ q.1 q.2)) (some s)).map (fun t =>
      match (s.countedCes ch).head? with
      | some e => t.addSetup ch e [.rdTrain, .wrTrain]
      | none => t)

/-! ## Training begins -/

/-- Do the same to every counted CE of the channels that a training of the pair trains (R254). -/
def State.eachCounted (k : Nat) (f : Nat → Nat → State → State) (s : State) : State :=
  (s.trainees k).foldl (fun (s : State) c => (s.countedCes c).foldl (fun (s : State) e => f c e s) s) s

/-- A pair that is not in service takes its starting rate, unless it is stepping down or has kept its rate over a Cold state;
every counted CE is brought into the interface and rate, then ZQ Calibration Long goes to each, and 1 µs passes before the
sequence begins (R66, R67, R262, R264, R420). -/
def State.setUpPair (k : Nat) (s : State) : State :=
  let s := if (s.pair k).stepDown then s
    else
      let r := s.chooseRate k
      let s := s.onPair k (fun p => { p with rate := r.1, lpddr := r.2.1 })
      r.2.2.foldl (fun (s : State) l => s.onLun l (fun t => { t with absent := true })) s
  (s.eachCounted k (State.setInterface k)).eachCounted k (State.calibrateZq k)

/-- Training of a pair begins (R254, R257, R262): `starts` is when step 1 does. -/
def State.beginTraining (k : Nat) (s : State) : State :=
  let fresh := !(s.pair k).inService
  let s := [2 * k, 2 * k + 1].foldl (fun (s : State) c => s.onChan c (fun h => { h with setup := [] })) s
  let s := if fresh then s.setUpPair k else s
  (s.onPair k (fun p => { p with startRate := if p.stepDown then p.startRate else p.rate })).onCal (fun c =>
    { c with pending := c.pending &&& ~~~(1#16 <<< k), again := c.again &&& ~~~(1#16 <<< k), active := c.active ||| (1#16 <<< k),
             starts := SMap.set c.starts k (s.after (if fresh && !s.warmPair k then 1000 else 0)) })

/-- START_TRAINING (R262, R374): each pair of flash channels, once the bound LUNs of both have been checked. -/
def execStartTraining (pair : Nat) (s : State) : Res :=
  let flash := ([2 * pair, 2 * pair + 1]).filter (fun c => !s.isRelay c)
  let checked := (List.range 32).all (fun i => (s.lun (32 * pair + i)).die.isNone || (s.lun (32 * pair + i)).checked)
  onlyIf (s.live && pair < 16 && s.sys.restored && s.sys.wasters && !s.hif.ready && !s.pwr.padHeld && checked &&
      flash.any (fun c => !(s.countedCes c).isEmpty) && !(s.pair pair).inService && !bit s.cal.pending pair &&
      !bit s.cal.active pair) (·.beginTraining pair) s

/-- The host bundles of 1 or 2 channels of a pair whose links are up: a TRAIN frame goes before their training (R358). -/
def State.noticeLinks (s : State) (k : Nat) : List (Nat × Link) :=
  s.rly.links.filter (fun e => !e.2.target && e.2.size ≤ 2 && 2 * k ≤ e.1 && e.1 < 2 * k + 2 &&
    (e.2.st == .up || e.2.st == .hold) && !(e.2.channels e.1).isEmpty)

/-- Another pair of one of this pair's bundles trains (R259). -/
def State.bundleBusy (s : State) (k : Nat) : Bool :=
  s.rly.links.any (fun e => e.1 < 2 * k + 2 && 2 * k < e.1 + e.2.size &&
    (List.range 16).any (fun j => j != k && bit s.cal.active j && e.1 < 2 * j + 2 && 2 * j < e.1 + e.2.size))

/-- A channel's pins carry nothing: no grant, and no frame (R23, R258). -/
def State.pinsStill (s : State) (c : Nat) : Bool :=
  (s.chan c).grant.isNone && (s.chan c).next.isNone &&
    (((s.bundleOf c).bind s.link?).all (fun l => (SMap.get? l.sending c).isNone))

/-- TRAINING_START (R23, R257-R259, R358): the grants and frames of both channels have ended and every counted CE has an available LUN. A
bundle of 1 or 2 channels first sends its TRAIN frames, and the training starts behind their acknowledge. -/
def execTrainingStart (pair : Nat) (s : State) : Res :=
  let cs := s.trainees pair
  onlyIf (s.live && pair < 16 && bit s.cal.pending pair && !bit s.cal.active pair && !cs.isEmpty && !s.bundleBusy pair &&
      cs.all s.cesAvailable && ([2 * pair, 2 * pair + 1]).all s.pinsStill) (fun s =>
    let links := s.noticeLinks pair
    match links.find? (fun e => e.2.trainAsked.isNone) with
    | some (b, _) =>
      let f : RFrame := { mkFrame 7 with hold := s.trainCycles pair, pair := pair }
      (s.onLink b (fun l =>
        { l with trainAsked := some (pair, s.trainCycles pair), toTrain := (l.channels b).map (fun c => (c, f)) })).fillChannels b
    | none => if links.all (fun e => e.2.st == .hold) then s.beginTraining pair else s) s

/-! ## What the sweeps choose -/

/-- The passing runs of the points `0, stride, …` below `n` of a sweep, as (first, last). -/
def passRuns (n stride w : Nat) : List (Nat × Nat) :=
  ((List.range n).filter (fun i => i % stride == 0)).foldl (fun (a : List (Nat × Nat)) i =>
    if !w.testBit i then a
    else match a with
      | (f, l) :: r => if l + stride = i then (f, i) :: r else (i, i) :: a
      | [] => [(i, i)]) [] |>.reverse

/-- The longest run, the lower on a tie (R252). -/
def longestRun (n stride w : Nat) : Option (Nat × Nat) :=
  (passRuns n stride w).foldl (fun (b : Option (Nat × Nat)) r =>
    match b with
    | some a => if a.2 - a.1 < r.2 - r.1 then some r else some a
    | none => some r) none

/-- Chosen tap, eye width and margin of one DQ (R252): a tap passes only if it passes on every CE swept. At 2,400 MT/s
the width spans the taps from the first to the last one swept that pass (log 28). With no run the tap stays. -/
def eyeOf (stride old : Nat) (ces : List (BitVec 128)) : Nat × Nat × Nat :=
  let all := match ces with
    | [] => 0
    | w :: r => (r.foldl (fun a b => a &&& b) w).toNat
  match longestRun 128 stride all with
  | some (f, l) =>
    let t := (f + l) / 2
    (t, l - f + 1, min (t - f) (l - t))
  | none => (old, 0, 0)

/-- What training a channel at a rate would put in service, and whether it passes (R252-R255, R263). An end of a relay pair
sets its receive side alone; in the write sweeps' slots its partner sweeps (R259). -/
def State.trained (s : State) (ch rate : Nat) (w : Sweep) : Phy × Bool :=
  let p := { s.phyOf ch with rate := rate, trained := true, tapStep := w.tapStep, dcc := w.dcc,
                             retrain := (s.phyOf ch).retrain + 1 }
  let relay := s.isRelay ch
  if rate < 3 then
    ({ p with rdTaps := [], wrTaps := [], rdVref := BitVec.ofNat 6 ((s.img.rdVref[ch]?).getD 0),
              wrVref := BitVec.ofNat 6 ((s.img.wrVref[ch]?).getD 0) }, w.ok)
  else
    let st := sweepStride rate
    let vref (old : BitVec 6) (m : BitVec 64) : BitVec 6 := match longestRun 64 st m.toNat with
      | some (f, l) => BitVec.ofNat 6 ((f + l) / 2)
      | none => old
    let eyes (ms : List (List (BitVec 128))) (old : List Nat) : List (Nat × Nat × Nat) :=
      (List.range 8).map (fun d => eyeOf st ((old[d]?).getD 0x40) ((ms[d]?).getD []))
    let rd := eyes w.rd p.rdTaps
    let wr := eyes w.wr p.wrTaps
    let good (e : Nat × Nat × Nat) : Bool :=
      fld s.cal.trainCfg 8 8 ≤ e.2.1 && fld s.cal.trainCfg 0 4 ≤ e.2.2
    ({ p with rdVref := vref p.rdVref w.rdVref, wrVref := if relay then p.wrVref else vref p.wrVref w.wrVref,
              rdTaps := rd.map Prod.fst, wrTaps := if relay then p.wrTaps else wr.map Prod.fst,
              eyes := (rd.zip wr).map (fun q => word32 [(24, q.1.2.1), (16, q.1.2.2), (8, q.2.2.1), (0, q.2.2.2)]) },
     w.ok && rd.all good && wr.all good)

/-- The sweep of a channel of a pair. -/
def sweepOf (ch : Nat) (lo hi : Sweep) : Sweep := if ch % 2 = 0 then lo else hi

/-- The trainees of a pair that fail with these sweeps. -/
def State.trainFails (s : State) (k : Nat) (lo hi : Sweep) : List Nat :=
  (s.trainees k).filter (fun c => !(s.trained c (s.pair k).rate (sweepOf c lo hi)).2)

/-- The SET_FEAT schedule of a pair's training comes to a step that is being reloaded, and waits for it (R306). -/
def State.trainingWaits (s : State) (k : Nat) : Bool :=
  !s.sched.reloading.isEmpty && 3 ≤ (s.pair k).rate && (s.trainees k).any (fun c => !s.isRelay c && (s.trainLuns c).any (fun q =>
    (dieOf s q.2).any (fun d => s.setUpWaits q.2 d (setVref d 0))))

/-- The training of a pair is running: step 1 has begun, step 7 can still be reached in time (R263), and no step of its own is
being reloaded (R306). -/
def State.trainOpen (s : State) (k : Nat) : Bool :=
  let t := SMap.getD s.cal.starts k 0
  s.live && k < 16 && bit s.cal.active k && s.reached t && !s.passed t 60000 && !s.trainingWaits k

/-- The pins of the sequence on every trainee of a pair; none where a schedule loops. -/
def State.pairPins (k : Nat) (lo hi : Sweep) (s : State) : Option State :=
  let rate := (s.pair k).rate
  (s.trainees k).foldl (fun (o : Option State) c =>
    o.bind (fun t => t.trainPins c rate (s.trained c rate (sweepOf c lo hi)).1.wrVref)) (some s)

/-- The sequence has run up to step 7: `f` follows, unless a schedule of it has had a channel fenced, which has ended the
training (R260, R306). -/
def State.sequenceRun (k : Nat) (lo hi : Sweep) (f : State → State) (s : State) : Res :=
  runRes ((s.pairPins k lo hi).map (fun t => if bit t.cal.active k then f t else t))

/-- Step 7 of a pair that passes (R254, R260, R261): the chosen settings of both channels enter service together, the latest
host temperature code is recorded for the pair, and commands that have joined complete. -/
def State.trainingPassed (k : Nat) (lo hi : Sweep) (s : State) : State :=
  let p := s.pair k
  let cs := s.trainees k
  let joined := s.joinedOf k
  let s := cs.foldl (fun (t : State) c => t.onPhyOf c (fun _ => (s.trained c p.rate (sweepOf c lo hi)).1)) s
  let s := [2 * k, 2 * k + 1].foldl (fun (s : State) c =>
    s.onPhyOf c (fun p => { p with calCode := s.cal.thmLast.getD 0x3FF })) s
  let s := s.onPair k (fun p => { p with inService := true, stepDown := false, alone := none })
  let s := s.onCal (fun c =>
    { c with active := c.active &&& ~~~(1#16 <<< k), starts := SMap.erase c.starts k, trainCnt := c.trainCnt + 1,
             joined := SMap.erase c.joined k })
  let s := s.autoSnapshot
  let s := cs.foldl (fun (s : State) c => s.linkTrained c) s
  joined.foldl (State.trainingEnded (p.rate == p.startRate)) s

/-- TRAINING_COMPLETE (R252-R256, R260, R261, R264, R400): every channel passes. -/
def execTrainingComplete (pair : Nat) (lo hi : Sweep) (s : State) : Res :=
  if s.trainOpen pair && (s.trainFails pair lo hi).isEmpty && !(s.trainees pair).isEmpty then
    s.sequenceRun pair lo hi (State.trainingPassed pair lo hi)
  else .next s

/-- A training fails on some channels (R263, R264, R267): it is recorded, and the pair steps down the ladder or the
channels are fenced; where the other channel is left, it is trained alone from the image's rate. -/
def State.trainFailed (k cause : Nat) (bad : List Nat) (s : State) : State :=
  let p := s.pair k
  let s := s.onCal (fun c =>
    let c := { c with failCount := satInc 0xFF c.failCount, active := c.active &&& ~~~(1#16 <<< k),
                      starts := SMap.erase c.starts k }
    if c.failValid then c
    else { c with failValid := true, failCause := BitVec.ofNat 2 cause, failRate := p.rate, failBoth := 2 ≤ bad.length,
                  failCh := bad.headD (2 * k) })
  let s := (s.onPhyOf (2 * k) (fun q => { q with rate := 7 })).onPhyOf (2 * k + 1) (fun q => { q with rate := 7 })
  if 3 < p.rate then
    (s.onPair k (fun p => { p with rate := p.rate - 1, inService := false, stepDown := true })).askTraining k
  else
    let s := s.onPair k (fun p => { p with inService := false, stepDown := true })
    let other := (s.trainees k).filter (fun c => !bad.contains c)
    let s := bad.foldl (fun (s : State) c => s.fence c) s
    match other with
    | c :: _ =>
      (s.onPair k (fun p => { p with alone := some c, rate := (s.chooseRate k).1 })).askTraining k
    | [] => s

/-- TRAINING_FAIL (R253, R263, R264): some channel misses its eyes, or finds no impedance code. Where one channel does the one and
the other the other, the spec does not say which cause is recorded: DESIGN CHOICE (log 131), the impedance code. -/
def execTrainingFail (pair : Nat) (lo hi : Sweep) (s : State) : Res :=
  let bad := s.trainFails pair lo hi
  if s.trainOpen pair && !bad.isEmpty then
    s.sequenceRun pair lo hi (State.trainFailed pair (if bad.any (fun c => !(sweepOf c lo hi).ok) then 2 else 0) bad)
  else .next s

/-- TRAINING_TIMEOUT (R263): 60 µs have passed since step 1 began; source 9 rises. -/
def execTrainingTimeout (pair : Nat) (s : State) : Res :=
  onlyIf (s.live && pair < 16 && bit s.cal.active pair && s.reached (SMap.getD s.cal.starts pair 0) &&
      s.passed (SMap.getD s.cal.starts pair 0) 60000) (fun s =>
    ((s.raise 9).trainFailed pair 1 (s.trainees pair))) s

/-- The channel belongs to the target bundle. -/
def State.isTarget (s : State) (ch : Nat) : Bool := ((s.bundleOf ch).bind s.link?).any (fun l => l.target)

/-- A channel of a target bundle whose link is up returns to its service as its training passes (R357). -/
def State.targetReturns (ch : Nat) (s : State) : State :=
  match s.bundleOf ch with
  | none => s
  | some b =>
    s.onLink b (fun l =>
      if l.st == .up || l.st == .hold then
        { l with mask := l.mask ||| (1#8 <<< (ch - b)), lastRx := SMap.set l.lastRx ch s.time.ns, crcRun := SMap.erase l.crcRun ch }
      else l)

/-- TARGET_TRAINING_COMMAND (R23, R259, R346): a target-personality channel answers as a fully capable die would, and its own
receive sweeps set its taps and Vref, while neither channel of its pair carries traffic. The two channels run at one rate, that
which R67 chooses for the pair; a flash channel beside it keeps its own sequence, and the pair enters service only once both
channels are trained (log 102). -/
def execTargetTrainingCommand (ch : Nat) (sweep : Sweep) (s : State) : Res :=
  let k := ch / 2
  let mate := 4 * k + 1 - ch
  onlyIf (s.live && s.isTarget ch && !(s.chan ch).fenced && !bit s.cal.active k && s.pinsStill ch && s.pinsStill mate) (fun s =>
    let rate := if (s.pair k).inService || (s.pair k).stepDown then (s.pair k).rate else (s.chooseRate k).1
    let r := s.trained ch rate sweep
    let s := s.onPhyOf ch (fun _ => r.1)
    let ready := if s.isTarget mate then (s.chan mate).fenced || (s.phyOf mate).trained else (s.countedCes mate).isEmpty
    let s := s.onPair k (fun p => if p.inService then p else { p with rate := rate, lpddr := true, inService := ready })
    if r.2 then s.targetReturns ch else s) s

end Sys2Proof.Machine
end

