-- ==== Sys2Proof/Machine/Resets.lean ====
section
/-! DEFINITION. The resets (R31, R75, R76): cold reset and loss of a core rail, the warm reset with its replay (R326, R327,
R466, R473) and the leftover check (R391), the AON reset. -/

namespace Sys2Proof.Machine

/-! ## Cold reset -/

/-- An HCP access open as a reset asserts ends with HCP_ERR = 1 (R53). -/
def State.cutHcp (s : State) : State :=
  if s.hcp.withheld.isSome || s.spm.waiting.isSome then
    (s.onHcp (fun h => { h with rdata := 0, err := true, withheld := none })).onSpm (fun m => { m with waiting := none })
  else s

/-- Transactions still to be answered (R58). -/
def Hdp.outstanding (h : Hdp) : Nat := h.reads.length + h.writes.length + h.drain

/-- The power pins as they stand across a cold reset: only AON_RESET moves them (R31, R70, R76). -/
def Pwr.pinsOf (p : Pwr) : Pwr :=
  { Pwr.reset with
    req := p.req, ack := p.ack, bbEn := p.bbEn, retAssist := p.retAssist, isoEn := p.isoEn, padHold := p.padHold,
    heldIn := p.heldIn, wakeOut := p.wakeOut }

/-- The PWR block after a cold reset: the AON island with its state machine, its save area and its alarm stands (R31). -/
def Pwr.afterCold (p : Pwr) : Pwr :=
  { p.pinsOf with
    st := p.st, padHeld := p.padHeld, latched := p.latched, exiting := p.exiting, save := p.save, alarmAt := p.alarmAt }

/-- The machine as the cold column of R31 leaves it: NVS lines with their spares, the AON island, the count of outstanding
HDP transactions and the test port stand; an NVS write under way is disturbed (R394). -/
def State.coldReset (s : State) : State :=
  let s := s.cutHcp
  let s := match s.nvs.running with
    | some r => s.disturb r
    | none => s
  { State.reset with
    sys := { Sys.reset with warmLow := s.sys.warmLow, straps := s.sys.straps },
    hcp := { Hcp.reset with rdata := s.hcp.rdata, err := s.hcp.err },
    pwr := s.pwr.afterCold,
    irq := { Irq.reset with wakeEn := s.irq.wakeEn, wakeEnNext := s.irq.wakeEnNext },
    time := { Time.reset with aon := s.time.aon, phase := s.time.phase },
    hdp := { Hdp.reset with drain := s.hdp.outstanding, blocked := s.hdp.outstanding != 0 },
    nvs := { Nvs.reset with lines := s.nvs.lines, spares := s.nvs.spares },
    jtag := s.jtag, freeCtr := s.freeCtr, pending := s.pending }

/-- COLD_RESET_ASSERT (R31, R76). -/
def execColdResetAssert (s : State) : Res := .next s.coldReset

/-- CORE_RAIL_LOSS (R58, R75): a cold reset, which also clears the count of outstanding transactions where the rail is VCORE; a free
value says whether it is (log 133). In Cold the core rails are off already, until PWR_ACK has confirmed them in the exit (R418). -/
def execCoreRailLoss (s : State) : Res :=
  onlyIf (s.pwr.st != .cold || (s.pwr.exiting && s.pwr.ack)) (fun s =>
    let (f, s) := s.drawFree
    if f.getLsbD 0 then s.coldReset.onHdp (fun _ => Hdp.reset) else s.coldReset) s

/-- Step 1 of R374: the straps are sampled (R6), SPM_RESET_N rises, TIME_NS starts at 0. The work of start-up ends a Soak
or Bank that the reset found (log 36). -/
def State.beginStart (straps : BitVec 11) (s : State) : State :=
  ((s.onSys (fun y => { y with coldLow := false, warmLow := false, straps := straps, instance_ := straps, idSrc := false,
                               started := true })).onSpm (fun m => { m with resetHigh := true })).wake 5

/-- COLD_START (R6, R31, R374). RST_WARM_N, if it was asserted too, rises with RST_COLD_N. -/
def execColdStart (straps : BitVec 11) (s : State) : Res := onlyIf s.sys.coldLow (·.beginStart straps) s

/-- AON_RESET (R31, R70, R76, R422, R441): the AON counter, the wake watcher, the power-state machine, the pad hold. -/
def execAonReset (s : State) : Res :=
  .next (((s.onTime (fun t => { t with aon := 0, phase := 0, kr := none })).onIrq (fun q =>
    { q with wakeEn := 0x17, wakeEnNext := none })).onPwr (fun p =>
    { p with st := .fire, padHeld := false, req := 0, bbEn := false, retAssist := false, isoEn := false, padHold := false, heldIn := 0,
             wakeOut := false, latched := 0, exiting := false, save := none, alarmAt := none }))

/-! ## Warm reset: at assertion -/

/-- A unit whose pages are programmed is in its DMA (R321). -/
def progDma (u : LUnit) : Bool := u.st == .dma && (u.kind == .program || u.kind == .programSlc)

/-- A read is still needed after a warm reset (R89, R92, R103, R473): not an SQ entry, which is read again, nor the data of
a page whose DMA restarts, of a RAW that is not run again, of the legacy copy, or of an SPM_OP, which has ended. -/
def State.keepRd (s : State) (r : HdpRd) : Bool :=
  match r.what with
  | .sq _ => false
  | .spmBuf _ _ => false
  | .gone => false
  | .seg (.cmd _) => true
  | .link (.cmd _) => true
  | .seg _ => false
  | .link _ => false
  | .src (.cmd _) ix _ _ _ => s.unitIs (fun u => !ended u && !progDma u && !replayable u) ix
  | .src _ _ _ _ _ => false
  | _ => true

/-- A write is issued again (R327, R473): data of a page that is not read again, write-backs, stream and bitmap writes, CQ
entries. -/
def State.keepWr (s : State) (w : HdpWr) : Bool :=
  match w.what with
  | .data _ ix _ => s.unitIs (fun u => !replayable u) ix
  | .segStatus (.cmd _) _ => true
  | .segFlags (.cmd _) _ => true
  | .segStatus _ _ => false
  | .segFlags _ _ => false
  | .legData => false
  | .gone => false
  | _ => true

/-- The reads among accesses. -/
def readsOf (fs : List Failed) : List HdpRd :=
  fs.filterMap (fun f => match f with
    | .rd r => some r
    | .wr _ => none)

/-- The writes among accesses. -/
def writesOf (fs : List Failed) : List HdpWr :=
  fs.filterMap (fun f => match f with
    | .rd _ => none
    | .wr w => some w)

/-- The failed reads of halted chains. -/
def State.failedReads (s : State) : List HdpRd := (s.dma.chains.map (fun e => readsOf e.2.failed)).flatten

/-- The failed writes of halted chains. -/
def State.failedWrites (s : State) : List HdpWr := (s.dma.chains.map (fun e => writesOf e.2.failed)).flatten

/-- The host data port at a warm reset (R58, R473): the answers of what is outstanding are discarded; what is still needed
waits until they have come, in the order of its first issue (R131). What DISABLE has kept back is still needed too. -/
def State.warmHdp (s : State) : State :=
  let rds := inIssueOrder ((s.hdp.reads ++ s.failedReads ++ s.hdp.heldReads ++ readsOf s.dma.lost).filter s.keepRd |>.map Failed.rd)
  let wrs := inIssueOrder ((s.hdp.writes ++ s.failedWrites ++ s.hdp.heldWrites ++ writesOf s.dma.lost).filter s.keepWr |>.map Failed.wr)
  s.onHdp (fun h =>
    { h with reads := [], writes := [], heldReads := readsOf rds, heldWrites := writesOf wrs, drain := h.outstanding,
             blocked := true })

/-- The data of a program page that has come is called for again from the page's first byte, into the same pecks (R321):
what its segments had accounted is taken back. -/
def State.restartDma (ix : Nat) (s : State) : State :=
  match s.unit? ix with
  | none => s
  | some u =>
    match u.ctx, s.cmdOf u with
    | some ctx, some c =>
      match s.chain? (.cmd ctx), s.placeOf (.cmd ctx) ix with
      | some h, some b =>
        if u.dmaDone then s
        else
          let n := placeSize c
          let out := (s.hdp.reads ++ s.failedReads ++ s.hdp.heldReads ++ readsOf s.dma.lost).filterMap (fun r => match r.what with
            | .src (.cmd x) j off len _ => if x = ctx ∧ j = ix then some (off, len) else none
            | _ => none)
          let missing := out ++ (h.todo.filter (fun d => d.ix == ix)).map (fun d => (d.off, d.len))
          let sum (rs : List (Nat × Nat)) (base : Nat) : Nat :=
            (rs.map (fun r => ((segParts h.segs (b + r.1) r.2).filter (fun q => q.1 == base)).map (fun q => q.2.2.2) |>.sum)).sum
          let s := s.onChain (.cmd ctx) (fun h =>
            { (h.segs.foldl (fun (a : Chain) g => a.unaccount g.base (sum [(0, n)] g.base - sum missing g.base)) h) with
              todo := h.todo.filter (fun d => d.ix != ix) ++ [{ ix := ix, cw := 0, off := 0, len := n, bytes := [] }] })
          s.onUnit ix (fun u => { u with dmaLeft := srcLefts c })
      | _, _ => s
    | _, _ => s

/-- DMA at a warm reset (R31, R132, R466): the halt latches and DISABLE clear; a legacy copy ends, its count between what
it showed and the full copy, at a free value (log 7). -/
def State.warmDma (s : State) : State :=
  let (v, s) := if s.dma.leg.busy then s.drawFree else (0, s)
  let len := (s.dma.leg.srcChain.segs.map Seg.len).sum
  s.onDma (fun d =>
    { d with haltQ := [], disable := false, lost := [],
             chains := d.chains.map (fun e => (e.1, { e.2 with halted := false, failed := [] })),
             leg := if d.leg.busy then
                 { d.leg with busy := false, done := true, halt := false, dir := false, faddr := 0, finish := false,
                              bytes := BitVec.ofNat 32 (d.leg.bytes.toNat + v.toNat % (len - d.leg.bytes.toNat + 1)) }
               else { d.leg with halt := false, dir := false, faddr := 0 } })

/-- What a grant cut by the reset had taken up and nothing else would ask for again: a temperature read, read levels, the
reset of a LUN (R32, R183). -/
def State.cutGrant (s : State) (g : Grant) : State :=
  match g.kind with
  | .temperature => s.onLun g.lun (fun t => { t with tempReq := true })
  | .levels => s.onLun g.lun (fun t => { t with vec := none, vecFor := none })
  | .reset => s.askReset g.lun
  | _ => s

/-- Every grant ends, its pin time counted (R168, R326). CONF stands as the dispatch has left it (R315). The waits of entries
that stay QUEUED stand: those of held heads, and patrol and temperature events (R321). -/
def State.warmGrants (s : State) : State :=
  let gs := (s.che.map (fun e => e.2.grant.toList ++ e.2.next.toList)).flatten
  let s := gs.foldl State.cutGrant s
  let s := s.onChe (fun m => m.map (fun e => (e.1, { e.2.endGrants with ptrs := [], passes := [] })))
  let s := (List.range 32).foldl (fun (s : State) c => s.cutPacket c) s
  (s.onChe (fun m => m.map (fun e => (e.1, { e.2 with late := [] })))).onLuns (fun m =>
    m.map (fun e => (e.1, { e.2 with
      rd := none, cache := none, vecFor := none, cacheIx := none, pollReq := false, suspReq := false, resumeReq := false, rawOpen := none, rawReq := false,
      rawMoved := 0, rawS := [], sched := SchedCtx.init,
      ev := { e.2.ev with poll := none, run := none, win := none, backoff := none } })))

/-- The queues are flushed (R184) and the round-robin order of R175 starts anew; the decoders hold nothing of entries in
flight, which are read again (R322); an interrupted step reload comes before any dispatch (R306). -/
def State.warmPool (s : State) : State :=
  let flush (m : SMap Queue) : SMap Queue := m.map (fun e => (e.1, e.2.flushed))
  ((s.onPool (fun p =>
    { p with ingress := flush p.ingress, egress := flush p.egress, flushAsk := [], lastCh := 31 })).onDec (fun d =>
    { d with hardQ := [], softQ := [], bchQ := [], busy := [] })).onSched (fun c =>
    { c with halted := [], reloadFirst := !c.reloading.isEmpty })

/-- The training LUNs of a pair that trains are reset with FAh, and their CEs then brought back into the interface by
set-features cycles (R66, R260). -/
def State.resetTrainees (k : Nat) (s : State) : State :=
  ((s.trainees k).filter (fun c => !s.isRelay c)).foldl (fun (s : State) c =>
    (s.trainLuns c).foldl (fun (s : State) q => (s.askReset q.2).onLun q.2 (fun t => { t with sdr := true })) s) s

/-- The cone and training (R236, R260): relearns are abandoned and each saved T restored; a training is abandoned, its
training LUNs, as they stand, are reset, and its pair is pending again at the next temperature value taken. -/
def State.warmCal (s : State) : State :=
  let active := bitsOf 16 s.cal.active.toNat
  let s := active.foldl (fun (s : State) k => s.resetTrainees k) s
  s.onCal (fun c =>
    { c with t := c.relearns.foldl (fun t r => SMap.put 0 t r.1 r.2.saved) c.t, relearns := [], samples := [], starts := [],
             active := 0, again := c.again ||| c.active })

/-- A link at the assertion of a reset: what its channels carried is lost, and a frame that a pull was bringing counts as one
whose CRC has failed (R345, R359). -/
def Link.cut (l : Link) : Link :=
  { l with sending := [], nakDue := l.nakDue || l.sending.any (fun e => e.2.typ == 0) }

/-- Frames that pulls were bringing. -/
def Rly.pulls (r : Rly) : Nat := (r.links.map (fun e => e.2.sending.countP (fun f => f.2.typ == 0))).sum

/-- RST_WARM_N asserts while the block is in service (R31, R326): everything but what the warm column keeps. -/
def State.warmAssert (s : State) : State :=
  let s := s.cutHcp
  let progs := (s.ldg.units.filter (fun e => progDma e.2)).map Prod.fst
  let s := progs.foldl (fun s ix => s.restartDma ix) s
  let s := s.warmHdp.warmDma.warmCal.warmGrants.warmPool
  ((((s.onSys (fun y => { y with warmLow := true })).onIrq (fun q => { q with pend := 0, late := 0 })).onHif (fun h =>
    { h with fetch := none, lastSq := 255 })).onRly (fun r =>
    { r with crcCnt := r.crcCnt + BitVec.ofNat 32 r.pulls, links := r.links.map (fun e => (e.1, e.2.cut)) })).onSpm (fun m =>
    { m with inFlight := none, prefetching := false }) |>.onLdg (fun l => { l with replaying := true })

/-- WARM_RESET_ASSERT (R31, R326, R338): in a start-up after a cold reset, or while the ledger is halted, it acts as a cold
reset but for SPM_RESET_N, which only RST_COLD_N drives (R69, R390); in Cold no logic runs that it could reset. -/
def execWarmResetAssert (s : State) : Res :=
  if s.sys.coldLow || s.pwr.st == .cold && s.pwr.save.isSome then .next (s.onSys (fun y => { y with warmLow := true }))
  else if s.ldg.halted || (!s.hif.ready && !s.sys.resume) then
    .next ((s.coldReset.onSys (fun y => { y with coldLow := false, warmLow := true })).onSpm (fun m =>
      { m with resetHigh := s.spm.resetHigh }))
  else .next s.warmAssert

/-! ## Warm reset: at deassertion -/

/-- The leftover check and what was BUSY (R387, R391): an SPM_OP ends INTERRUPTED; a device operation still under way, or
shown suspended, is resumed and polled to its end before its end marker; a sector's re-erase goes on; a consolidation restarts
from step 1. -/
def State.warmSpm (suspended : Bool) (s : State) : State :=
  let op := s.spm.op
  let run := s.spm.erasing.isNone && (suspended || op.any SpmOp.devBusy)
  let sector := op.bind SpmOp.openSector
  let known := match sector with
    | some a => some a
    | none => s.spm.leftover.bind id
  let s := s.onSpm (fun m =>
    { m with op := none, opWait := none, leftover := if run then some known else m.leftover,
             sent := if suspended then [{ instr := some m.sfdp.resumeOp, addr := none, dummy := 0, data := [] }] else m.sent,
             erasing := m.erasing.map (fun o => { o with suspended := false, suspending := false, runFrom := s.time.ns }) })
  let s := match sector with
    | some a => if run then s else s.nvsMarker none 6 a 0
    | none => s
  let s := if s.spm.opBusy then
      (s.onSpm (fun m => { m with opBusy := false, opDone := true, opResult := 7 })).raise 7
    else s
  s.spmNext

/-- A read on its ladder, or a fold among its sources, that waits in QUEUED: the reset replays it from step 0 too (R227,
R329; log 121). -/
def onLadder (u : LUnit) : Bool :=
  u.bundle.isNone && u.st == .queued &&
    (u.step != 0 || u.sense != 0 || (u.kind == .fold && u.dec == 0 && u.src != 0))

/-- Before the walk: pass counts restart at 0, an entry that stays QUEUED is overtaken by every one placed again, and
URGENT of the others is recomputed from the deadline (R324). -/
def State.walkBegins (s : State) : State :=
  s.onLdg (fun l => { l with units := l.units.map (fun e =>
    let u := { e.2 with passes := 0, again := if e.2.st == .queued then 0 else e.2.again }
    (e.1, if u.ctx.isSome && (replayable u || onLadder u) then { u with urgent := s.urgentNow u } else u)) })

/-- The walk of R326 step 4, in ledger index order. A relayed entry in flight carries REPLAYED and is decided by its owner
(R322, R325). A fold that waits for a marker has it written again (R329). -/
def State.replayWalk (s : State) : State :=
  (s.ldg.units.map Prod.fst).foldl (fun (s : State) ix =>
    match s.unit? ix with
    | none => s
    | some u =>
      if replayable u then (s.onUnit ix (fun u => { u with warm := true })).replayUnit ix
      else if onLadder u then ((s.onUnit ix (fun u => { u with warm := true })).unlist ix).replayUnit ix
      else if u.bundle.isSome && (u.st == .issued || u.st == .onDie || u.st == .data || u.st == .decoding ||
          (u.st == .dma && !progDma u)) then s.markReplayed ix
      else if u.bundle.isNone && u.kind == .fold && u.st == .queued && (u.dec == 2 || u.dec == 4) then
        s.nvsMarkerAgain ix (if u.dec = 2 then 3 else 4) (locOf u.addr) (faPage u.addr)
      else s) s.walkBegins

/-- The warm reset ends (R326 steps 3-5, R376). The HIF_POLL period counts from here (log 61). -/
def State.warmStart (ecc : Ecc) (suspended : Bool) (s : State) : State :=
  let s := (s.onSys (fun y => { y with warmLow := false })).onHif (fun h =>
    { h with restart := h.restart + 1, pollFrom := s.time.ns })
  let s := s.ecc ecc
  let s := if eccHalts ecc then s else s.replayWalk
  let s := s.onLdg (fun l => { l with replaying := false })
  let s := (s.ldg.cmds.map Prod.fst).foldl (fun (s : State) ctx => (s.settle ctx).unholdAll ctx) s
  (s.warmSpm suspended).wake 5

/-- WARM_RESET_DEASSERT (R31, R326, R391): the replay; or the restart of a start-up from its beginning, the straps standing
as sampled; in Cold nothing. -/
def execWarmResetDeassert (ecc : Ecc) (suspended : Bool) (s : State) : Res :=
  onlyIf (s.sys.warmLow && !s.sys.coldLow) (fun s =>
    if s.pwr.st == .cold && s.pwr.save.isSome then s.onSys (fun y => { y with warmLow := false })
    else if s.sys.started then s.warmStart ecc suspended
    else s.beginStart s.sys.straps) s

end Sys2Proof.Machine
end

