-- ==== Sys2Proof/Machine/Power.lean ====
section
/-! DEFINITION. Time and power: the TBCLK and AONCLK edges (R421-R425, log 3), the pace meter (R36-R38), the alarm (R426),
idleness and the power states (R408-R420), the wake watcher (R414, R415, R441, R442). -/

namespace Sys2Proof.Machine

/-! ## TIME_NS and the AON counter -/

/-- TIME_NS with its fraction, in 1/64 ns. -/
def Time.sum (t : Time) : Nat := 64 * t.ns.toNat + t.frac

/-- TIME_NS and F from a count of 1/64 ns: the largest multiple of 10 ns, the rest in F (R423). -/
def Time.setSum (v : Nat) (t : Time) : Time := { t with ns := BitVec.ofNat 64 (10 * (v / 640)), frac := v % 640 }

/-- TIME_NS advances by 10 ns and `adj` ns more: whole multiples of 10, the rest to F (R421, R424). -/
def Time.advance (adj : Int) (t : Time) : Time :=
  let v := (640 + t.frac + 64 * adj).toNat
  { t with ns := t.ns + BitVec.ofNat 64 (10 * (v / 640)), frac := v % 640 }

/-- A slew edge is due (R424): SLEW_EN, slew remaining, TIME_NS mod 1,000 = 500, once in each microsecond. -/
def Time.slews (t : Time) : Bool :=
  bit t.cfg 31 && t.slew != 0 && t.ns.toNat % 1000 == 500 && t.slewUs != some (t.ns.toNat / 1000)

/-- What a slew edge adds: 10 ns towards the target, or the part below 10 ns, which goes to F (R424). -/
def slewPart (r : Int) : Int := if 10 ≤ r then 10 else if r ≤ -10 then -10 else r

/-- One TBCLK edge (R421, R423, R424): until the AON edge behind a restart every edge advances by 10; a forward step that is
due goes before a slew edge. -/
def Time.edge (t : Time) : Time :=
  let t := { t with edges := t.edges + 1 }
  if t.kr.isSome then t.advance 0
  else if t.stepDue ≠ 0 then { t.advance t.stepDue with stepDue := 0 }
  else if t.slews then
    let a := slewPart t.slew
    { t.advance a with slew := t.slew - a, slewUs := some (t.ns.toNat / 1000) }
  else t.advance 0

/-- T0 plus the time of `n` AON ticks, in 1/64 ns (R423). -/
def Time.target (t : Time) (k : BitVec 48) : Nat := 64 * t.t0.toNat + t.f0 + 1953125 * (k - t.k0).toNat

/-- AON edge k_r + 1 (R423): TIME_NS steps forward to the target, or its excess becomes negative slew. -/
def Time.correct (k : BitVec 48) (t : Time) : Time :=
  let g := t.target (k + 1)
  if t.sum < g then { t.setSum g with kr := none }
  else { t with kr := none, slew := t.slew - (((t.sum - g) / 64 : Nat) : Int) }

/-- PWR_REQ takes a new value, which PWR_ACK has to confirm (R70); it waits while PWR_ACK = 0. -/
def Pwr.request (v : BitVec 3) (p : Pwr) : Pwr := if p.ack && p.req != v then { p with req := v, ack := false } else p

/-- The value PWR_REQ is to have (R70). -/
def Pwr.target (p : Pwr) : BitVec 3 :=
  if p.exiting then 0
  else match p.st with
    | .fire => 0
    | .soak => 1
    | .bank => 2
    | .ember => 3
    | .cold => 4

/-- The power pins at an AONCLK edge (R70, R415): PWR_REQ follows the state. While WAKE_OUT = 1 it returns to 0 as PWR_ACK = 1 is seen,
which still stands since the controller then treats it as 0, and WAKE_OUT falls where both are seen. -/
def Pwr.edge (p : Pwr) : Pwr :=
  if !p.wakeOut then p.request p.target
  else if !p.ack then p
  else if p.req = 0 then { p with wakeOut := false }
  else { p with req := 0 }

/-- An AONCLK edge (R415, R422, R441): the counter counts, a write of IRQ_WAKE_EN moves on, the correction behind a restart is
made, and the power pins follow. -/
def State.aonEdge (s : State) : State :=
  let s := (s.onPwr Pwr.edge).onTime (fun t =>
    let t := { t with aon := t.aon + 1, phase := 0 }
    match t.kr with
    | some k => t.correct k
    | none => t)
  s.onIrq (fun q =>
    match q.wakeEnNext with
    | some (v, n) => if n ≤ 1 then { q with wakeEn := v, wakeEnNext := none } else { q with wakeEnNext := some (v, n - 1) }
    | none => q)

/-! ## Idleness (R410, R411) -/

/-- Work of the host interface, the DMA engines and the serial and NVS units is in progress. -/
def State.unitsBusy (s : State) : Bool :=
  s.hif.fetch.isSome || s.hif.cycle.any (·.found) || (bit s.hif.cfg 0 && (List.range 256).any s.hasWork) || s.dma.leg.busy || s.spm.opBusy || s.spm.op.isSome ||
    s.spm.leftover.isSome || !s.sys.reerase.isEmpty || s.nvs.running.isSome || !s.nvs.queue.isEmpty ||
    !s.nvs.retry.isEmpty || s.nvs.snapping.isSome || s.cal.active != 0 || !s.cal.relearns.isEmpty

/-- A relay link is up, in training hold, or bringing up with a HELLO exchanged. -/
def State.linksBusy (s : State) : Bool :=
  s.rly.links.any (fun e => e.2.st == .up || e.2.st == .hold || (e.2.st == .bringing && e.2.helloSent))

/-- The instance is idle (R410); start-up keeps it out of idleness until READY (R434). -/
def State.idle (s : State) : Bool :=
  s.hif.ready && s.inUse == 0 && !s.unitsBusy && !s.linksBusy && s.passed s.hcp.last 1000 && !s.inReset

/-- What the instance has done so far of all that ends idleness (R410): HCP accesses, entries taken into the ledger, SQ entries fetched,
NVS writes, trainings, images and link sessions. Idleness that stands has left it as it was. -/
def State.workMark (s : State) : List Nat :=
  [s.hcp.last.toNat, s.ldg.nextSeq, s.nvs.reqs, s.cal.trainCnt.toNat, s.cal.failCount, s.spm.genA.toNat, s.spm.genB.toNat] ++
    s.hif.sqs.map (fun q => q.2.head.toNat) ++ s.rly.links.flatMap (fun e => [e.2.host.toNat, e.2.tgt.toNat, e.2.txSeq.toNat])

/-- The timers start as idleness begins, stop as it ends, and start anew where it has ended in between (R411). -/
def State.noteIdle (s : State) : State :=
  let i := s.idle
  let m := s.workMark
  s.onPwr (fun p =>
    { p with idleSince := if !i then none else if p.idleMark = m then some (p.idleSince.getD s.time.ns) else some s.time.ns,
             idleMark := m })

/-- The clocks have moved on from a time: whether a tick fell between, the edge at which ⌊TIME_NS / 1,000⌋ changes (R425). -/
def State.noteTick (before : Ns) (s : State) : State :=
  s.onTime (fun t => { t with tickEdge := before.toNat / 1000 != t.ns.toNat / 1000 })

/-- What the clocks do while no command waits (log 3): a TBCLK edge, with an AONCLK edge every 30,517.578125 ns of it; in
Ember and Cold, where TBCLK stands, an AONCLK edge. -/
def State.tick (s : State) : State :=
  if !s.time.running then s.aonEdge
  else
    let before := s.time.ns
    let s := if s.sys.started then s.onTime Time.edge else s
    let p := s.time.phase + 640
    let s := if p < 1953125 then s.onTime (fun t => { t with phase := p })
      else s.aonEdge.onTime (fun t => { t with phase := p - 1953125 })
    (s.noteTick before).noteIdle

/-! ## The pace meter and the alarm -/

/-- A window result (R36, R37): PACE_PS, MAX and MIN in one step. -/
def Time.pace (v : BitVec 16) (t : Time) : Time :=
  { t with paceValid := true, pacePs := v, paceMax := if t.paceMax.toNat < v.toNat then v else t.paceMax,
           paceMin := if v.toNat < t.paceMin.toNat then v else t.paceMin }

/-- PACE_WINDOW_END (R36-R38): at a tick, and once for each; a complete window gives 16,000,000 / C, rounded; a result that the field cannot hold, or that
of no crossing, is a free value (log 7). A window that is not complete is discarded. -/
def execPaceWindowEnd (crossings : Nat) (s : State) : Res :=
  onlyIf (!s.sys.coldLow && s.sys.started && s.time.running && s.time.tickEdge) (fun s =>
    let full := 100 ≤ s.time.edges
    let s := s.onTime (fun t => { t with tickEdge := false })
    let v := (32000000 + crossings) / (2 * crossings)
    if !full then s
    else if crossings = 0 ∨ 65536 ≤ v then
      let (f, s) := s.drawFree
      s.onTime (Time.pace (f.setWidth 16))
    else s.onTime (Time.pace (BitVec.ofNat 16 v))) s

/-- TIME_ALARM_FIRE (R426): in Soak and Bank it is a wake event (R414). -/
def execTimeAlarmFire (s : State) : Res :=
  onlyIf (!s.sys.coldLow && s.sys.started && s.time.running && s.time.arm && s.reached s.time.alarm) (fun s =>
    ((s.onTime (fun t => { t with arm := false, fired := true })).raise 15).wake 4) s

/-- TIME_COMPENSATION (R412, R423): TBCLK restarts at an exit, after AON edge k_r; the poll timers have not run in between. -/
def execTimeCompensation (s : State) : Res :=
  onlyIf (s.pwr.exiting && s.pwr.ack && !s.time.running && !s.sys.coldLow && s.pwr.save.isNone) (fun s =>
    let t := s.time.setSum (s.time.target s.time.aon)
    let slept := t.ns - s.time.t0
    (s.onTime (fun u => { t with running := true, woke := some t.ns, kr := some u.aon, edges := 0, phase := 0 })).onHif (fun h =>
      { h with pollFrom := h.pollFrom + slept, sqs := h.sqs.map (fun q => (q.1, { q.2 with polled := q.2.polled + slept })) })) s

/-- TIME_AON_CORRECTION (R423): the AONCLK edge k_r + 1. -/
def execTimeAonCorrection (s : State) : Res := onlyIf (s.time.running && s.time.kr.isSome) (fun s => s.aonEdge.noteTick s.time.ns) s

/-! ## Going down (R411, R412, R416-R419) -/

/-- A timer of the ladder has passed since idleness began, and the states above it are enabled (R411): `n` is the number of
states above Fire, `ns` the timer. -/
def State.timerPassed (s : State) (n ns : Nat) : Bool :=
  s.pwr.cfg.toNat / 2 % 2 ^ n == 2 ^ n - 1 &&
    (match s.pwr.idleSince with
     | some t => s.idle && s.pwr.idleMark == s.workMark && s.passed t ns
     | none => false)

/-- A timer register, in its unit of ns; 0 acts as 1 (R429). -/
def idleNs (r : BitVec 16) (unit : Nat) : Nat := unit * max 1 r.toNat

/-- A sleep is refused or aborted (R417, R430): counted, source 13, the timers restart. -/
def State.sleepAborted (unit : Nat) (s : State) : State :=
  (s.onPwr (fun p =>
    { p with abortUnit := BitVec.ofNat 4 unit, abortCnt := if p.abortCnt = 0xFFFFFFF then p.abortCnt else p.abortCnt + 1,
             idleSince := none })).raise 13

/-- SOAK_ENTRY (R411, R416, R417): a wake during the prepare wins; a unit that refuses at its turn rolls the commit back. -/
def execSoakEntry (wakeDuringPrepare : Bool) (refuses : Option Nat) (s : State) : Res :=
  onlyIf (s.live && s.timerPassed 1 (idleNs s.pwr.idle0 10)) (fun s =>
    if wakeDuringPrepare then s.sleepAborted 0
    else match refuses with
      | some k => s.sleepAborted (1 + (k - 1) % 11)
      | none => s.onPwr (fun p => { p.request 1 with st := .soak })) s

/-- BANK_ENTRY (R411, R74). -/
def execBankEntry (s : State) : Res :=
  onlyIf (!s.inReset && s.pwr.st == .soak && !s.pwr.exiting && s.pwr.ack && s.timerPassed 2 (idleNs s.pwr.idle1 1000))
    (·.onPwr (fun p => { p.request 2 with st := .bank, bbEn := true })) s

/-- The further conditions of Ember (R412, R426, R441). -/
def State.emberReady (s : State) : Bool :=
  s.pool.free == 2040 && s.pool.softFree == 8 && !s.psp.source && (List.range 4).all (fun n => !s.irq.out n) &&
    s.spm.inFlight.isNone && s.irq.wakeEnNext.isNone && !(s.time.arm && s.reached s.time.alarm)

/-- The AON count at which an armed alarm wakes from Ember or Cold (R426): an alarm within the fraction is due at once (log
122). -/
def Time.alarmTick (t : Time) : BitVec 48 :=
  t.aon + BitVec.ofNat 48 ((64 * (t.alarm - t.ns).toNat - t.frac + 1953124) / 1953125)

/-- EMBER_ENTRY (R411, R412, R423, R426): T0 and k0 are recorded, TIME_NS stops, PACE VALID clears (R38). -/
def execEmberEntry (s : State) : Res :=
  onlyIf (!s.inReset && s.pwr.st == .bank && !s.pwr.exiting && s.pwr.ack && s.emberReady &&
      s.timerPassed 3 (idleNs s.pwr.idle2 1000)) (fun s =>
    (s.onPwr (fun p =>
      { p.request 3 with st := .ember, retAssist := true, isoEn := true,
                         alarmAt := if s.time.arm then some s.time.alarmTick else none })).onTime (fun t =>
      { t with t0 := t.ns, f0 := t.frac, k0 := t.aon, running := false, paceValid := false, edges := 0, tickEdge := false })) s

/-- The Cold timer, measured in TIME_NS up to Ember and in whole AON ticks, rounded upwards, from there (R411). -/
def State.coldDue (s : State) : Bool :=
  match s.pwr.idleSince with
  | some t =>
    let left := idleNs s.pwr.idle3 1000000 - (s.time.t0 - t).toNat
    (64 * left + 1953124) / 1953125 ≤ (s.time.aon - s.time.k0).toNat
  | none => false

/-- The save area (R419). -/
def State.saveArea (s : State) : Save :=
  .mk s.hif s.irq s.time s.cal s.che s.pairs s.dec s.sched s.spm s.pool s.dma s.ldg s.rly s.psp s.nvs.cfg

/-- The channels of target personality: their pads are held as inputs in Cold (R62). -/
def State.targetBits (s : State) : BitVec 32 :=
  BitVec.ofNat 32 (((List.range 32).map (fun c => if chanPers ((s.img.chans[c]?).getD 0) = 2 then 2 ^ c else 0)).sum)

/-- COLD_ENTRY (R409, R411, R419): the save area is written and PAD_HOLD rises; the core loses everything else. -/
def execColdEntry (s : State) : Res :=
  onlyIf (!s.inReset && s.pwr.st == .ember && !s.pwr.exiting && s.pwr.ack && s.pwr.cfg.toNat / 2 % 16 == 15 && s.coldDue)
    (fun s =>
      { State.reset with
        sys := { Sys.reset with coldLow := false, straps := s.sys.straps, instance_ := s.sys.instance_,
                                idSrc := s.sys.idSrc },
        irq := { Irq.reset with wakeEn := s.irq.wakeEn },
        pwr := { s.pwr.request 4 with
          st := .cold, bbEn := false, retAssist := false, padHold := true, heldIn := s.targetBits,
          save := some s.saveArea, idleSince := none },
        time := { Time.reset with aon := s.time.aon, pacePs := s.time.pacePs, running := false },
        nvs := { Nvs.reset with lines := s.nvs.lines, spares := s.nvs.spares },
        jtag := s.jtag, freeCtr := s.freeCtr, pending := s.pending }) s

/-! ## Coming up (R414, R415, R418-R420) -/

/-- Bit of WAKE_CAUSE (R427). -/
def wakeCode : Wake → Nat
  | .wakeIn => 0
  | .kickIn => 1
  | .relayLink => 2
  | .pspEvent => 3
  | .timeAlarm => 4
  | .core => 5
  | .hcp => 6

/-- WAKE_EVENT (R414): in Soak and Bank any event starts the exit; that of WAKE_IN raises source 12 (R436). -/
def execWakeEvent (cause : Wake) (s : State) : Res :=
  onlyIf (!s.inReset && (s.pwr.st == .soak || s.pwr.st == .bank)) (fun s =>
    (if cause = .wakeIn then s.raise 12 else s).wake (wakeCode cause)) s

/-- WAKE_IN (R414, R436): a rising edge in Fire, Soak or Bank. -/
def execWakeIn (s : State) : Res :=
  onlyIf (s.awake) (fun s => (s.raise 12).wake 0) s

/-- The watcher sees an event that IRQ_WAKE_EN enables (R414, R426, R441). -/
def State.watches (s : State) (cause : Wake) : Bool :=
  match cause with
  | .core => false
  | .hcp => false
  | .timeAlarm => bit s.irq.wakeEn 4 && (match s.pwr.alarmAt with
      | some k => (s.time.aon - k).toNat < 2 ^ 47
      | none => false)
  | .wakeIn => bit s.irq.wakeEn 0
  | .kickIn => bit s.irq.wakeEn 1
  | .relayLink => bit s.irq.wakeEn 2
  | .pspEvent => bit s.irq.wakeEn 3

/-- WATCHER_WAKE (R415): in Ember and Cold the event is latched and WAKE_OUT rises; the rails return to those of Fire. -/
def execWatcherWake (cause : Wake) (s : State) : Res :=
  onlyIf ((s.pwr.st == .ember || s.pwr.st == .cold) && s.watches cause) (fun s =>
    s.onPwr (fun p =>
      let p := { p with latched := p.latched ||| BitVec.ofNat 8 (2 ^ wakeCode cause) }
      if p.exiting then p else { p with exiting := true, wakeOut := true, bbEn := false, ack := false })) s

/-- PWR_ACK_RISE (R70, R415, R418): in an exit from Ember or Cold RET_ASSIST and ISO_EN fall; PWR_REQ and WAKE_OUT follow at the
AONCLK edges. -/
def execPwrAckRise (s : State) : Res :=
  onlyIf (!s.pwr.ack) (·.onPwr (fun p =>
    if p.wakeOut then { p with ack := true, retAssist := false, isoEn := false } else { p with ack := true })) s

/-- The HIF block from the save area (R419): the rings with their state, no fetch and no completion in flight. -/
def Hif.restored (h : Hif) : Hif :=
  let kept := { Hif.reset with cfg := h.cfg, ringTable := h.ringTable, db := h.db, predBase := h.predBase, poll := h.poll }
  { kept with
    cmdRing := h.cmdRing, enableDue := h.enableDue,
    sqs := h.sqs.map (fun e => (e.1, { e.2 with polled := 0, notYet := false, fence := none })),
    cqs := h.cqs.map (fun e => (e.1, { e.2 with held := false })) }

/-- The time base from the save area (R412, R419), over what the AON island kept. -/
def Time.restored (saved t : Time) : Time :=
  { t with
    ns := saved.ns, frac := saved.frac, t0 := saved.t0, f0 := saved.f0, k0 := saved.k0, alarm := saved.alarm, arm := saved.arm,
    cfg := saved.cfg }

/-- The calibration registers and the patrol cursors from the save area (R419); no patrol read is outstanding. -/
def Cal.restored (c : Cal) : Cal :=
  let kept := { Cal.reset with cfg := c.cfg, temp := c.temp, recovery := c.recovery, softMap := c.softMap, sel := c.sel }
  { kept with
    patrol := c.patrol.map (fun e => (e.1, { e.2 with urgent := false, hot := false, outstanding := false })),
    patrolCfg := c.patrolCfg, patrolSel := c.patrolSel, trainCfg := c.trainCfg }

/-- The decoder registers from the save area (R419): lanes stay out of service, spares stay in. -/
def Dec.restored (d : Dec) : Dec :=
  let kept := { Dec.reset with cfg := d.cfg, llr := d.llr }
  { kept with
    hardOut := d.hardOut, softOut := d.softOut, bchOut := d.bchOut, spareIn := d.spareIn, spareDue := d.spareDue }

/-- The serial memory from the save area (R419): what discovery and slot selection found, and the operands of SPM_OP_CMD. The saved
slot is to be read again; what SFDP and the option record say is rebuilt with them (log 38). -/
def Spm.restored (m : Spm) : Spm :=
  let found := { Spm.reset with
    mode := m.mode, sckDiv := m.sckDiv, noSuspend := m.noSuspend, sfdp := m.sfdp, resetHigh := true, xipReady := true,
    opt := m.opt, optOther := m.optOther, optSector := m.optSector }
  let picked := { found with
    slot := m.slot, loading := some m.slot, validA := m.validA, validB := m.validB, genA := m.genA, genB := m.genB }
  { picked with xipBase := m.xipBase, opAddr := m.opAddr, opLen := m.opLen, opBuf := m.opBuf, opSlot := m.opSlot }

/-- COLD_EXIT_RESTORE (R412, R418, R419): the core comes out of reset, what the save area holds returns field by field, and
steps 5 to 8 of R374 are to run on the saved slot. -/
def State.restoreArea (a : Save) (s : State) : State :=
  { s with
    sys := { s.sys with started := true, resume := true, discovered := true },
    hif := a.hif.restored,
    irq := { s.irq with
      pend := a.irq.pend, mask0 := a.irq.mask0, mask1 := a.irq.mask1, mask2 := a.irq.mask2, mask3 := a.irq.mask3 },
    time := a.time.restored s.time,
    cal := a.cal.restored,
    che := a.che.map (fun e => (e.1, { Chan.init with cfg := e.2.cfg, fenced := e.2.fenced })),
    pairs := a.pairs.map (fun e => (e.1, { e.2 with startRate := e.2.rate, inService := false, stepDown := e.2.inService || e.2.stepDown, alone := none })),
    dec := a.dec.restored,
    sched := { Sched.reset with broken := a.sched.broken, grantMax := a.sched.grantMax, peek := a.sched.peek },
    spm := a.spm.restored,
    pool := { Pool.reset with flushCh := a.pool.flushCh, peek := a.pool.peek },
    nvs := { s.nvs with cfg := a.nvsCfg },
    ldg := { Ldg.reset with recovSel := a.ldg.recovSel, peek := a.ldg.peek },
    pwr := { s.pwr with save := none, padHeld := true },
    rly := { Rly.reset with cfg := a.rly.cfg, routeSel := a.rly.routeSel },
    psp := { Psp.reset with cfg := a.psp.cfg, settled := a.psp.settled, epoch := a.psp.epoch, stored := a.psp.stored },
    dma := { Dma.reset with
      leg := { Dma.reset.leg with src := a.dma.leg.src, dst := a.dma.leg.dst, coherent := a.dma.leg.coherent } } }

/-- COLD_EXIT_RESTORE. -/
def execColdExitRestore (s : State) : Res :=
  match s.pwr.save with
  | some a => onlyIf (!s.inReset && s.pwr.st == .cold && s.pwr.exiting && s.pwr.ack) (·.restoreArea a) s
  | none => .next s

/-- An exit can end (R418): after Ember and Cold TBCLK has restarted; after Cold the save area is back and the NVS read. -/
def State.exitDone (s : State) : Bool :=
  s.pwr.exiting && !s.inReset && s.time.running &&
    (s.pwr.st != .cold || (s.pwr.save.isNone && s.nvs.scanned))

/-- The exit ends (R418, R442): Fire, WAKE_CAUSE, the timers from zero; edges latched in Soak and Bank become pending, a
WAKE_IN of Ember or Cold raises source 12, and a KICK_IN, or a poll period that has expired, starts a doorbell cycle, which after Cold
waits for READY (R374). -/
def State.exitEnds (s : State) : State :=
  let deep := s.pwr.st == .ember || s.pwr.st == .cold
  let woke := s.pwr.latched
  let s := s.onPwr (fun p =>
    { p with st := .fire, exiting := false, wakeCause := p.latched, latched := 0, idleSince := none })
  let s := s.onIrq (fun q => { q with pend := q.pend ||| q.late, late := 0 })
  let s := if deep && bit woke 0 then s.raise 12 else s
  let s := if bit woke 1 && bit s.hif.cfg 0 && bit s.hif.cfg 3 then s.onHif (fun h => { h with again := true }) else s
  if s.ringsRun && s.hif.cycle.isNone then s.startAgain else s

/-- PAD_RELEASE (R420): a write of PWR_CTL with PAD_RELEASE = 1 releases held pads, and each pair of flash channels is
trained at its saved rate. -/
def State.padRelease (s : State) : State :=
  if !s.pwr.padHeld then s
  else
    let s := s.onPwr (fun p => { p with padHeld := false, padHold := false })
    (List.range 16).foldl (fun (s : State) k =>
      if ([2 * k, 2 * k + 1]).any (fun c => chanPers ((s.img.chans[c]?).getD 0) == 0 && !(s.chan c).fenced &&
          (List.range 16).any (fun t => (dieOf s (16 * c + t)).isSome)) then s.askTraining k else s) s

/-- PAD_RELEASE. -/
def execPadRelease (data : Word) (s : State) : Res := hcpAccess (fun s => if bit data 0 then s.padRelease else s) s

end Sys2Proof.Machine
end

