-- ==== Sys2Proof/Machine/Hcp.lean ====
section
/-! DEFINITION. Accesses over the host control port (R51-R53, R384, R413, R467-R471): register writes under their access
codes and conditions, reads with side effects, the XIP window, accesses in reset and in the sleep states. -/

namespace Sys2Proof.Machine

/-- The LO word of an address, of which the bits in `mask` are writable. -/
def setLo (a : BitVec 57) (mask v : Word) : BitVec 57 := setFld a 0 32 (v &&& mask).toNat
/-- The HI word of an address: ADDR[56:32]. -/
def setHi (a : BitVec 57) (v : Word) : BitVec 57 := setFld a 32 25 v.toNat

/-! ## Register writes (R15, R16, R468) -/

/-- A write to the HIF block (R110-R116); the base registers accept one only while QUIESCED = 1 (R468). -/
def State.writeHif (o : Nat) (v : Word) (s : State) : State :=
  let q := s.quiesced
  if o = 0x08 then s.writeHifCfg v
  else if o = 0x10 then s.onHif (fun h => if q then { h with ringTable := setLo h.ringTable 0xFFFFC000 v } else h)
  else if o = 0x14 then s.onHif (fun h => if q then { h with ringTable := setHi h.ringTable v } else h)
  else if o = 0x18 then s.onHif (fun h => if q then { h with db := setLo h.db 0xFFFFF000 v } else h)
  else if o = 0x1C then s.onHif (fun h => if q then { h with db := setHi h.db v } else h)
  else if o = 0x20 then s.onHif (fun h => if q then { h with predBase := setLo h.predBase 0xFFF80000 v } else h)
  else if o = 0x24 then s.onHif (fun h => if q then { h with predBase := setHi h.predBase v } else h)
  else if o = 0x28 then s.onHif (fun h => { h with poll := v.setWidth 17, pollFrom := s.time.ns })
  else if o = 0x2C then s.actionWrite (fun _ => fld v 16 2 == 1 || fld v 16 2 == 2) (·.writeRingCmd v)
  else if o = 0x30 then
    s.actionWrite (fun _ => true) (·.writePredInv v)
  else if o = 0x34 then if bit v 31 && s.hif.faultValid then s.clearHifFault else s
  else s

/-- A write of one half of IRQ_MASKn (R444); an `n` above 3 names no register. -/
def Irq.writeMask (n : Nat) (hi : Bool) (v : Word) (q : Irq) : Irq :=
  let f (m : BitVec 64) : BitVec 64 := if hi then setFld m 32 26 v.toNat else setFld m 0 32 v.toNat
  if n = 0 then { q with mask0 := f q.mask0 }
  else if n = 1 then { q with mask1 := f q.mask1 }
  else if n = 2 then { q with mask2 := f q.mask2 }
  else if n = 3 then { q with mask3 := f q.mask3 }
  else q

/-- A write of one half of IRQ_PEND (R438, R443). -/
def Irq.writePend (hi : Bool) (v : Word) (q : Irq) : Irq :=
  { q with pend := if hi then setFld q.pend 32 26 v.toNat else setFld q.pend 0 32 v.toNat }

/-- A write of IRQ_SRC_CLR (R438): the one pending bit named is cleared. -/
def Irq.clear (v : Word) (q : Irq) : Irq := { q with pend := setFld q.pend (fld v 0 6) 1 0 }

/-- A write of IRQ_WAKE_EN takes effect at the second AONCLK edge after it (R441). -/
def Irq.writeWakeEn (v : Word) (q : Irq) : Irq := { q with wakeEnNext := some (v.setWidth 5, 2) }

/-- A write to the IRQ block (R438, R443-R446). -/
def State.writeIrq (o : Nat) (v : Word) (s : State) : State :=
  if o = 0x00 ∨ o = 0x04 then s.onIrq (Irq.writePend (o == 0x04) v)
  else if o = 0x08 then s.onIrq (Irq.clear v)
  else if 0x10 ≤ o ∧ o < 0x30 then s.onIrq (Irq.writeMask ((o - 0x10) / 8) (o % 8 == 4) v)
  else if o = 0x40 then s.onIrq (Irq.writeWakeEn v)
  else s

/-- A write to the PWR block (R428-R430). -/
def State.writePwr (o : Nat) (v : Word) (s : State) : State :=
  if o = 0x04 then s.onPwr (fun p => { p with cfg := v &&& 0x1E })
  else if o = 0x08 then s.onPwr (fun p => { p with idle0 := v.setWidth 16 })
  else if o = 0x0C then s.onPwr (fun p => { p with idle1 := v.setWidth 16 })
  else if o = 0x10 then s.onPwr (fun p => { p with idle2 := v.setWidth 16 })
  else if o = 0x14 then s.onPwr (fun p => { p with idle3 := v.setWidth 16 })
  else if o = 0x18 then if bit v 0 then s.padRelease else s
  else s

/-- A write to the TIME block (R432, R433); ALARM accepts one only while ARM = 0 (R468). -/
def State.writeTime (o : Nat) (v : Word) (s : State) : State :=
  s.onTime (fun t =>
    if o = 0x10 then if t.arm then t else { t with alarm := setFld t.alarm 0 32 v.toNat }
    else if o = 0x14 then if t.arm then t else { t with alarm := setFld t.alarm 32 32 v.toNat }
    else if o = 0x18 then { t with arm := bit v 0, fired := t.fired && !bit v 31 }
    else if o = 0x1C then { t with cfg := v &&& 0x8000FFFF }
    else t)

/-- A write to the LDG block (R341-R343). -/
def State.writeLdg (o : Nat) (v : Word) (s : State) : State :=
  s.onLdg (fun l =>
    if o = 0x10 then { l with faultValid := l.faultValid && !bit v 31 }
    else if o = 0x20 then { l with recovSel := v.setWidth 13 }
    else if o = 0x2C then { l with peek := v.setWidth 19 }
    else l)

/-- A write to the POOL block (R188-R190). -/
def State.writePool (o : Nat) (v : Word) (s : State) : State :=
  if o = 0x10 then s.onPool (fun p => { p with underrun := p.underrun &&& ~~~v })
  else if o = 0x14 then s.onPool (fun p => { p with qerrValid := p.qerrValid && !bit v 31 })
  else if o = 0x18 then
    s.actionWrite (fun s => (s.chan (fld v 0 5)).fenced && (bit v 8 || bit v 9)) (·.writeFlush v)
  else if o = 0x1C then s.onPool (fun p => { p with peek := v &&& 0x000707FF })
  else s

/-- A write to the DEC block (R214-R217). -/
def State.writeDec (o : Nat) (v : Word) (s : State) : State :=
  s.onDec (fun d =>
    if o = 0x00 then { d with cfg := v &&& 0xFFFF3F1F }
    else if o = 0x04 then { d with llr := v &&& 0x07FFFFFF }
    else if o = 0x10 then { d with faultValid := d.faultValid && !bit v 31 }
    else d)

/-- A write to the CAL block (R243-R249, R266, R267). -/
def State.writeCal (o : Nat) (v : Word) (s : State) : State :=
  if o = 0x00 then s.onCal (fun c => { c with cfg := v &&& 0xCFFFFFFF })
  else if o = 0x04 then
    let s := s.onCal (fun c => { c with temp := v &&& 0x00FFFFFF })
    if s.hif.ready then s.placeTemps else s
  else if o = 0x08 then s.onCal (fun c => { c with recovery := v &&& 0xFFFF })
  else if o = 0x0C then s.onCal (fun c => { c with softMap := v &&& 0x77777777 })
  else if o = 0x14 then s.onCal (fun c => { c with timeoutValid := c.timeoutValid && !bit v 31 })
  else if o = 0x18 then s.onCal (fun c => { c with sel := v.setWidth 15 })
  else if o = 0x24 then s.onCal (fun c => { c with patrolCfg := v &&& 0xFFFFFF00 })
  else if o = 0x28 then s.onCal (fun c => { c with patrolSel := v.setWidth 9 })
  else if o = 0x2C then s.setPeriod s.cal.patrolSel.toNat (fld v 0 16)
  else if o = 0x30 then s.onCal (fun c => { c with logValid := c.logValid && !bit v 31 })
  else if o = 0x80 then s.onCal (fun c => { c with trainCfg := v &&& 0x80FFFF0F })
  else if o = 0x88 then s.onCal (fun c => { c with failValid := c.failValid && !bit v 31 })
  else s

/-- A write to the CHE block of channel `c` (R165). -/
def State.writeChe (c o : Nat) (v : Word) (s : State) : State :=
  if o = 0x00 then s.onChan c (fun h => { h with cfg := v &&& 0x00F0FF1E }) else s

/-- A write to the SCHED block (R311-R313). -/
def State.writeSched (o : Nat) (v : Word) (s : State) : State :=
  s.onSched (fun c =>
    if o = 0x08 then { c with grantMax := v.setWidth 16 }
    else if o = 0x0C then { c with perrValid := c.perrValid && !bit v 31 }
    else if o = 0x10 then { c with faultValid := c.faultValid && !bit v 31 }
    else if o = 0x14 then { c with peek := v &&& 0x00071FFF }
    else c)

/-- A write to the RLY block (R369). -/
def State.writeRly (o : Nat) (v : Word) (s : State) : State :=
  s.onRly (fun r =>
    if o = 0x00 then { r with cfg := v &&& 0x00FF000F }
    else if o = 0x04 then { r with event := r.event &&& ~~~v }
    else if o = 0x08 then { r with routeSel := v.setWidth 11 }
    else if o = 0x0C then { r with routes := SMap.put 0 r.routes r.routeSel.toNat (v.setWidth 16 &&& 0x801F) }
    else r)

/-- What a COMMIT finds whose command does not carry the image (a withheld access, REGISTER_WRITE): whether the image is
valid, and its generation, are free (log 7). -/
def State.commitFree (v : Word) (s : State) : State :=
  let (f, s) := s.drawFree
  s.spmWrite v (commitOp (if bit f 0 && fld f 32 32 != 0 then some (hi32 f.toNat) else none))

/-- A write to SPM_OP_CMD (R385, R405): ignored while BUSY; ACTION 0 stores SLOT alone. -/
def State.writeOpCmd (v : Word) (s : State) : State :=
  if s.spm.opBusy then s
  else if fld v 0 2 = 1 then s.spmWrite v programOp
  else if fld v 0 2 = 2 then s.spmWrite v eraseOp
  else if fld v 0 2 = 3 then s.commitFree v
  else s.onSpm (fun m => { m with opSlot := bit v 8 })

/-- A write to the SPM block (R404, R405); ADDR, LEN and BUF accept one only while BUSY = 0 (R468). -/
def State.writeSpm (o : Nat) (v : Word) (s : State) : State :=
  if o = 0x0C then s.onSpm (Spm.writeBase v)
  else if o = 0x10 then s.onSpm (fun m => if m.opBusy then m else { m with opAddr := v.setWidth 28 })
  else if o = 0x14 then s.onSpm (fun m => if m.opBusy then m else { m with opLen := v })
  else if o = 0x18 then s.onSpm (fun m => if m.opBusy then m else { m with opBuf := setLo m.opBuf 0xFFFFFFFF v })
  else if o = 0x1C then s.onSpm (fun m => if m.opBusy then m else { m with opBuf := setHi m.opBuf v })
  else if o = 0x20 then s.actionWrite (fun s => !s.spm.opBusy && fld v 0 2 != 0) (·.writeOpCmd v)
  else if o = 0x24 then s.onSpm (fun m => { m with opDone := m.opDone && !bit v 31 })
  else s

/-- A write to the NVS block (R406, R407). -/
def State.writeNvs (o : Nat) (v : Word) (s : State) : State :=
  s.onNvs (fun n =>
    if o = 0x04 then { n with faultValid := n.faultValid && !bit v 31 }
    else if o = 0x14 then { n with cfg := v &&& 1 }
    else n)

/-- A write to the PSP block (R372). -/
def State.writePsp (o : Nat) (v : Word) (s : State) : State :=
  s.onPsp (fun p =>
    if o = 0x00 then { p with cfg := v &&& 0x8000FFFF }
    else if o = 0x0C then
      { p with evJoined := p.evJoined && !bit v 0, evLeft := p.evLeft && !bit v 1, evEpoch := p.evEpoch && !bit v 2 }
    else p)

/-- Change the legacy block. -/
def State.onLeg (f : Legacy → Legacy) (s : State) : State := s.onDma (fun d => { d with leg := f d.leg })

/-- A write to the DMA_LEG block (R137-R140); SRC and DST accept one only while BUSY = 0 (R468). -/
def State.writeDma (o : Nat) (v : Word) (s : State) : State :=
  if o = 0x00 then if bit v 0 && !s.dma.disable then s.chainDisable else s
  else if o = 0x10 then
    if s.dma.haltQ.isEmpty then s
    else if fld v 16 2 = 1 then s.chainResume else if fld v 16 2 = 2 then s.chainAbort else s
  else if o = 0x40 then s.onLeg (fun g => if g.busy then g else { g with src := setLo g.src 0xFFFFFFE0 v })
  else if o = 0x44 then s.onLeg (fun g => if g.busy then g else { g with src := setHi g.src v })
  else if o = 0x48 then s.onLeg (fun g => if g.busy then g else { g with dst := setLo g.dst 0xFFFFFFE0 v })
  else if o = 0x4C then s.onLeg (fun g => if g.busy then g else { g with dst := setHi g.dst v })
  else if o = 0x50 then
    s.actionWrite (fun s => fld v 16 2 == 1 || (s.dma.leg.halt && 2 ≤ fld v 16 2)) (·.writeLegStart v)
  else if o = 0x54 then s.onLeg (fun g => { g with done := g.done && !bit v 30 })
  else s

/-- The word offset of an HCP address: the port has no byte address bits (R51, R52). -/
def wordOff (off : BitVec 16) : Nat := off.toNat / 4 * 4

/-- A write to a word offset below 0x8000: unlisted and reserved offsets ignore it (R16, R448). -/
def State.writeReg (o : Nat) (v : Word) (s : State) : State :=
  if o < 0x400 then s.writeHif o v
  else if o < 0x800 then s.writeIrq (o - 0x400) v
  else if o < 0xC00 then s.writePwr (o - 0x800) v
  else if o < 0x1000 then s.writeTime (o - 0xC00) v
  else if o < 0x1400 then s.writeLdg (o - 0x1000) v
  else if o < 0x1800 then s.writePool (o - 0x1400) v
  else if o < 0x1C00 then s.writeDec (o - 0x1800) v
  else if o < 0x2000 then s.writeCal (o - 0x1C00) v
  else if o < 0x3000 then s.writeChe ((o - 0x2000) / 0x80) (o % 0x80) v
  else if o < 0x3800 then s
  else if o < 0x3C00 then s.writeSched (o - 0x3800) v
  else if o < 0x4000 then s.writeRly (o - 0x3C00) v
  else if o < 0x4400 then s.writeSpm (o - 0x4000) v
  else if o < 0x4800 then s.writeNvs (o - 0x4400) v
  else if o < 0x4C00 then s.writePsp (o - 0x4800) v
  else if o < 0x5000 then s.writeDma (o - 0x4C00) v
  else s

/-! ## Reads with side effects (R467) -/

/-- What a read of a word offset below 0x8000 changes: RC fields are cleared, DEC_CW_CNT moves the iteration sum (R218),
the pool extremes start again (R187, R191), the pace extremes too (R37), and the LO time registers capture (R431). -/
def State.readEffect (o : Nat) (s : State) : State :=
  if o = 0x40 then s.onHif (fun h => { h with probes := 0 })
  else if o = 0x44 then s.onHif (fun h => { h with skips := 0 })
  else if o = 0x48 then s.onHif (fun h => { h with forced := 0 })
  else if o = 0x4C then s.onHif (fun h => { h with checks := 0 })
  else if o = 0x81C then s.onPwr (fun p => { p with abortCnt := 0 })
  else if o = 0xC00 then s.onTime (fun t => { t with capNs := t.ns })
  else if o = 0xC08 then s.onTime (fun t => { t with capAon := t.aon })
  else if o = 0xC44 then s.onTime (fun t => { t with paceMax := 0, paceMin := 0xFFFF })
  else if o = 0x1004 then s.onLdg (fun l => { l with replayCnt := 0 })
  else if o = 0x1008 then s.onLdg (fun l => { l with unknownCnt := 0 })
  else if o = 0x100C then s.onLdg (fun l => { l with staleCnt := 0 })
  else if o = 0x1408 then s.onPool (fun p => { p with sharedMin := p.sharedFree })
  else if o = 0x140C then s.onPool (fun p => { p with waitCnt := 0 })
  else if 0x1440 ≤ o ∧ o < 0x14C0 then
    s.onPool (fun p => { p with peaks := SMap.put 0 p.peaks ((o - 0x1440) / 4) (p.held ((o - 0x1440) / 4)) })
  else if o = 0x1814 then s.onDec (fun d => { d with cwCnt := 0, iterSum := d.iterAcc, iterAcc := 0 })
  else if o = 0x181C then s.onDec (fun d => { d with failCnt := 0 })
  else if o = 0x1820 then s.onDec (fun d => { d with softCnt := 0 })
  else if o = 0x1824 then s.onDec (fun d => { d with erasedCnt := 0 })
  else if o = 0x1828 then s.onDec (fun d => { d with tagCnt := 0 })
  else if o = 0x182C then s.onDec (fun d => { d with sherdCnt := 0 })
  else if o = 0x1830 then s.onDec (fun d => { d with sherdFail := 0 })
  else if o = 0x1C3C then s.onCal (fun c => { c with sampleCnt := 0 })
  else if o = 0x1C40 then s.onCal (fun c => { c with rejectCnt := 0 })
  else if o = 0x1C44 then s.onCal (fun c => { c with refirePass := 0 })
  else if o = 0x1C48 then s.onCal (fun c => { c with softPass := 0 })
  else if o = 0x1C4C then s.onCal (fun c => { c with uncorr := 0 })
  else if o = 0x1C8C then s.onCal (fun c => { c with trainCnt := 0 })
  else if 0x2000 ≤ o ∧ o < 0x3000 then
    let c := (o - 0x2000) / 0x80
    if o % 0x80 = 0x0C then s.onChan c (fun h => { h with suspCnt := 0 })
    else if o % 0x80 = 0x10 then s.onChan c (fun h => { h with mergeCnt := 0 })
    else if o % 0x80 = 0x14 then s.onChan c (fun h => { h with promoteCnt := 0 })
    else if o % 0x80 = 0x18 then s.onChan c (fun h => { h with busy := 0 })
    else s
  else if 0x3000 ≤ o ∧ o < 0x3800 then
    if o % 0x40 = 0x08 then s.onPhyOf ((o - 0x3000) / 0x40) (fun p => { p with retrain := 0 }) else s
  else if o = 0x381C then s.onSched (fun c => { c with reloadCnt := 0 })
  else if o = 0x3C1C then s.onRly (fun r => { r with retryCnt := 0 })
  else if o = 0x3C20 then s.onRly (fun r => { r with crcCnt := 0 })
  else if o = 0x3C24 then s.onRly (fun r => { r with lostCnt := 0 })
  else if o = 0x3C28 then s.onRly (fun r => { r with resumeCnt := 0 })
  else if o = 0x4028 then s.onSpm (fun m => { m with suspCnt := 0 })
  else if o = 0x4418 then s.onNvs (fun n => { n with writeCnt := 0 })
  else if o = 0x4810 then s.onPsp (fun p => { p with crcCnt := 0 })
  else s

/-- A read of a word offset below 0x8000: the register as it stands, then what the read changes. -/
def State.readAccess (o : Nat) (s : State) : State :=
  (s.onHcp (fun h => { h with rdata := s.readReg o })).readEffect o

/-- A write to the XIP window ends with HCP_ERR = 1 (R384, R471). -/
def State.windowWrite (s : State) : State := s.onHcp (fun h => { h with rdata := 0, err := true })

/-- The effect of an access that is served, once HCP_ERR and HCP_RDATA stand at 0. -/
def State.serveNow (write : Bool) (off : BitVec 16) (v : Word) (s : State) : State :=
  if off.toNat < 0x8000 then if write then s.writeReg (wordOff off) v else s.readAccess (wordOff off)
  else if write then s.windowWrite else s.xipRead off

/-! ## Meanings -/

/-- An access that ends at once with HCP_ERR = 1, HCP_RDATA = 0 and no effect (R53, R413). -/
def Hcp.failed (h : Hcp) : Hcp := { h with rdata := 0, err := true }

/-- HCP_ACCESS_IN_RESET (R53): while a reset is asserted. -/
def execHcpAccessInReset (_write : Bool) (_off : BitVec 16) (_data : Word) (s : State) : Res :=
  onlyIf s.inReset (·.onHcp Hcp.failed) s

/-- HCP_ACCESS_IN_SLEEP (R413): in Ember and Cold, up to the end of the exit. -/
def execHcpAccessInSleep (_write : Bool) (_off : BitVec 16) (_data : Word) (s : State) : Res :=
  onlyIf (!s.inReset && (s.pwr.st == .ember || s.pwr.st == .cold)) (·.onHcp Hcp.failed) s

/-- HCP_ACCESS_IN_BANK (R413): the access wakes the instance and is withheld until the exit has ended. -/
def execHcpAccessInBank (write : Bool) (off : BitVec 16) (data : Word) (s : State) : Res :=
  onlyIf (!s.inReset && s.pwr.st == .bank && s.hcp.withheld.isNone && s.spm.waiting.isNone) (fun s =>
    (s.onHcp (fun h => { h with withheld := some (write, off, data) })).wake 6) s

/-- REGISTER_WRITE (R15, R16, R468): offsets below 0x8000. -/
def execRegisterWrite (off : BitVec 16) (data : Word) (s : State) : Res :=
  hcpAccess (fun s => if off.toNat < 0x8000 then s.writeReg (wordOff off) data else s) s

/-- RC_REGISTER_READ (R467): offsets below 0x8000. -/
def execRcRegisterRead (off : BitVec 16) (s : State) : Res :=
  hcpAccess (fun s => if off.toNat < 0x8000 then s.readAccess (wordOff off) else s) s

/-- TIME_CAPTURE_READ (R431): a read of TIME_NS_LO or TIME_AON_LO. -/
def execTimeCaptureRead (aon : Bool) (s : State) : Res :=
  hcpAccess (·.readAccess (if aon then 0xC08 else 0xC00)) s

/-- XIP_READ (R384, R471): offsets from 0x8000. -/
def execXipRead (off : BitVec 16) (s : State) : Res :=
  hcpAccess (fun s => if 0x8000 ≤ off.toNat then s.xipRead off else s) s

/-- XIP_WRITE (R384, R471). -/
def execXipWrite (off : BitVec 16) (_data : Word) (s : State) : Res :=
  hcpAccess (fun s => if 0x8000 ≤ off.toNat then s.windowWrite else s) s

/-- XIP_BASE_WRITE (R385, R469). -/
def execXipBaseWrite (data : Word) (s : State) : Res := hcpAccess (·.onSpm (Spm.writeBase data)) s

/-- SPM_PROGRAM (R385). -/
def execSpmProgram (data : Word) (s : State) : Res := spmCmd 1 data programOp s

/-- SPM_ERASE (R385). -/
def execSpmErase (data : Word) (s : State) : Res := spmCmd 2 data eraseOp s

/-- SPM_COMMIT (R383, R385): `image` is what the device holds in the slot named, which must hold no open serial-erase marker. -/
def execSpmCommit (data : Word) (image : SparseBytes) (s : State) : Res :=
  spmCmd 3 data (commitOp (if imageOk image && !s.openSectors.any (inSlot (bit data 8)) then some (imgGen image) else none)) s

/-- IRQ_SRC_CLR (R438). -/
def execIrqSrcClr (data : Word) (s : State) : Res := hcpAccess (·.onIrq (Irq.clear data)) s

/-- IRQ_PEND_WRITE (R438). -/
def execIrqPendWrite (hi : Bool) (data : Word) (s : State) : Res := hcpAccess (·.onIrq (Irq.writePend hi data)) s

/-- IRQ_MASK_WRITE (R440, R444). -/
def execIrqMaskWrite (n : Nat) (hi : Bool) (data : Word) (s : State) : Res :=
  hcpAccess (·.onIrq (Irq.writeMask n hi data)) s

/-- WAKE_EN_WRITE (R441). -/
def execWakeEnWrite (data : Word) (s : State) : Res := hcpAccess (·.onIrq (Irq.writeWakeEn data)) s

/-- The access that Bank withheld is served once the exit has ended (R413). -/
def State.serveWithheld (s : State) : State :=
  match s.hcp.withheld with
  | none => s
  | some (w, off, v) =>
    (s.onHcp (fun h => { h with rdata := 0, err := false, withheld := none, last := s.time.ns })).serveNow w off v

/-- SLEEP_EXIT_COMPLETE (R418, R413, R442). -/
def execSleepExitComplete (s : State) : Res := onlyIf s.exitDone (fun s => s.exitEnds.serveWithheld) s

end Sys2Proof.Machine
end

