-- ==== Sys2Proof/Machine/Jtag.lean ====
section
/-! DEFINITION. The test access port (R71), an IEEE 1149.1 port: its instructions, and what a scan moves through the register
each selects. TDO holds the bits last shifted out, first bit first; it drives in Shift-DR and Shift-IR alone. -/

namespace Sys2Proof.Machine

/-- IDCODE (R71): version 0x3, part 0x7A0B, manufacturer zero. -/
def idcode : Word := 0x37A0B001

/-- A scan of the boundary register: the captured pins shift out as the new contents shift in; with nothing shifted in the
register keeps what it holds. -/
def Jtag.scan (pins new : List Bool) (j : Jtag) : Jtag :=
  if new.isEmpty then j else { j with boundary := new, tdo := pins }

/-- JTAG_RESET: TRST_N low, Test-Logic-Reset. -/
def execJtagReset (s : State) : Res := .next (s.onJtag (fun j => { j with ir := .reset, tdo := [] }))

/-- JTAG_BYPASS: one bit through the bypass register, which captures 0 when BYPASS is newly selected. -/
def execJtagBypass (tdi : Bool) (s : State) : Res :=
  .next (s.onJtag (fun j => { j with ir := .bypass, bypass := tdi, tdo := [j.ir == .bypass && j.bypass] }))

/-- JTAG_IDCODE: the 32 bits shift out, least significant first. -/
def execJtagIdcode (s : State) : Res :=
  .next (s.onJtag (fun j => { j with ir := .idcode, tdo := (List.range 32).map (fun i => bit idcode i) }))

/-- JTAG_SAMPLE_PRELOAD: the pins are sampled and shift out; `preload`, where given, shifts in. -/
def execJtagSamplePreload (pins preload : List Bool) (s : State) : Res :=
  .next (s.onJtag (fun j => { Jtag.scan pins preload j with ir := .sample, tdo := pins }))

/-- JTAG_EXTEST: the pins are driven from the boundary register, which a scan loads; the queues are in strict mode while
EXTEST is selected (R182). -/
def execJtagExtest (pins shift : List Bool) (s : State) : Res :=
  .next (s.onJtag (fun j => { Jtag.scan pins shift j with ir := .extest }))

end Sys2Proof.Machine
end

