-- ==== Sys2Proof/Machine/Pins.lean ====
section
/-! DEFINITION. What the block drives on its pins, as a function of the state: the channels (R62, R77, R148, R265, R296,
R345, R420) and the serial memory (R69). -/

namespace Sys2Proof.Machine

/-- What a pin carries: a strong level, an internal weak pull, no driver, or what the transfer under way moves. -/
inductive Drive where
  | low
  | high
  | weakDown
  | weakUp
  | hiZ
  | moves
  deriving DecidableEq, Repr

/-- The pins of one channel (R62). -/
structure ChanPins where
  dq : Drive
  dqs : Drive
  reT : Drive
  reC : Drive
  weN : Drive
  ale : Drive
  cle : Drive
  ceN : List Drive
  wpN : Drive
  rbN : Drive
  deriving DecidableEq, Repr

/-- Every pad an input without a driver: a target-personality channel in reset and in Cold (R62). -/
def padsOpen : ChanPins :=
  { dq := .hiZ, dqs := .hiZ, reT := .hiZ, reC := .hiZ, weN := .hiZ, ale := .hiZ, cle := .hiZ,
    ceN := List.replicate 8 .hiZ, wpN := .hiZ, rbN := .hiZ }

/-- In a cold reset, and in start-up until the image is applied, the dies are held safe by weak drive alone (R62). -/
def padsCold : ChanPins := { padsOpen with ceN := List.replicate 8 .weakUp, wpN := .weakDown }

/-- A flash or host channel in a warm reset, in Cold under PAD_HOLD, or fenced: no die is selected or can be programmed
(R62, R77, R265). -/
def padsSafe : ChanPins :=
  { padsOpen with reT := .high, reC := .low, weN := .high, ale := .low, cle := .low, ceN := List.replicate 8 .high,
                  wpN := .low }

/-- The channel's personality is that of a target (R344). -/
def State.targetPers (s : State) (ch : Nat) : Bool := chanPers ((s.img.chans[ch]?).getD 0) == 2

/-- The CE line that a channel's traffic holds low: that of the grant at its pins (R148), or line 0 of a relay transfer
(R345). -/
def State.ceLow (s : State) (ch : Nat) : Option Nat :=
  match (s.chan ch).grant with
  | some g => some (g.lun % 16 / 2)
  | none => if s.rly.links.any (fun e => (SMap.get? e.2.sending ch).isSome) then some 0 else none

/-- A channel in service (R62, R148): with traffic at the pins one CE_N line is low and every other high. In training each
counted CE is selected in its slot (R254). -/
def State.padsServing (s : State) (ch : Nat) : ChanPins :=
  let busy := bit s.cal.active (ch / 2) || (s.ceLow ch).isSome
  let bus : Drive := if busy then .moves else .hiZ
  let line (idle : Drive) : Drive := if busy then .moves else idle
  { dq := bus, dqs := bus, reT := line .high, reC := line .low, weN := line .high, ale := line .low, cle := line .low,
    ceN := (List.range 8).map (fun e =>
      if s.ceLow ch = some e then .low else if bit s.cal.active (ch / 2) then .moves else .high),
    wpN := .high, rbN := .hiZ }

/-- A target channel in service: it drives DQ and DQS as a pull calls for, and holds RB_N low while it has a frame queued
(R62, R345). -/
def State.padsTarget (s : State) (ch : Nat) : ChanPins :=
  let l := s.rly.links.find? (fun e => e.2.target && e.1 ≤ ch && ch < e.1 + e.2.size)
  let busy := l.any (fun e => (SMap.get? e.2.sending ch).isSome)
  { padsOpen with dq := if busy then .moves else .hiZ, dqs := if busy then .moves else .hiZ,
                  rbN := if l.any (fun e => !e.2.txq.isEmpty || !e.2.retryQ.isEmpty) then .low else .hiZ }

/-- The pins of channel `ch`. -/
def State.chanPins (s : State) (ch : Nat) : ChanPins :=
  if s.pwr.padHold then (if bit s.pwr.heldIn ch then padsOpen else padsSafe)
  else if s.sys.coldLow || !s.spm.booted then padsCold
  else if s.targetPers ch then (if s.sys.warmLow || (s.chan ch).fenced then padsOpen else s.padsTarget ch)
  else if s.sys.warmLow || (s.chan ch).fenced then padsSafe
  else s.padsServing ch

/-- The pins of the serial memory (R69). -/
structure SpmPins where
  sck : Drive
  csN : Drive
  dq : Drive
  resetN : Drive
  deriving DecidableEq, Repr

/-- What the serial memory's pins carry (R69): in a reset, and under PAD_HOLD, the device is not selected; SPM_RESET_N
falls with a cold reset alone. -/
def State.spmPins (s : State) : SpmPins :=
  let moves := !s.sys.coldLow && !s.sys.warmLow && !s.pwr.padHold && (s.spm.inFlight.isSome || s.spm.loading.isSome)
  { sck := if moves then .moves else .low, csN := if moves then .low else .high, dq := if moves then .moves else .hiZ,
    resetN := if s.pwr.padHold || (s.spm.resetHigh && !s.sys.coldLow) then .high else .low }

end Sys2Proof.Machine
end

