-- ==== Sys2Proof/Machine/Psp.lean ====
section
/-! DEFINITION. The peer sync port (14_relay_and_systems.md R364-R368, R372): frames sent, membership, the system epoch,
the time source and its offsets, which the time unit takes (R424). -/

namespace Sys2Proof.Machine

/-- A bit of PSP_EVENT is set: source 14 rises where it was 0 (R372, R436), a wake event in Soak and Bank (R414). -/
def State.pspEvent (was : Bool) (f : Psp → Psp) (s : State) : State :=
  let s := s.onPsp f
  if was then s else if s.dozing then (s.raise 14).wake 3 else s.raise 14

/-- The time source as this instance hears it (R368): the lowest-numbered member with TSRC = 1, itself included. -/
def State.pspSource (s : State) : State :=
  let p := s.psp
  let self := s.sys.instance_.toNat
  let c := (if p.srcEn && p.settled then [self] else []) ++ p.tsrcs
  match c with
  | [] => s.onPsp (fun p => { p with source := false, sourceId := 0x7FF })
  | x :: r =>
    let low := r.foldl min x
    s.onPsp (fun p =>
      { p with source := low == self && p.srcEn, sourceId := BitVec.ofNat 11 low,
               lastTime := if low == self && !p.source then s.time.ns else p.lastTime })

/-- The frame this instance sends now (R364, R367). -/
def State.pspFrame (s : State) : PFrame :=
  { src := s.sys.instance_, epoch := if s.psp.settled then s.psp.epoch else s.psp.stored + 1, time := s.time.ns,
    tsrc := s.psp.srcEn, listening := !s.psp.settled }

/-- The 22 bytes of a frame (R364): SYNC, TYPE, SRC, EPOCH, TIME, TSRC, LISTENING, and the CRC-32C of bytes 2-17. -/
def pspBytes (typ : Nat) (f : PFrame) : List Byte :=
  let b := leBytes 2 (typ + 16 * f.src.toNat) ++ leBytes 4 f.epoch.toNat ++ leBytes 8 f.time.toNat ++
    leBytes 2 (f.tsrc.toNat + 2 * f.listening.toNat)
  leBytes 2 0xD5E3 ++ b ++ leBytes 4 (Codec.crc32c b).toNat

/-- A frame on the two lanes (R364): bit n goes on lane n mod 2 at edge ⌊n / 2⌋. -/
def pspLanes (bs : List Byte) : List (BitVec 2) := bs.flatMap (fun b => (List.range 4).map (fun k => b.extractLsb' (2 * k) 2))

/-- Take an epoch (R367): it is kept with the NVS health counters. -/
def State.takeEpoch (e : Word) (s : State) : State :=
  (s.onPsp (fun p => { p with epoch := e, stored := e })).nvsHealth (fun h => { h with epoch := e })

/-- A good frame is heard (R366, R367). -/
def State.pspHear (f : PFrame) (s : State) : State :=
  if f.src = s.sys.instance_ then s
  else if !s.psp.settled then
    if s.psp.listenFrom.isNone then s
    else s.onPsp (fun p =>
      if f.listening then { p with bestCandidate := if p.bestCandidate < f.epoch then f.epoch else p.bestCandidate }
      else { p with bestSettled := (match p.bestSettled with
        | some b => some (if b < f.epoch then f.epoch else b)
        | none => some f.epoch) })
  else if f.listening then s
  else
    let s := if s.psp.epoch < f.epoch then
        (s.takeEpoch f.epoch).pspEvent s.psp.evEpoch (fun p => { p with evEpoch := true }) else s
    if f.epoch ≠ s.psp.epoch then s
    else
      let i := f.src.toNat
      let isNew := (SMap.get? s.psp.members i).isNone
      let s := s.onPsp (fun p =>
        { p with members := SMap.set p.members i s.time.ns,
                 tsrcs := if f.tsrc then (if p.tsrcs.contains i then p.tsrcs else p.tsrcs ++ [i]) else p.tsrcs.filter (· != i) })
      let s := if isNew then
          s.pspEvent s.psp.evJoined (fun p => { p with evJoined := true, lastId := f.src }) else s
      s.pspSource

/-- PSP_MEMBER_DUE (R364, R367): every 2 ms, once listening has begun; TIME_SRC_EN applies from this frame on (R469). -/
def execPspMemberDue (s : State) : Res :=
  onlyIf (s.awake && (s.psp.settled || s.psp.listenFrom.isSome) && s.passed s.psp.lastMember 2000000) (fun s =>
    let s := s.onPsp (fun p => { p with lastMember := s.time.ns, srcEn := bit p.cfg 31 })
    (s.onPsp (fun p => { p with sent := pspLanes (pspBytes 1 s.pspFrame) })).pspSource) s

/-- PSP_TIME_DUE (R364, R368): every 100 µs, from the time source. -/
def execPspTimeDue (s : State) : Res :=
  onlyIf (s.awake && s.psp.source && s.passed s.psp.lastTime 100000) (fun s =>
    s.onPsp (fun p => { p with lastTime := s.time.ns, sent := pspLanes (pspBytes 2 s.pspFrame) })) s

/-- PSP_MEMBER_FRAME (R366, R367). -/
def execPspMemberFrame (f : PFrame) (s : State) : Res := onlyIf s.awake (·.pspHear f) s

/-- The time unit takes an offset (R424, R433): a positive one above STEP_US is stepped at the next TBCLK edge, every
other becomes the remaining slew. -/
def Time.takeOffset (o : Int) (t : Time) : Time :=
  let t := { t with offset := o }
  if (1000 * fld t.cfg 0 16 : Nat) < o then { t with stepDue := o.toNat } else { t with slew := o }

/-- PSP_TIME_FRAME (R368): `local_` is TIME_NS when the first SYNC bit was at PSP_RX. -/
def execPspTimeFrame (f : PFrame) (local_ : Ns) (s : State) : Res :=
  onlyIf s.awake (fun s =>
    let s := s.pspHear f
    if !s.psp.settled || s.psp.source || f.src ≠ s.psp.sourceId || f.epoch ≠ s.psp.epoch || f.listening then s
    else
      let o := (f.time + BitVec.ofNat 64 (fld s.psp.cfg 0 16) - local_).toInt
      (s.onTime (Time.takeOffset o)).onPsp (fun p => { p with synced := true, timeTaken := s.time.ns })) s

/-- PSP_BAD_FRAME (R364, R372): discarded and counted. -/
def execPspBadFrame (s : State) : Res := onlyIf s.awake (·.onPsp (fun p => { p with crcCnt := p.crcCnt + 1 })) s

/-- PSP_MEMBER_TIMEOUT (R366): 7 ms without a good frame from a member. -/
def execPspMemberTimeout (id : Nat) (s : State) : Res :=
  match SMap.get? s.psp.members id with
  | none => .next s
  | some t =>
    onlyIf (s.awake && s.passed t 7000000) (fun s =>
      let s := s.onPsp (fun p => { p with members := SMap.erase p.members id, tsrcs := p.tsrcs.filter (· != id) })
      (s.pspEvent s.psp.evLeft (fun p => { p with evLeft := true, lastId := BitVec.ofNat 11 id })).pspSource) s

/-- PSP_LISTEN_END (R367): the highest settled epoch heard, or the highest candidate. -/
def execPspListenEnd (s : State) : Res :=
  match s.psp.listenFrom with
  | none => .next s
  | some t =>
    onlyIf (s.awake && !s.psp.settled && s.passed t 10000000) (fun s =>
      let own := s.psp.stored + 1
      let e := match s.psp.bestSettled with
        | some b => b
        | none => if own < s.psp.bestCandidate then s.psp.bestCandidate else own
      ((s.takeEpoch e).onPsp (fun p => { p with settled := true, listenFrom := none })).pspSource) s

/-- PSP_SYNC_LAPSE (R368). -/
def execPspSyncLapse (s : State) : Res :=
  onlyIf (s.awake && s.psp.synced && s.passed s.psp.timeTaken 1000000) (·.onPsp (fun p => { p with synced := false })) s

end Sys2Proof.Machine
end

