-- ==== Sys2Proof/Machine/Dispatch.lean ====
section
/-! DEFINITION. The dispatch: one arm per command, each one direct call of its meaning. -/

namespace Sys2Proof.Machine

/-- The effect of a command on everything but the queue. -/
def exec (i : Instr) (s : State) : Host.Outcome State Fault Refusal :=
  match i with
  | .coldResetAssert => Sys2Proof.Machine.execColdResetAssert s
  | .coldStart straps => Sys2Proof.Machine.execColdStart straps s
  | .nvsStartScanEnd => Sys2Proof.Machine.execNvsStartScanEnd s
  | .serialDiscovery sfdp opt0 opt1 suspended => Sys2Proof.Machine.execSerialDiscovery sfdp opt0 opt1 suspended s
  | .slotSelection => Sys2Proof.Machine.execSlotSelection s
  | .imageLoadEnd image => Sys2Proof.Machine.execImageLoadEnd image s
  | .serialSectorReerase sector => Sys2Proof.Machine.execSerialSectorReerase sector s
  | .wasterTableBuild => Sys2Proof.Machine.execWasterTableBuild s
  | .calibrationRestore => Sys2Proof.Machine.execCalibrationRestore s
  | .dieCheck lun id ext => Sys2Proof.Machine.execDieCheck lun id ext s
  | .startTraining pair => Sys2Proof.Machine.execStartTraining pair s
  | .startUpReady => Sys2Proof.Machine.execStartUpReady s
  | .warmResetAssert => Sys2Proof.Machine.execWarmResetAssert s
  | .warmResetDeassert ecc suspended => Sys2Proof.Machine.execWarmResetDeassert ecc suspended s
  | .aonReset => Sys2Proof.Machine.execAonReset s
  | .coreRailLoss => Sys2Proof.Machine.execCoreRailLoss s
  | .hcpAccessInReset write off data => Sys2Proof.Machine.execHcpAccessInReset write off data s
  | .hcpAccessInBank write off data => Sys2Proof.Machine.execHcpAccessInBank write off data s
  | .registerWrite off data => Sys2Proof.Machine.execRegisterWrite off data s
  | .rcRegisterRead off => Sys2Proof.Machine.execRcRegisterRead off s
  | .timeCaptureRead aon => Sys2Proof.Machine.execTimeCaptureRead aon s
  | .xipRead off => Sys2Proof.Machine.execXipRead off s
  | .xipWrite off data => Sys2Proof.Machine.execXipWrite off data s
  | .xipLineArrival line => Sys2Proof.Machine.execXipLineArrival line s
  | .xipBaseWrite data => Sys2Proof.Machine.execXipBaseWrite data s
  | .hifEnable data => Sys2Proof.Machine.execHifEnable data s
  | .hifDisable data => Sys2Proof.Machine.execHifDisable data s
  | .ringLoad data => Sys2Proof.Machine.execRingLoad data s
  | .ringStop data => Sys2Proof.Machine.execRingStop data s
  | .ringTableData ring entry => Sys2Proof.Machine.execRingTableData ring entry s
  | .ringTableReadError ring => Sys2Proof.Machine.execRingTableReadError ring s
  | .predInvalidate data => Sys2Proof.Machine.execPredInvalidate data s
  | .predInvalidateAll data => Sys2Proof.Machine.execPredInvalidateAll data s
  | .hifFaultClear data => Sys2Proof.Machine.execHifFaultClear data s
  | .kickIn => Sys2Proof.Machine.execKickIn s
  | .pollTimerExpiry => Sys2Proof.Machine.execPollTimerExpiry s
  | .sqPollExpiry sq => Sys2Proof.Machine.execSqPollExpiry sq s
  | .summarySwapData bits => Sys2Proof.Machine.execSummarySwapData bits s
  | .tailBlockData block tails => Sys2Proof.Machine.execTailBlockData block tails s
  | .cqHeadData block heads => Sys2Proof.Machine.execCqHeadData block heads s
  | .doorbellReadError => Sys2Proof.Machine.execDoorbellReadError s
  | .sqFetchRequest => Sys2Proof.Machine.execSqFetchRequest s
  | .ownMismatch entry => Sys2Proof.Machine.execOwnMismatch entry s
  | .sqReadError => Sys2Proof.Machine.execSqReadError s
  | .unitEntryTaken ctx ix ecc => Sys2Proof.Machine.execUnitEntryTaken ctx ix ecc s
  | .unknownOpcode entry ctx => Sys2Proof.Machine.execUnknownOpcode entry ctx s
  | .read entry ctx => Sys2Proof.Machine.execRead entry ctx s
  | .readScan entry ctx => Sys2Proof.Machine.execReadScan entry ctx s
  | .readSherd entry ctx => Sys2Proof.Machine.execReadSherd entry ctx s
  | .readStream entry ctx => Sys2Proof.Machine.execReadStream entry ctx s
  | .program entry ctx => Sys2Proof.Machine.execProgram entry ctx s
  | .programSlc entry ctx => Sys2Proof.Machine.execProgramSlc entry ctx s
  | .fold entry ctx => Sys2Proof.Machine.execFold entry ctx s
  | .erase entry ctx => Sys2Proof.Machine.execErase entry ctx s
  | .raw entry ctx => Sys2Proof.Machine.execRaw entry ctx s
  | .cancel entry ctx => Sys2Proof.Machine.execCancel entry ctx s
  | .ringFence entry ctx => Sys2Proof.Machine.execRingFence entry ctx s
  | .calibrate entry ctx => Sys2Proof.Machine.execCalibrate entry ctx s
  | .patrolNow entry ctx => Sys2Proof.Machine.execPatrolNow entry ctx s
  | .nvsSync entry ctx => Sys2Proof.Machine.execNvsSync entry ctx s
  | .nop entry ctx => Sys2Proof.Machine.execNop entry ctx s
  | .predicateData ctx bits => Sys2Proof.Machine.execPredicateData ctx bits s
  | .predicateFetchError ctx => Sys2Proof.Machine.execPredicateFetchError ctx s
  | .segmentDescriptorData chain desc => Sys2Proof.Machine.execSegmentDescriptorData chain desc s
  | .appendLinkData chain link => Sys2Proof.Machine.execAppendLinkData chain link s
  | .sourceDataReturn chain tag data => Sys2Proof.Machine.execSourceDataReturn chain tag data s
  | .programPageLink ix => Sys2Proof.Machine.execProgramPageLink ix s
  | .dataWriteAck id => Sys2Proof.Machine.execDataWriteAck id s
  | .chainBusError chain write tag => Sys2Proof.Machine.execChainBusError chain write tag s
  | .chainResume => Sys2Proof.Machine.execChainResume s
  | .chainAbort => Sys2Proof.Machine.execChainAbort s
  | .chainDisable => Sys2Proof.Machine.execChainDisable s
  | .legacyStart data => Sys2Proof.Machine.execLegacyStart data s
  | .legacyResume data => Sys2Proof.Machine.execLegacyResume data s
  | .legacyAbort data => Sys2Proof.Machine.execLegacyAbort data s
  | .legacyBusError write tag => Sys2Proof.Machine.execLegacyBusError write tag s
  | .streamPageAdmit ctx ix => Sys2Proof.Machine.execStreamPageAdmit ctx ix s
  | .consReadData ctx cons high low => Sys2Proof.Machine.execConsReadData ctx cons high low s
  | .hdpResponseDiscard => Sys2Proof.Machine.execHdpResponseDiscard s
  | .hdpReissue => Sys2Proof.Machine.execHdpReissue s
  | .cqWrite ctx => Sys2Proof.Machine.execCqWrite ctx s
  | .cqWriteAck cq => Sys2Proof.Machine.execCqWriteAck cq s
  | .cqWriteError cq => Sys2Proof.Machine.execCqWriteError cq s
  | .workItemTransfer => Sys2Proof.Machine.execWorkItemTransfer s
  | .entryFree ix => Sys2Proof.Machine.execEntryFree ix s
  | .urgencyPromotion ix gen => Sys2Proof.Machine.execUrgencyPromotion ix gen s
  | .arbiterDecision ch io => Sys2Proof.Machine.execArbiterDecision ch io s
  | .stepReloadDone step content => Sys2Proof.Machine.execStepReloadDone step content s
  | .arrayStartPinEnd ch status => Sys2Proof.Machine.execArrayStartPinEnd ch status s
  | .grantRelease ch => Sys2Proof.Machine.execGrantRelease ch s
  | .scheduleEnd ch => Sys2Proof.Machine.execScheduleEnd ch s
  | .grantLimitExceeded ch => Sys2Proof.Machine.execGrantLimitExceeded ch s
  | .readyPollDue lun => Sys2Proof.Machine.execReadyPollDue lun s
  | .patrolReadLink lun ix => Sys2Proof.Machine.execPatrolReadLink lun ix s
  | .runTimeExpiry lun => Sys2Proof.Machine.execRunTimeExpiry lun s
  | .suspendWindowExpiry lun => Sys2Proof.Machine.execSuspendWindowExpiry lun s
  | .mergeWindowExpiry lun => Sys2Proof.Machine.execMergeWindowExpiry lun s
  | .refireBackoffExpiry lun => Sys2Proof.Machine.execRefireBackoffExpiry lun s
  | .patrolAccrual lun => Sys2Proof.Machine.execPatrolAccrual lun s
  | .temperatureReadDue lun => Sys2Proof.Machine.execTemperatureReadDue lun s
  | .temperatureReading lun t => Sys2Proof.Machine.execTemperatureReading lun t s
  | .relearnTimeout lun => Sys2Proof.Machine.execRelearnTimeout lun s
  | .thmDieTSample code => Sys2Proof.Machine.execThmDieTSample code s
  | .packetComplete ch bytes short mismatch => Sys2Proof.Machine.execPacketComplete ch bytes short mismatch s
  | .flushTakesEffect ch egress => Sys2Proof.Machine.execFlushTakesEffect ch egress s
  | .poolFlushIngress data => Sys2Proof.Machine.execPoolFlushIngress data s
  | .poolFlushEgress data => Sys2Proof.Machine.execPoolFlushEgress data s
  | .peckAllocationGrant ch pecks => Sys2Proof.Machine.execPeckAllocationGrant ch pecks s
  | .foldAdmission lun pecks => Sys2Proof.Machine.execFoldAdmission lun pecks s
  | .decodeStart kind => Sys2Proof.Machine.execDecodeStart kind s
  | .hardDecodeEnd kind lane fault => Sys2Proof.Machine.execHardDecodeEnd kind lane fault s
  | .softDecodeEnd lane fault => Sys2Proof.Machine.execSoftDecodeEnd lane fault s
  | .sherdDecodeEnd lane fault => Sys2Proof.Machine.execSherdDecodeEnd lane fault s
  | .spareLaneInService lane => Sys2Proof.Machine.execSpareLaneInService lane s
  | .predicateDecision ix gen => Sys2Proof.Machine.execPredicateDecision ix gen s
  | .sampleApply => Sys2Proof.Machine.execSampleApply s
  | .trainingStart pair => Sys2Proof.Machine.execTrainingStart pair s
  | .trainingComplete pair lo hi => Sys2Proof.Machine.execTrainingComplete pair lo hi s
  | .trainingFail pair lo hi => Sys2Proof.Machine.execTrainingFail pair lo hi s
  | .trainingTimeout pair => Sys2Proof.Machine.execTrainingTimeout pair s
  | .nvsWriteDone verified => Sys2Proof.Machine.execNvsWriteDone verified s
  | .nvsRetryDue => Sys2Proof.Machine.execNvsRetryDue s
  | .snapshotStart => Sys2Proof.Machine.execSnapshotStart s
  | .healthUpdateDue => Sys2Proof.Machine.execHealthUpdateDue s
  | .spmProgram data => Sys2Proof.Machine.execSpmProgram data s
  | .spmErase data => Sys2Proof.Machine.execSpmErase data s
  | .spmCommit data image => Sys2Proof.Machine.execSpmCommit data image s
  | .spmOpEnd deviceOk => Sys2Proof.Machine.execSpmOpEnd deviceOk s
  | .spmSuspend => Sys2Proof.Machine.execSpmSuspend s
  | .spmResume => Sys2Proof.Machine.execSpmResume s
  | .paceWindowEnd crossings => Sys2Proof.Machine.execPaceWindowEnd crossings s
  | .timeAlarmFire => Sys2Proof.Machine.execTimeAlarmFire s
  | .timeCompensation => Sys2Proof.Machine.execTimeCompensation s
  | .timeAonCorrection => Sys2Proof.Machine.execTimeAonCorrection s
  | .soakEntry wakeDuringPrepare refuses => Sys2Proof.Machine.execSoakEntry wakeDuringPrepare refuses s
  | .bankEntry => Sys2Proof.Machine.execBankEntry s
  | .emberEntry => Sys2Proof.Machine.execEmberEntry s
  | .coldEntry => Sys2Proof.Machine.execColdEntry s
  | .wakeEvent cause => Sys2Proof.Machine.execWakeEvent cause s
  | .watcherWake cause => Sys2Proof.Machine.execWatcherWake cause s
  | .pwrAckRise => Sys2Proof.Machine.execPwrAckRise s
  | .sleepExitComplete => Sys2Proof.Machine.execSleepExitComplete s
  | .coldExitRestore => Sys2Proof.Machine.execColdExitRestore s
  | .padRelease data => Sys2Proof.Machine.execPadRelease data s
  | .wakeIn => Sys2Proof.Machine.execWakeIn s
  | .irqSrcClr data => Sys2Proof.Machine.execIrqSrcClr data s
  | .irqPendWrite hi data => Sys2Proof.Machine.execIrqPendWrite hi data s
  | .irqMaskWrite n hi data => Sys2Proof.Machine.execIrqMaskWrite n hi data s
  | .wakeEnWrite data => Sys2Proof.Machine.execWakeEnWrite data s
  | .relayReadIdPoll ch id => Sys2Proof.Machine.execRelayReadIdPoll ch id s
  | .targetReadId ch => Sys2Proof.Machine.execTargetReadId ch s
  | .relayPullDue ch rbLow => Sys2Proof.Machine.execRelayPullDue ch rbLow s
  | .relayHeartbeatDue ch => Sys2Proof.Machine.execRelayHeartbeatDue ch s
  | .relayCommandFrame ch f ctx => Sys2Proof.Machine.execRelayCommandFrame ch f ctx s
  | .relayDataFrame ch f => Sys2Proof.Machine.execRelayDataFrame ch f s
  | .relayCompletionFrame ch f => Sys2Proof.Machine.execRelayCompletionFrame ch f s
  | .relayCreditFrame ch f => Sys2Proof.Machine.execRelayCreditFrame ch f s
  | .relayHeartbeatFrame ch f => Sys2Proof.Machine.execRelayHeartbeatFrame ch f s
  | .relayHelloFrame ch f => Sys2Proof.Machine.execRelayHelloFrame ch f s
  | .relayTrainFrame ch f => Sys2Proof.Machine.execRelayTrainFrame ch f s
  | .relayBadFrame ch => Sys2Proof.Machine.execRelayBadFrame ch s
  | .relayRetryTimeout ch => Sys2Proof.Machine.execRelayRetryTimeout ch s
  | .relayChannelSilent ch => Sys2Proof.Machine.execRelayChannelSilent ch s
  | .relayLinkDown ch => Sys2Proof.Machine.execRelayLinkDown ch s
  | .trainHoldExpiry ch => Sys2Proof.Machine.execTrainHoldExpiry ch s
  | .relayHoldExpiry ch => Sys2Proof.Machine.execRelayHoldExpiry ch s
  | .pspMemberDue => Sys2Proof.Machine.execPspMemberDue s
  | .pspTimeDue => Sys2Proof.Machine.execPspTimeDue s
  | .pspMemberFrame f => Sys2Proof.Machine.execPspMemberFrame f s
  | .pspTimeFrame f local_ => Sys2Proof.Machine.execPspTimeFrame f local_ s
  | .pspBadFrame => Sys2Proof.Machine.execPspBadFrame s
  | .pspMemberTimeout id => Sys2Proof.Machine.execPspMemberTimeout id s
  | .pspListenEnd => Sys2Proof.Machine.execPspListenEnd s
  | .jtagReset => Sys2Proof.Machine.execJtagReset s
  | .jtagBypass tdi => Sys2Proof.Machine.execJtagBypass tdi s
  | .jtagIdcode => Sys2Proof.Machine.execJtagIdcode s
  | .jtagSamplePreload pins preload => Sys2Proof.Machine.execJtagSamplePreload pins preload s
  | .jtagExtest pins shift => Sys2Proof.Machine.execJtagExtest pins shift s
  | .segmentWriteBackAck id => Sys2Proof.Machine.execSegmentWriteBackAck id s
  | .serialStatusPoll busy suspended => Sys2Proof.Machine.execSerialStatusPoll busy suspended s
  | .spmBufferData data error => Sys2Proof.Machine.execSpmBufferData data error s
  | .relayTransferEnd ch rbLow => Sys2Proof.Machine.execRelayTransferEnd ch rbLow s
  | .targetPull ch => Sys2Proof.Machine.execTargetPull ch s
  | .targetTrainingCommand ch sweep => Sys2Proof.Machine.execTargetTrainingCommand ch sweep s
  | .pspSyncLapse => Sys2Proof.Machine.execPspSyncLapse s
  | .hcpAccessInSleep write off data => Sys2Proof.Machine.execHcpAccessInSleep write off data s

end Sys2Proof.Machine
end

