-- ==== Sys2Proof/WellFormed.lean ====
section
/-! DEFINITION. The commands whose operands name something that exists: a ring (R80), an LUN position, a channel, a channel
pair, a ledger entry (R314), a peck (R170), an instance, an offset of the right half of the HCP space (R52), a line or
block of the right length. A command that is not well formed finds its precondition unmet (log 10). -/

namespace Sys2Proof

/-- Every number of a list is below `n`, and none occurs twice. -/
def distinctBelow (n : Nat) (l : List Nat) : Bool := l.all (· < n) && decide l.Nodup

/-- The five context entries of a fetched command (R314). -/
def ctxOk (ctx : List Nat) : Bool := ctx.length == 5 && distinctBelow 131072 ctx

/-- Every index a sweep holds is there: eight DQs. -/
def sweepOk (w : Sweep) : Bool := w.rd.length == 8 && w.wr.length == 8

/-- The operands of a command name things that exist. -/
def Instr.wf (i : Instr) : Bool :=
  match i with
  | .serialSectorReerase sector => sector % 4096 == 0 && sector < 0x10000000
  | .dieCheck lun id _ => lun < 512 && id.length == 8
  | .startTraining pair => pair < 16
  | .registerWrite off _ => off.toNat < 0x8000
  | .unknownOpcode _ ctx | .read _ ctx | .readScan _ ctx | .readSherd _ ctx | .readStream _ ctx | .program _ ctx => ctxOk ctx
  | .rcRegisterRead off => off.toNat < 0x8000
  | .xipRead off => 0x8000 ≤ off.toNat
  | .xipWrite off _ => 0x8000 ≤ off.toNat
  | .xipLineArrival line => line.length == 64
  | .programSlc _ ctx | .fold _ ctx | .erase _ ctx | .raw _ ctx | .cancel _ ctx | .ringFence _ ctx => ctxOk ctx
  | .ringTableData ring _ => ring < 256
  | .ringTableReadError ring => ring < 256
  | .sqPollExpiry sq => sq < 256
  | .tailBlockData block tails => block < 16 && tails.length == 16
  | .calibrate _ ctx | .patrolNow _ ctx | .nvsSync _ ctx | .nop _ ctx => ctxOk ctx
  | .cqHeadData block heads => block < 16 && heads.length == 16
  | .unitEntryTaken ctx ix _ => ctx < 131072 && ix < 131072
  | .predicateData ctx _ => ctx < 131072
  | .predicateFetchError ctx => ctx < 131072
  | .grantRelease ch | .scheduleEnd ch | .grantLimitExceeded ch | .targetReadId ch | .relayHeartbeatDue ch
  | .relayBadFrame ch | .relayRetryTimeout ch => ch < 32
  | .programPageLink ix => ix < 131072
  | .streamPageAdmit ctx ix => ctx < 131072 && ix < 131072
  | .consReadData ctx _ _ _ => ctx < 131072
  | .cqWrite ctx => ctx < 131072
  | .relayChannelSilent ch | .relayLinkDown ch | .trainHoldExpiry ch | .relayHoldExpiry ch | .targetPull ch => ch < 32
  | .cqWriteAck cq => cq < 256
  | .cqWriteError cq => cq < 256
  | .entryFree ix => ix < 131072
  | .urgencyPromotion ix _ => ix < 131072
  | .arbiterDecision ch _ | .arrayStartPinEnd ch _ | .flushTakesEffect ch _ | .relayReadIdPoll ch _ | .relayPullDue ch _
  | .relayDataFrame ch _ | .relayCompletionFrame ch _ => ch < 32
  | .stepReloadDone step _ => step < 6144
  | .patrolReadLink lun ix => lun < 512 && ix < 131072
  | .temperatureReading lun t => lun < 512 && decide (-128 ≤ t) && decide (t < 256)
  | .packetComplete ch _ _ _ => ch < 32
  | .relayCreditFrame ch _ | .relayHeartbeatFrame ch _ | .relayHelloFrame ch _ | .relayTrainFrame ch _
  | .relayTransferEnd ch _ => ch < 32
  | .peckAllocationGrant ch pecks => (ch.all (· < 32)) && distinctBelow 2048 pecks
  | .foldAdmission lun pecks => lun < 512 && distinctBelow 2048 pecks
  | .hardDecodeEnd kind lane _ => (match kind with
    | .hard => decide (lane < 26)
    | .soft => decide (lane < 4)
    | .bch => false)
  | .softDecodeEnd lane _ => lane < 4
  | .readyPollDue lun | .runTimeExpiry lun | .suspendWindowExpiry lun | .mergeWindowExpiry lun
  | .refireBackoffExpiry lun | .patrolAccrual lun => lun < 512
  | .sherdDecodeEnd lane _ => lane < 2
  | .spareLaneInService lane => lane == 24 || lane == 25
  | .predicateDecision ix _ => ix < 131072
  | .trainingStart pair => pair < 16
  | .temperatureReadDue lun | .relearnTimeout lun => lun < 512
  | .trainingComplete pair lo hi => pair < 16 && sweepOk lo && sweepOk hi
  | .trainingFail pair lo hi => pair < 16 && sweepOk lo && sweepOk hi
  | .trainingTimeout pair => pair < 16
  | .irqMaskWrite n _ _ => n < 4
  | .relayCommandFrame ch _ ctx => ch < 32 && distinctBelow 131072 ctx
  | .pspMemberTimeout id => id < 2048
  | .targetTrainingCommand ch sweep => ch < 32 && sweepOk sweep
  | .coldResetAssert | .coldStart _ | .nvsStartScanEnd | .serialDiscovery _ _ _ _ | .slotSelection | .imageLoadEnd _
  | .wasterTableBuild | .calibrationRestore | .startUpReady | .warmResetAssert | .warmResetDeassert _ _ | .aonReset
  | .coreRailLoss | .hcpAccessInReset _ _ _ | .hcpAccessInBank _ _ _ | .timeCaptureRead _ | .xipBaseWrite _
  | .hifEnable _ | .hifDisable _ | .ringLoad _ | .ringStop _ | .predInvalidate _ | .predInvalidateAll _
  | .hifFaultClear _ | .kickIn | .pollTimerExpiry | .summarySwapData _ | .doorbellReadError | .sqFetchRequest
  | .ownMismatch _ | .sqReadError | .segmentDescriptorData _ _ | .appendLinkData _ _ | .sourceDataReturn _ _ _
  | .dataWriteAck _ | .chainBusError _ _ _ | .chainResume | .chainAbort | .chainDisable | .legacyStart _
  | .legacyResume _ | .legacyAbort _ | .legacyBusError _ _ | .hdpResponseDiscard | .hdpReissue | .workItemTransfer
  | .thmDieTSample _ | .poolFlushIngress _ | .poolFlushEgress _ | .decodeStart _ | .sampleApply | .nvsWriteDone _
  | .nvsRetryDue | .snapshotStart | .healthUpdateDue | .spmProgram _ | .spmErase _ | .spmCommit _ _ | .spmOpEnd _
  | .spmSuspend | .spmResume | .paceWindowEnd _ | .timeAlarmFire | .timeCompensation | .timeAonCorrection
  | .soakEntry _ _ | .bankEntry | .emberEntry | .coldEntry | .wakeEvent _ | .watcherWake _ | .pwrAckRise
  | .sleepExitComplete | .coldExitRestore | .padRelease _ | .wakeIn | .irqSrcClr _ | .irqPendWrite _ _
  | .wakeEnWrite _ | .pspMemberDue | .pspTimeDue | .pspMemberFrame _ | .pspTimeFrame _ _ | .pspBadFrame
  | .pspListenEnd | .jtagReset | .jtagBypass _ | .jtagIdcode | .jtagSamplePreload _ _ | .jtagExtest _ _
  | .segmentWriteBackAck _ | .serialStatusPoll _ _ | .spmBufferData _ _ | .pspSyncLapse
  | .hcpAccessInSleep _ _ _ => true

end Sys2Proof
end

