-- ==== Sys2Proof/Safety.lean ====
section
/-! DEFINITION. What a safe run keeps, in the terms the statements use: the driver's settings (R15, R449, R468), the image
in service and the schedule store (R294, R374), the NVS lines (R393), the test port and the queue. -/

namespace Sys2Proof.Machine

/-- The registers of the HIF block that only the driver sets (R110, R112, R113). -/
abbrev Hif.set (h : Hif) : Word × BitVec 57 × BitVec 57 × BitVec 57 × BitVec 17 :=
  (h.cfg, h.ringTable, h.db, h.predBase, h.poll)

/-- The masks (R440): the Uzoben never writes them. -/
abbrev Irq.set (q : Irq) : BitVec 64 × BitVec 64 × BitVec 64 × BitVec 64 := (q.mask0, q.mask1, q.mask2, q.mask3)

/-- The power settings (R428, R429), and what the save area holds (R419). -/
abbrev Pwr.set (p : Pwr) : Word × BitVec 16 × BitVec 16 × BitVec 16 × BitVec 16 × Option Save :=
  (p.cfg, p.idle0, p.idle1, p.idle2, p.idle3, p.save)

/-- The alarm time and TIME_CFG (R432, R433). -/
abbrev Time.set (t : Time) : BitVec 64 × Word := (t.alarm, t.cfg)

/-- The selections of the ledger block (R342, R343). -/
abbrev Ldg.set (l : Ldg) : BitVec 13 × BitVec 19 := (l.recovSel, l.peek)

/-- The decoder settings (R214, R215). -/
abbrev Dec.set (d : Dec) : Word × Word := (d.cfg, d.llr)

/-- The settings of recovery, learning, patrol and training (R243-R248, R266). -/
abbrev Cal.set (c : Cal) : Word × Word × Word × Word × BitVec 15 × Word × BitVec 9 × Word :=
  (c.cfg, c.temp, c.recovery, c.softMap, c.sel, c.patrolCfg, c.patrolSel, c.trainCfg)

/-- The settings of the schedule unit (R311, R313), and the steps of the schedule store (R293, R294) without their parity. -/
abbrev Sched.set (c : Sched) : BitVec 16 × Word × (Nat → BitVec 160) := (c.grantMax, c.peek, c.step)

/-- NVS_CFG (R407), and the NVS lines with their spares (R393, R394). -/
abbrev Nvs.set (n : Nvs) : Word × SMap (BitVec 256) × SMap Nat := (n.cfg, n.lines, n.spares)

/-- The settings of the relay unit (R369). -/
abbrev Rly.set (r : Rly) : Word × BitVec 11 := (r.cfg, r.routeSel)

/-- The operands of SPM_OP_CMD (R405). -/
abbrev Spm.set (m : Spm) : BitVec 28 × Word × BitVec 57 := (m.opAddr, m.opLen, m.opBuf)

/-- The chain heads of the legacy block (R140). -/
abbrev Dma.set (d : Dma) : BitVec 57 × BitVec 57 := (d.leg.src, d.leg.dst)

/-- What the driver alone sets, with the image, the stores that outlive a command, the test port and the queue. -/
structure Settings where
  hif : Word × BitVec 57 × BitVec 57 × BitVec 57 × BitVec 17
  irq : BitVec 64 × BitVec 64 × BitVec 64 × BitVec 64
  pwr : Word × BitVec 16 × BitVec 16 × BitVec 16 × BitVec 16 × Option Save
  time : BitVec 64 × Word
  ldg : BitVec 13 × BitVec 19
  pool : Word
  dec : Word × Word
  cal : Word × Word × Word × Word × BitVec 15 × Word × BitVec 9 × Word
  sched : BitVec 16 × Word × (Nat → BitVec 160)
  rly : Word × BitVec 11
  psp : Word
  spm : BitVec 28 × Word × BitVec 57
  nvs : Word × SMap (BitVec 256) × SMap Nat
  dma : BitVec 57 × BitVec 57
  img : Img
  jtag : Jtag
  pending : List Instr

/-- The settings of a state. -/
def State.settings (s : State) : Settings :=
  { hif := s.hif.set, irq := s.irq.set, pwr := s.pwr.set, time := s.time.set, img := s.img,
    ldg := s.ldg.set, pool := s.pool.peek, dec := s.dec.set, cal := s.cal.set, sched := s.sched.set, jtag := s.jtag,
    rly := s.rly.set, psp := s.psp.cfg, spm := s.spm.set, nvs := s.nvs.set, dma := s.dma.set, pending := s.pending }

/-- The blocks of State, and the queue; `.name.bit` numbers them in the order of State. -/
inductive Block where
  | sys | hcp | hif | hdp | irq | pwr | time | ldg | pool | dec | cal | img | luns | che | phy | pairs | sched | rly | psp
  | spm | nvs | dma | jtag | freeCtr | pending
  deriving DecidableEq, Repr

/-- A set of blocks as a mask. -/
def Block.mask (bs : List Block) : Nat := bs.foldl (fun m b => m ||| 1 <<< b.ctorIdx) 0

/-- The state with the blocks of a mask set aside: two states with the same `outside` differ in those blocks alone. -/
def State.outside (m : Nat) (s : State) : State :=
  {sys := if m.testBit 0 then State.reset.sys else s.sys,
    hcp := if m.testBit 1 then State.reset.hcp else s.hcp,
    hif := if m.testBit 2 then State.reset.hif else s.hif,
    hdp := if m.testBit 3 then State.reset.hdp else s.hdp,
    irq := if m.testBit 4 then State.reset.irq else s.irq,
    pwr := if m.testBit 5 then State.reset.pwr else s.pwr,
    time := if m.testBit 6 then State.reset.time else s.time,
    ldg := if m.testBit 7 then State.reset.ldg else s.ldg,
    pool := if m.testBit 8 then State.reset.pool else s.pool,
    dec := if m.testBit 9 then State.reset.dec else s.dec,
    cal := if m.testBit 10 then State.reset.cal else s.cal,
    img := if m.testBit 11 then State.reset.img else s.img,
    luns := if m.testBit 12 then State.reset.luns else s.luns,
    che := if m.testBit 13 then State.reset.che else s.che,
    phy := if m.testBit 14 then State.reset.phy else s.phy,
    pairs := if m.testBit 15 then State.reset.pairs else s.pairs,
    sched := if m.testBit 16 then State.reset.sched else s.sched,
    rly := if m.testBit 17 then State.reset.rly else s.rly,
    psp := if m.testBit 18 then State.reset.psp else s.psp,
    spm := if m.testBit 19 then State.reset.spm else s.spm,
    nvs := if m.testBit 20 then State.reset.nvs else s.nvs,
    dma := if m.testBit 21 then State.reset.dma else s.dma,
    jtag := if m.testBit 22 then State.reset.jtag else s.jtag,
    freeCtr := if m.testBit 23 then State.reset.freeCtr else s.freeCtr,
    pending := if m.testBit 24 then State.reset.pending else s.pending }

/-- What of a unit entry stands from FETCHED until FREE (R315, R317, R318). -/
abbrev LUnit.ident (u : LUnit) : BitVec 16 × UKind × Option Nat × Nat × BitVec 64 × BitVec 4 × Ns :=
  (u.gen, u.kind, u.ctx, u.pos, u.addr, u.sel, u.fetched)

/-- What of a command stands from its fetch until its context entries are FREE (R314, R315). -/
abbrev Cmd.ident (c : Cmd) : Op × BitVec 512 × Nat × Word × Nat × BitVec 16 × List Nat × List Nat × Ns × Nat × Nat :=
  (c.op, c.raw, c.sq, c.pos, c.cq, c.gen, c.ixs, c.units, c.fetched, c.deadline, c.seq)

/-- The allocation map (R316, R318) and the identity of every entry in use. -/
structure Entries where
  gens : SMap (BitVec 16)
  units : List (Nat × (BitVec 16 × UKind × Option Nat × Nat × BitVec 64 × BitVec 4 × Ns))
  cmds : List (Nat × (Op × BitVec 512 × Nat × Word × Nat × BitVec 16 × List Nat × List Nat × Ns × Nat × Nat))

/-- The entries of a ledger. -/
def Ldg.entries (l : Ldg) : Entries :=
  { gens := l.gens, units := l.units.map (fun e => (e.1, e.2.ident)), cmds := l.cmds.map (fun e => (e.1, e.2.ident)) }

/-- The entries of a state. -/
def State.entries (s : State) : Entries := s.ldg.entries

/-- An HCP access is served at once (R52, R53, R413). -/
abbrev State.hcpFree (s : State) : Prop := s.hcpLive = true ∧ s.hcp.withheld = none ∧ s.spm.waiting = none

/-- The state of an access that is served, before its effect: HCP_ERR and HCP_RDATA stand at 0 (R52). -/
def State.served (s : State) : State := s.onHcp (fun h => { h with rdata := 0, err := false, last := s.time.ns })

/-- The command completes: it answers a next state, of which `P` holds. -/
def Completes (c : Instr) (s : State) (P : State → Prop) : Prop := ∃ t, exec c s = .next t ∧ P t

/-! ## Which commands may change what -/

/-- The blocks that a command may change; the queue is none of them. -/
def mayChange : Instr → List Block
  | .coldResetAssert .. | .warmResetAssert .. | .coreRailLoss ..
    => [.sys, .hcp, .hif, .hdp, .irq, .pwr, .time, .ldg, .pool, .dec, .cal, .img] ++
      [.luns, .che, .phy, .pairs, .sched, .rly, .psp, .spm, .nvs, .dma, .freeCtr]
  | .coldStart .. => [.sys, .pwr, .spm]
  | .nvsStartScanEnd .. => [.rly, .nvs]
  | .serialDiscovery .. => [.sys, .spm]
  | .slotSelection .. => [.sys, .hcp, .irq, .spm, .nvs]
  | .imageLoadEnd .. => [.sys, .hcp, .hdp, .irq, .pwr, .time, .img, .luns, .che, .sched, .rly, .spm, .nvs]
  | .serialSectorReerase .. => [.sys, .hcp, .hdp, .spm, .nvs]
  | .wasterTableBuild .. => [.sys, .irq, .ldg, .nvs]
  | .calibrationRestore .. => [.sys, .cal, .phy]
  | .dieCheck .. | .sourceDataReturn .. | .arbiterDecision .. | .arrayStartPinEnd .. | .grantLimitExceeded ..
  | .trainingComplete .. | .trainingFail ..
    => [.hif, .hdp, .irq, .ldg, .pool, .dec, .cal, .luns, .che, .phy, .pairs, .sched] ++
      [.rly, .nvs, .dma, .freeCtr]
  | .startTraining .. => [.cal, .luns, .che, .pairs]
  | .startUpReady .. => [.sys, .hif, .hdp, .cal, .luns]
  | .warmResetDeassert ..
    => [.sys, .hif, .hdp, .irq, .pwr, .ldg, .pool, .dec, .cal, .luns, .che, .rly, .spm, .nvs, .dma]
  | .aonReset .. | .timeAlarmFire .. | .timeAonCorrection .. => [.irq, .pwr, .time]
  | .hcpAccessInReset .. | .xipWrite .. | .hcpAccessInSleep .. => [.hcp]
  | .hcpAccessInBank .. => [.hcp, .pwr]
  | .registerWrite ..
    => [.hcp, .hif, .hdp, .irq, .pwr, .time, .ldg, .pool, .dec, .cal, .luns, .che] ++
      [.sched, .rly, .psp, .spm, .nvs, .dma, .freeCtr]
  | .rcRegisterRead .. | .timeCaptureRead ..
    => [.hcp, .hif, .pwr, .time, .ldg, .pool, .dec, .cal, .che, .phy, .sched, .rly, .psp, .spm, .nvs]
  | .xipRead .. | .xipBaseWrite .. => [.hcp, .spm]
  | .xipLineArrival .. => [.hcp, .hdp, .spm, .nvs]
  | .hifEnable .. | .hifDisable .. | .hifFaultClear .. => [.hcp, .hif, .hdp]
  | .ringLoad .. | .ringStop .. => [.hcp, .hif, .hdp, .pwr]
  | .ringTableData .. | .ringTableReadError .. | .sqReadError .. | .cqWriteError .. => [.hif, .hdp, .irq]
  | .predInvalidate .. | .predInvalidateAll .. => [.hcp, .hif, .pwr]
  | .kickIn .. | .pollTimerExpiry .. | .sqPollExpiry .. => [.hif, .hdp, .pwr]
  | .summarySwapData .. => [.hif, .hdp, .dma]
  | .tailBlockData .. | .cqHeadData .. | .sqFetchRequest .. | .ownMismatch .. => [.hif, .hdp]
  | .doorbellReadError .. => [.hif, .hdp, .irq, .freeCtr]
  | .unitEntryTaken .. | .predicateFetchError .. | .sampleApply ..
    => [.hif, .hdp, .irq, .ldg, .pool, .cal, .luns, .che, .rly, .nvs, .dma]
  | .unknownOpcode .. | .read .. | .readScan .. | .readSherd .. | .readStream .. | .program .. | .programSlc ..
  | .fold .. | .erase .. | .raw .. | .ringFence .. | .patrolNow .. | .nop .. => [.hif, .hdp, .pwr, .ldg, .dma]
  | .cancel .. | .calibrate .. | .relayCompletionFrame ..
    => [.hif, .hdp, .pwr, .ldg, .pool, .cal, .luns, .che, .rly, .nvs, .dma]
  | .nvsSync .. => [.hif, .hdp, .pwr, .ldg, .pool, .cal, .luns, .che, .rly, .spm, .nvs, .dma]
  | .predicateData .. | .segmentDescriptorData .. | .appendLinkData .. | .predicateDecision ..
    => [.hif, .hdp, .ldg, .pool, .cal, .luns, .che, .rly, .nvs, .dma]
  | .programPageLink .. | .streamPageAdmit .. | .patrolReadLink .. | .peckAllocationGrant .. | .foldAdmission ..
  | .relayCreditFrame .. | .relayHeartbeatFrame .. | .relayTrainFrame .. | .relayHoldExpiry ..
    => [.hdp, .ldg, .pool, .cal, .luns, .che, .rly, .nvs, .dma]
  | .dataWriteAck .. => [.hdp, .ldg, .pool, .cal, .luns, .che, .nvs, .dma]
  | .chainBusError .. | .legacyBusError .. => [.hdp, .irq, .dma]
  | .chainResume .. | .chainAbort .. => [.hcp, .hdp, .ldg, .pool, .cal, .luns, .che, .rly, .nvs, .dma]
  | .chainDisable .. => [.hcp, .hdp, .dma, .freeCtr]
  | .legacyStart .. | .legacyResume .. | .legacyAbort ..
    => [.hcp, .hdp, .pwr, .ldg, .pool, .cal, .luns, .che, .nvs, .dma]
  | .consReadData .. => [.hdp, .irq, .ldg, .pool, .cal, .luns, .che, .nvs, .dma]
  | .hdpResponseDiscard .. | .hdpReissue .. => [.hdp]
  | .cqWrite .. => [.hif, .hdp, .ldg, .pool]
  | .cqWriteAck .. => [.hif, .hdp, .irq, .ldg]
  | .workItemTransfer .. => [.hif]
  | .entryFree .. => [.ldg, .dma]
  | .urgencyPromotion .. => [.ldg, .luns, .nvs]
  | .stepReloadDone ..
    => [.hif, .hdp, .irq, .ldg, .pool, .dec, .cal, .luns, .che, .phy, .pairs, .sched] ++
      [.rly, .spm, .nvs, .dma, .freeCtr]
  | .grantRelease .. | .scheduleEnd .. | .hardDecodeEnd .. | .softDecodeEnd .. | .sherdDecodeEnd ..
    => [.hdp, .irq, .ldg, .pool, .dec, .cal, .luns, .che, .rly, .nvs, .dma]
  | .readyPollDue .. | .runTimeExpiry .. | .suspendWindowExpiry .. => [.pwr, .ldg, .luns]
  | .mergeWindowExpiry .. | .refireBackoffExpiry .. => [.pwr, .ldg, .luns, .nvs]
  | .patrolAccrual .. => [.irq, .pwr, .cal, .luns]
  | .temperatureReadDue .. => [.pwr, .luns]
  | .temperatureReading .. => [.irq, .cal, .luns]
  | .relearnTimeout .. => [.irq, .cal]
  | .thmDieTSample .. => [.irq, .pwr, .cal]
  | .packetComplete .. | .trainingTimeout ..
    => [.hif, .hdp, .irq, .ldg, .pool, .dec, .cal, .luns, .che, .phy, .pairs, .rly, .nvs, .dma, .freeCtr]
  | .flushTakesEffect .. => [.hdp, .ldg, .pool, .dec, .cal, .luns, .che, .rly, .nvs, .dma]
  | .poolFlushIngress .. | .poolFlushEgress .. => [.hcp, .pwr, .pool]
  | .decodeStart .. | .spareLaneInService .. => [.dec]
  | .trainingStart .. => [.cal, .luns, .che, .pairs, .rly]
  | .nvsWriteDone .. => [.hdp, .irq, .ldg, .pool, .cal, .luns, .che, .rly, .psp, .spm, .nvs, .dma, .freeCtr]
  | .nvsRetryDue .. | .snapshotStart .. | .healthUpdateDue .. => [.nvs]
  | .spmProgram .. | .spmErase .. | .spmCommit .. => [.hcp, .hdp, .irq, .pwr, .spm, .nvs]
  | .spmOpEnd .. | .spmBufferData .. => [.hdp, .irq, .ldg, .pool, .cal, .luns, .che, .rly, .spm, .nvs, .dma]
  | .spmSuspend .. | .spmResume .. => [.spm]
  | .paceWindowEnd .. => [.time, .freeCtr]
  | .timeCompensation .. => [.hif, .time]
  | .soakEntry .. | .wakeEvent .. | .wakeIn .. => [.irq, .pwr]
  | .bankEntry .. | .watcherWake .. | .pwrAckRise .. => [.pwr]
  | .emberEntry .. => [.pwr, .time]
  | .coldEntry ..
    => [.sys, .hcp, .hif, .hdp, .irq, .pwr, .time, .ldg, .pool, .dec, .cal, .img] ++
      [.luns, .che, .phy, .pairs, .sched, .rly, .psp, .spm, .nvs, .dma]
  | .sleepExitComplete ..
    => [.hcp, .hif, .hdp, .irq, .pwr, .time, .ldg, .pool, .dec, .cal, .luns, .che] ++
      [.phy, .sched, .rly, .psp, .spm, .nvs, .dma, .freeCtr]
  | .coldExitRestore ..
    => [.sys, .hif, .irq, .pwr, .time, .ldg, .pool, .dec, .cal, .che, .pairs, .sched] ++
      [.rly, .psp, .spm, .nvs, .dma]
  | .padRelease .. => [.hcp, .pwr, .cal]
  | .irqSrcClr .. | .irqPendWrite .. | .irqMaskWrite .. | .wakeEnWrite .. => [.hcp, .irq]
  | .relayReadIdPoll .. | .relayBadFrame .. | .relayChannelSilent .. => [.cal, .rly]
  | .targetReadId .. | .relayPullDue .. | .relayHeartbeatDue .. | .relayRetryTimeout .. | .trainHoldExpiry ..
  | .relayTransferEnd .. | .targetPull .. => [.rly]
  | .relayCommandFrame .. | .relayDataFrame ..
    => [.hif, .hdp, .irq, .pwr, .ldg, .pool, .dec, .cal, .luns, .che, .phy, .pairs] ++
      [.sched, .rly, .nvs, .dma, .freeCtr]
  | .relayHelloFrame .. => [.hdp, .irq, .ldg, .pool, .cal, .luns, .che, .rly, .nvs, .dma]
  | .relayLinkDown .. => [.irq, .ldg, .pool, .cal, .luns, .che, .rly, .nvs]
  | .pspMemberDue .. | .pspTimeDue .. | .pspBadFrame .. | .pspSyncLapse .. => [.psp]
  | .pspMemberFrame .. => [.irq, .pwr, .psp, .nvs]
  | .pspTimeFrame .. => [.irq, .pwr, .time, .psp, .nvs]
  | .pspMemberTimeout .. => [.irq, .pwr, .psp]
  | .pspListenEnd .. => [.psp, .nvs]
  | .jtagReset .. | .jtagBypass .. | .jtagIdcode .. | .jtagSamplePreload .. | .jtagExtest .. => [.jtag]
  | .segmentWriteBackAck .. => [.hdp, .dma]
  | .serialStatusPoll .. => [.hcp, .hdp, .ldg, .pool, .cal, .luns, .che, .rly, .spm, .nvs, .dma]
  | .targetTrainingCommand .. => [.phy, .pairs, .rly]

/-- The commands whose meaning runs a schedule on: a schedule that never comes to its end (R296, log 9) is a fault there. -/
def runsSchedule : Instr → Bool
  | .arbiterDecision .. | .arrayStartPinEnd .. | .stepReloadDone .. | .sourceDataReturn .. | .relayCommandFrame .. => true
  | .relayDataFrame .. | .dieCheck .. | .trainingComplete .. | .trainingFail .. => true
  | _ => false

/-- The commands that set a setting: the driver's register writes, the resets, the sleep states, the image, a reloaded
schedule step, an NVS line that is written, and the test port. -/
def setsSettings : Instr → Bool
  | .hifEnable .. | .hifDisable .. | .registerWrite .. | .irqMaskWrite .. | .coldResetAssert .. | .coreRailLoss .. => true
  | .warmResetAssert .. | .warmResetDeassert .. | .aonReset .. | .imageLoadEnd .. | .stepReloadDone .. => true
  | .nvsWriteDone .. | .coldEntry .. | .coldExitRestore .. | .sleepExitComplete .. => true
  | .jtagReset .. | .jtagBypass .. | .jtagIdcode .. | .jtagSamplePreload .. | .jtagExtest .. => true
  | _ => false

/-- The commands that empty the ledger with the core (R31, R419). -/
def emptiesLedger : Instr → Bool
  | .coldResetAssert .. | .coreRailLoss .. | .warmResetAssert .. | .coldEntry .. | .coldExitRestore .. => true
  | _ => false

/-- The commands that take entries of the ledger (R314, R239, R353), or free one (R317). -/
def movesEntries : Instr → Bool
  | .unitEntryTaken .. | .entryFree .. | .streamPageAdmit .. | .patrolReadLink .. => true
  | .unknownOpcode .. | .read .. | .readScan .. | .readSherd .. | .readStream .. | .program .. | .programSlc .. => true
  | .fold .. | .erase .. | .raw .. | .nop .. | .ringFence .. | .cancel .. | .calibrate .. | .patrolNow .. => true
  | .nvsSync .. | .relayCommandFrame .. | .relayDataFrame .. | .relayCompletionFrame .. => true
  | _ => false

/-- The commands that act while RST_COLD_N is asserted (R31, R53, R58, R71, R76, R394, R412-R415, R422). -/
def actsInColdReset : Instr → Bool
  | .coldResetAssert .. | .coldStart .. | .warmResetAssert .. | .aonReset .. | .coreRailLoss .. => true
  | .hcpAccessInReset .. | .hdpResponseDiscard .. | .pwrAckRise .. | .watcherWake .. | .timeAonCorrection .. => true
  | .jtagReset .. | .jtagBypass .. | .jtagIdcode .. | .jtagSamplePreload .. | .jtagExtest .. => true
  | _ => false

/-! ## Invariants -/

/-- The registers whose reserved bits R16 has read as zero, each with the bits that a write stores. -/
def reservedOf (hif : Hif) (time : Time) (pool : Pool) (dec : Dec) (cal : Cal) (sched : Sched) (rly : Rly) (psp : Psp)
    (nvsCfg : Word) : List (Word × Word) :=
  [(hif.cfg, 0xF), (time.cfg, 0x8000FFFF), (pool.peek, 0x000707FF), (dec.cfg, 0xFFFF3F1F), (dec.llr, 0x07FFFFFF),
   (cal.cfg, 0xCFFFFFFF), (cal.temp, 0x00FFFFFF), (cal.recovery, 0xFFFF), (cal.softMap, 0x77777777),
   (cal.patrolCfg, 0xFFFFFF00), (cal.trainCfg, 0x80FFFF0F), (sched.peek, 0x00071FFF), (rly.cfg, 0x00FF000F),
   (psp.cfg, 0x8000FFFF), (nvsCfg, 1)]

/-- The alignments of the base registers (R110, R112, R113). -/
abbrev Hif.aligned (h : Hif) : Prop :=
  h.ringTable.toNat % 2 ^ 14 = 0 ∧ h.db.toNat % 2 ^ 12 = 0 ∧ h.predBase.toNat % 2 ^ 19 = 0

/-- The masks name no source above 57 (R444). -/
abbrev Irq.masksClear (q : Irq) : Prop :=
  q.mask0.toNat < 2 ^ 58 ∧ q.mask1.toNat < 2 ^ 58 ∧ q.mask2.toNat < 2 ^ 58 ∧ q.mask3.toNat < 2 ^ 58

/-- Every reserved bit of a setting stands at 0, in the registers and in the save area. -/
def State.reservedClear (s : State) : Prop :=
  (∀ p ∈ reservedOf s.hif s.time s.pool s.dec s.cal s.sched s.rly s.psp s.nvs.cfg, p.1 &&& ~~~p.2 = 0) ∧
  s.pwr.cfg &&& ~~~0x1E = 0 ∧ s.hif.aligned ∧ s.irq.masksClear ∧
  (∀ a, s.pwr.save = some a →
    (∀ p ∈ reservedOf a.hif a.time a.pool a.dec a.cal a.sched a.rly a.psp a.nvsCfg, p.1 &&& ~~~p.2 = 0) ∧
    a.hif.aligned ∧ a.irq.masksClear)

/-- The stores that are reached by index hold their canonical form: the ledger, its allocation map, the NVS lines with their
spares and the schedule store. -/
def State.canonical (s : State) : Prop :=
  s.ldg.units.wf ∧ s.ldg.cmds.wf ∧ SMap.wfD 0 s.ldg.gens ∧ SMap.wfD 0 s.nvs.lines ∧ s.nvs.spares.wf ∧ s.sched.store.wf

/-! ## Situations that statements start from -/

/-- Blocks that two states agree on but for those listed. -/
def State.sameBut (bs : List Block) (s t : State) : Prop := t.outside (Block.mask bs) = s.outside (Block.mask bs)

/-- The grant of a channel, as it stands when a row of the engine meets it (R144, R302). -/
abbrev State.GrantAt (s : State) (ch : Nat) (g : Grant) (d : DieType) : Prop :=
  s.going = true ∧ (s.chan ch).grant = some g ∧ lunChan g.lun = ch ∧ dieOf s g.lun = some d ∧
  g.gens.all (fun q => s.genOf q.1 == q.2) = true

/-- An event of a LUN falls due (R157): it is the next that the delay list delivers, and of its entry's generation (R319). -/
abbrev State.FallsDue (s : State) (lun : Nat) (e : Option Event) : Prop :=
  s.delivers lun e = true ∧ s.staleEvent e = false

/-- The ingress queue of a channel (R177). -/
def State.ingressOf (s : State) (ch : Nat) : Queue := SMap.getD s.pool.ingress ch Queue.init

/-- No grant waits for data of its data-in (R181): whatever brings data runs no schedule on. -/
abbrev State.noneStarved (s : State) : Prop := ∀ l g, s.grantOf l = some g → g.fin ≠ .starved

/-- The egress queue of a channel (R177). -/
def State.egressOf (s : State) (ch : Nat) : Queue := SMap.getD s.pool.egress ch Queue.init

/-- What an awaited packet is: its entry and generation, its region and its length. -/
abbrev Expect.what (e : Expect) : Nat × BitVec 16 × Nat × Nat := (e.ix, e.gen, e.region, e.len)

/-- A packet `e` is the next to come whole on a channel (R178): it is first among those on their way, its ingress queue is not
being flushed, and the peck it is to land in is not taken by an earlier packet of its RAW (R173). -/
abbrev State.PacketAt (s : State) (ch : Nat) (e : Expect) : Prop :=
  s.live = true ∧ (s.chan ch).arriving.head? = some e ∧ (s.ingressOf ch).flush = false ∧ (s.ingressOf ch).closeShort = false ∧
  s.unitIs (fun u => rawPeckBusy u e.region) e.ix = false

/-- The bundle of a channel in service, as it stands when a row of the relay meets it (R344). -/
abbrev State.BundleAt (s : State) (ch b : Nat) (l : Link) : Prop :=
  s.live = true ∧ s.bundleOf ch = some b ∧ s.link? b = some l ∧ (s.chan ch).fenced = false

/-- The frame belongs to the session that the link holds (R347, R360). -/
abbrev Link.session (l : Link) (f : RFrame) : Prop := f.bootHost = l.host ∧ f.bootTarget = l.tgt

/-- The link of a bundle stands, with `P`. -/
def State.LinkIs (s : State) (b : Nat) (P : Link → Prop) : Prop := ∃ m, s.link? b = some m ∧ P m

/-! ## Tables of rows -/

/-- The RW registers of the driver, each with the bits that a write stores (R15, R449): after the write the register reads
as the bits written, the reserved bits as zero (R16). Registers with a row of their own, registers behind a condition, and
registers whose read is a window stand elsewhere. -/
def rwRegs : List (Nat × Word) :=
  [(0x028, 0x1FFFF), (0x804, 0x1E), (0x808, 0xFFFF), (0x80C, 0xFFFF), (0x810, 0xFFFF), (0x814, 0xFFFF),
   (0xC1C, 0x8000FFFF), (0x1020, 0x1FFF), (0x102C, 0x7FFFF), (0x141C, 0x000707FF), (0x1800, 0xFFFF3F1F),
   (0x1804, 0x07FFFFFF), (0x1C00, 0xCFFFFFFF), (0x1C08, 0xFFFF), (0x1C0C, 0x77777777), (0x1C18, 0x7FFF),
   (0x1C24, 0xFFFFFF00), (0x1C28, 0x1FF), (0x1C80, 0x80FFFF0F), (0x3808, 0xFFFF), (0x3814, 0x00071FFF),
   (0x3C00, 0x00FF000F), (0x3C08, 0x7FF), (0x4414, 1), (0x4800, 0x8000FFFF)]

/-- The registers of the RC fields (R467), each with the bits that are RC. -/
def rcRegs : List (Nat × Word) :=
  [(0x40, 0xFFFFFFFF), (0x44, 0xFFFFFFFF), (0x48, 0xFFFFFFFF), (0x4C, 0xFFFFFFFF), (0x81C, 0x0FFFFFFF),
   (0x1004, 0xFFFFFFFF), (0x1008, 0xFFFFFFFF), (0x100C, 0xFFFFFFFF), (0x140C, 0xFFFFFFFF), (0x1814, 0xFFFFFFFF),
   (0x181C, 0xFFFFFFFF), (0x1820, 0xFFFFFFFF), (0x1824, 0xFFFFFFFF), (0x1828, 0xFFFFFFFF), (0x182C, 0xFFFFFFFF),
   (0x1830, 0xFFFFFFFF), (0x1C3C, 0xFFFFFFFF), (0x1C40, 0xFFFFFFFF), (0x1C44, 0xFFFFFFFF), (0x1C48, 0xFFFFFFFF),
   (0x1C4C, 0xFFFFFFFF), (0x1C8C, 0xFFFFFFFF), (0x381C, 0xFFFFFFFF), (0x3C1C, 0xFFFFFFFF), (0x3C20, 0xFFFFFFFF),
   (0x3C24, 0xFFFFFFFF), (0x3C28, 0xFFFFFFFF), (0x4028, 0xFFFFFFFF), (0x4418, 0xFFFFFFFF), (0x4810, 0xFFFFFFFF)]

/-- The rows of the fetched commands, each with the opcode whose entries it takes (R92, R95). -/
def fetchedRows : List (Op × (BitVec 512 → List Nat → Instr)) :=
  [(.unknown, .unknownOpcode), (.read, .read), (.readScan, .readScan), (.readSherd, .readSherd), (.readStream, .readStream)] ++
  [(.program, .program), (.programSlc, .programSlc), (.fold, .fold), (.erase, .erase), (.raw, .raw)] ++
  [(.nop, .nop), (.ringFence, .ringFence), (.cancel, .cancel), (.calibrate, .calibrate), (.patrolNow, .patrolNow),
   (.nvsSync, .nvsSync)]

/-- The rows of SPM_OP_CMD (R385, R405) with ACTION and the operation each begins. -/
def spmRows (data : Word) (image : SparseBytes) : List (Instr × Nat × (Spm → SpmOp)) :=
  [(.spmProgram data, 1, programOp), (.spmErase data, 2, eraseOp),
   (.spmCommit data image, 3, commitOp (if imageOk image then some (imgGen image) else none))]

end Sys2Proof.Machine
end

