-- ==== Sys2Proof/Certificates/Slice0/Obligations.lean ====
section
/-! DEFINITION. The statements about the model, in the order of OBLIGATIONS.json. Each obligation is a conjunction of parts
(`Sys2Proof.Stated.…`), one part for each group of commands of one shape; the docstring of a part names the rules of spec/ that it
follows. `Completes c s P` says that `exec c s` answers a next state of which `P` holds. -/

open Sys2Proof Sys2Proof.Machine

/-- A step runs the command at the front of the queue on the state that holds the rest of it. -/
def Sys2Proof.Stated.StepRunsFront : Prop :=
∀ (s : State) (c : Instr) (rest : List Instr), s.pending = c :: rest → step s = exec c { s with pending := rest }

/-- A step runs the command at the front of the queue. The queue is the model's own. -/
def Obligations.StepRunsFrontCommand : Prop :=
  Stated.StepRunsFront

/-- With no command waiting a step is a tick of the clocks (the model's choice, log 3): time, the wake enables under way, the power pins, and
the moment since which the instance is idle; the AON counter alone where TBCLK stands. -/
def Sys2Proof.Stated.IdleStepTicks : Prop :=
∀ s : State, s.pending = [] → ∃ t, step s = .next t ∧ s.sameBut [.time, .irq, .pwr] t ∧ t.settings = s.settings ∧
    t.irq.pend = s.irq.pend ∧ t.pwr.st = s.pwr.st ∧
    (s.time.running = false → t.time.aon = s.time.aon + 1 ∧ (s.time.kr = none → t.time.ns = s.time.ns)) ∧
    (s.time.running = true → s.sys.started = true → s.time.kr = none → s.time.stepDue = 0 → s.time.slew = 0 → s.time.frac < 640 →
      t.time.ns = s.time.ns + 10 ∧ t.time.frac = s.time.frac)

/-- With an empty queue a step is a tick of the clocks (log 3). -/
def Obligations.IdleStepTicks : Prop :=
  Stated.IdleStepTicks

/-- A command that is run leaves the queue as it is. -/
def Sys2Proof.Stated.CommandsKeepQueue : Prop :=
∀ c s t, exec c s = .next t → t.pending = s.pending

/-- No command changes the queue. The queue is the model's own. -/
def Obligations.CommandsKeepQueue : Prop :=
  Stated.CommandsKeepQueue

/-- In every state and for every operands `exec` answers a next state, but for the commands that run a schedule on; no command is ever
refused, and those answer a fault only where a schedule never comes to its end (R296, log 9). -/
def Sys2Proof.Stated.CommandsComplete : Prop :=
(∀ c s, runsSchedule c = false → ∃ t, exec c s = .next t) ∧
  (∀ c s, (∃ t, exec c s = .next t) ∨ (exec c s = .fault .scheduleLoop ∧ runsSchedule c = true))

/-- Every command answers a next state, but for a schedule that never ends. -/
def Obligations.CommandsComplete : Prop :=
  Stated.CommandsComplete

/-- The frame of every command: the blocks that it does not touch stand as they were. -/
def Sys2Proof.Stated.CommandsTouchTheirBlocks : Prop :=
∀ c s t, exec c s = .next t → s.sameBut (mayChange c) t

/-- The frame of every command: the blocks it does not touch are unchanged. -/
def Obligations.CommandsTouchTheirBlocks : Prop :=
  Stated.CommandsTouchTheirBlocks

/-- No event on the way of a command through the block, no answer of the host, no frame and no timer sets a register of the driver, the
image, the schedule store, the NVS lines or the test port. -/
def Sys2Proof.Stated.OnlyDriversSetSettings : Prop :=
∀ c s t, setsSettings c = false → exec c s = .next t → t.settings = s.settings

/-- Only the driver, the resets, the sleep states, the image, a reload, an NVS write and the test port change settings. -/
def Obligations.OnlyDriversSetSettings : Prop :=
  Stated.OnlyDriversSetSettings

/-- Entries come and go by the rows of R314, R317, R239 and R353 alone: every other command leaves the allocation map and the identity of
every entry as they are. -/
def Sys2Proof.Stated.OnlyTakersMoveEntries : Prop :=
∀ c s t, movesEntries c = false → emptiesLedger c = false → exec c s = .next t → t.entries = s.entries

/-- Ledger entries change identity only by the commands that take or free them. -/
def Obligations.OnlyTakersMoveEntries : Prop :=
  Stated.OnlyTakersMoveEntries

/-- GEN moves on exactly where an entry leaves FREE (R318), but for the resets, which set every GEN to 0. -/
def Sys2Proof.Stated.GenMovesOnlyFromFree : Prop :=
∀ c s t i, emptiesLedger c = false → exec c s = .next t → t.genOf i ≠ s.genOf i → s.isFree i = true ∧ t.genOf i = s.genOf i + 1

/-- GEN moves on exactly where an entry leaves FREE. -/
def Obligations.GenMovesOnlyFromFree : Prop :=
  Stated.GenMovesOnlyFromFree

/-- While RST_COLD_N is asserted no other command changes anything (R31, R53, R76). -/
def Sys2Proof.Stated.ColdResetHoldsAll : Prop :=
∀ c s, s.sys.coldLow = true → actsInColdReset c = false → exec c s = .next s

/-- While RST_COLD_N is asserted no other command acts. That such a command changes nothing is the model's choice, log 10. -/
def Obligations.ColdResetHoldsAll : Prop :=
  Stated.ColdResetHoldsAll

/-- Reserved bits stay at 0 (R16), the base registers aligned, in the registers and in the save area, over every step. -/
def Sys2Proof.Stated.ReservedBitsStayClear : Prop :=
∀ s t : State, s.reservedClear → step s = .next t → t.reservedClear

/-- Every step keeps reserved bits at 0 and base registers aligned. -/
def Obligations.ReservedBitsStayClear : Prop :=
  Stated.ReservedBitsStayClear

/-- Every step keeps the canonical form of the ledger, the allocation map, the NVS lines and the schedule store. -/
def Sys2Proof.Stated.StoresStayCanonical : Prop :=
∀ s t : State, s.canonical → step s = .next t → t.canonical

/-- Every step keeps the indexed stores in canonical form. -/
def Obligations.StoresStayCanonical : Prop :=
  Stated.StoresStayCanonical

/-- What holds at reset: the reserved bits clear, the stores canonical, the queue empty, nothing pending. -/
def Sys2Proof.Stated.InvariantsHoldAtReset : Prop :=
State.reset.reservedClear ∧ State.reset.canonical ∧ State.reset.pending = [] ∧ State.reset.irq.pend = 0 ∧
  State.reset.irq.wakeEn = 0x17 ∧ (∀ n, n < 4 → Irq.out State.reset.irq n = false) ∧ State.reset.hif.ready = false ∧
  (∀ i, State.reset.genOf i = 0) ∧ (∀ i, i < 131072 → State.reset.isFree i = true)

/-- The invariants, and the interrupt and ledger state, at reset. -/
def Obligations.InvariantsHoldAtReset : Prop :=
  Stated.InvariantsHoldAtReset

/-- Who wins (R145): no request of a channel is of a higher class, none of the winner's class is shorter, and of those of its
class and length none comes sooner after the thread granted last. -/
def Sys2Proof.Stated.ArbiterPicksByClassLengthTurn : Prop :=
∀ (s : State) (ch t : Nat) (a : Ask), s.winner ch = some (t, a) →
    (t, a) ∈ s.asks ch ∧
    ∀ q ∈ s.asks ch, a.cls ≤ q.2.cls ∧ (q.2.cls = a.cls → a.long = true → q.2.long = true) ∧
      (q.2.cls = a.cls → q.2.long = a.long →
        (t + 15 - (SMap.getD (s.chan ch).ptrs a.key 15) % 16) % 16 ≤ (q.1 + 15 - (SMap.getD (s.chan ch).ptrs a.key 15) % 16) % 16)

/-- The classes of a request by what its entry is (R145): urgent reads, reads, programs, erases. -/
def Sys2Proof.Stated.RequestClasses : Prop :=
∀ u : LUnit,
    (u.kind ∈ ([.read, .readScan, .readSherd, .readStream] : List UKind) → unitClass u = if u.urgent then 0 else 1) ∧
    (u.kind ∈ ([.program, .programSlc] : List UKind) → unitClass u = 2) ∧ (u.kind = .erase → unitClass u = 3)

/-- After a reset every class and length starts as if thread 15 had been granted last (R145). -/
def Sys2Proof.Stated.TurnsStartAtFifteen : Prop :=
(∀ s, Completes .coldResetAssert s (fun t => ∀ c k, SMap.getD (t.chan c).ptrs k 15 = 15)) ∧
  (∀ s, s.sys.coldLow = false → s.pwr.st ≠ .cold → s.ldg.halted = false → s.hif.ready = true → Completes .warmResetAssert s (fun t =>
    ∀ c k, SMap.getD (t.chan c).ptrs k 15 = 15))

/-- A request passed over 16 times is in the urgent class (R46); another request of the thread has another count. -/
def Sys2Proof.Stated.PassedRequestIsPromoted : Prop :=
(∀ (s : State) l a, s.request l = some a → 16 ≤ (s.chan (lunChan l)).passesOf (l % 16) a → a.cls = 0) ∧
  (∀ (s : State) ch won t a, ch < 32 → t < 16 → (16 * ch + t ≠ won) →
    ((State.countPasses ch won [(t, a)] s).chan ch).passesOf t a = (s.chan ch).passesOf t a + 1) ∧
  (∀ (s : State) ch won t a, ch < 32 → t < 16 → (16 * ch + t ≠ won) →
    ((State.countPasses ch won [(t, a)] s).chan ch).promoteCnt = (s.chan ch).promoteCnt +
      (if (s.chan ch).passesOf t a = 15 then 1 else 0)) ∧
  (∀ (s : State) ch t a, State.countPasses ch (16 * ch + t) [(t, a)] s = s) ∧
  (∀ (s : State) ch won t a b, ch < 32 → t < 16 → (16 * ch + t ≠ won) → (b.kind ≠ a.kind ∨ b.ix ≠ a.ix) →
    ((State.countPasses ch won [(t, a)] s).chan ch).passesOf t b = 0)

/-- The arbiter picks by class, then length, then round-robin. COMPLETION, for every state and operands that meet the hypotheses
on them alone: `exec` answers a next state, with the effect stated, for coldResetAssert, warmResetAssert. -/
def Obligations.ArbiterOrder : Prop :=
  Stated.ArbiterPicksByClassLengthTurn ∧
  Stated.RequestClasses ∧
  Stated.TurnsStartAtFifteen ∧
  Stated.PassedRequestIsPromoted

/-- The seed of a region (R198): the sum of the address fields with their factors, modulo 2^31, zero replaced by one. `r` is the
codeword number, or 4 for the sherd region. -/
def Sys2Proof.Stated.SeedOfRegion : Prop :=
∀ (a : BitVec 64) (r : Nat), r ≤ 4 →
    let n := (faPage a * 0x9E3779B1 + faBlock a * 0x85EBCA6B + r + faPlane a * 0x400) % 2 ^ 31
    (n ≠ 0 → (Codec.seed (faPage a) (faBlock a) (faPlane a) r).toNat = n) ∧
    (n = 0 → (Codec.seed (faPage a) (faBlock a) (faPlane a) r).toNat = 1) ∧
    Codec.seed (faPage a) (faBlock a) (faPlane a) r ≠ 0

/-- The randomiser seed of every region. -/
def Obligations.SeedOfRegion : Prop :=
  Stated.SeedOfRegion

/-- An event whose GEN is not that of its entry is discarded and counted in LDG_STALE_CNT (R319): a promotion, a decision of a
predicate, a packet, a result of any decoder, a frame of a relay. -/
def Sys2Proof.Stated.StaleEventsDiscarded : Prop :=
(∀ (s : State) ix u gen, s.going = true → s.unit? ix = some u → u.gen ≠ gen →
    Completes (.urgencyPromotion ix gen) s (fun t => t = s.stale)) ∧
  (∀ (s : State) ix gen, s.going = true → s.unit? ix = none → s.genOf ix ≠ gen →
    Completes (.urgencyPromotion ix gen) s (fun t => t = s.stale)) ∧
  (∀ (s : State) ix u gen, s.live = true → s.unit? ix = some u → u.gen ≠ gen →
    Completes (.predicateDecision ix gen) s (fun t => t = s.stale)) ∧
  (∀ (s : State) ix gen, s.live = true → s.unit? ix = none → s.genOf ix ≠ gen →
    Completes (.predicateDecision ix gen) s (fun t => t = s.stale)) ∧
  (∀ (s : State) ch bytes short e u, s.PacketAt ch e → s.unit? e.ix = some u → u.gen ≠ e.gen →
    Completes (.packetComplete ch bytes short none) s (fun t =>
      t.ldg = { s.ldg with staleCnt := s.ldg.staleCnt + 1 } ∧ t.pool.pecks = s.pool.pecks ∧ t.dec = s.dec)) ∧
  (∀ (s : State) lane i cfg llr u, s.live = true → SMap.get? s.dec.busy lane = some (i, cfg, llr) → i.soft = false → i.cw < 4 →
    s.unit? i.ix = some u → u.gen ≠ i.gen →
    Completes (.hardDecodeEnd .hard lane none) s (fun t => t.ldg = { s.ldg with staleCnt := s.ldg.staleCnt + 1 } ∧
      t.dec = { s.dec with busy := SMap.erase s.dec.busy lane } ∧ s.sameBut [.ldg, .dec] t)) ∧
  (∀ (s : State) lane i cfg llr u, s.live = true → SMap.get? s.dec.busy (32 + lane) = some (i, cfg, llr) → i.soft = true →
    s.unit? i.ix = some u → u.gen ≠ i.gen →
    Completes (.softDecodeEnd lane none) s (fun t => t.ldg = { s.ldg with staleCnt := s.ldg.staleCnt + 1 } ∧
      t.dec = { s.dec with busy := SMap.erase s.dec.busy (32 + lane) } ∧ s.sameBut [.ldg, .dec] t)) ∧
  (∀ (s : State) lane i cfg llr u, s.live = true → SMap.get? s.dec.busy (64 + lane) = some (i, cfg, llr) → i.cw = 4 →
    s.unit? i.ix = some u → u.gen ≠ i.gen →
    Completes (.sherdDecodeEnd lane none) s (fun t => t.ldg = { s.ldg with staleCnt := s.ldg.staleCnt + 1 } ∧
      t.dec = { s.dec with busy := SMap.erase s.dec.busy (64 + lane) } ∧ s.sameBut [.ldg, .dec] t)) ∧
  (∀ (s : State) ch b l f u, s.BundleAt ch b l → s.noneStarved → f.typ = 2 → l.target = false → l.st = .up → l.session f → f.seq = l.rxSeq →
    l.reorder = [] → l.unacked = [] → (∀ e ∈ s.ldg.units, e.2.bundle = some b → e.2.kind ≠ .raw) → s.unit? f.entry = some u → u.gen ≠ f.gen →
    Completes (.relayDataFrame ch f) s (fun t => t.ldg.staleCnt = s.ldg.staleCnt + 1 ∧ t.entries = s.entries ∧
      t.pool.pecks = s.pool.pecks)) ∧
  (∀ (s : State) ch b l f u, s.BundleAt ch b l → f.typ = 3 → l.target = false → l.st = .up → l.session f → f.seq = l.rxSeq →
    l.reorder = [] → s.unit? f.entry = some u → u.gen ≠ f.gen →
    Completes (.relayCompletionFrame ch f) s (fun t => t.ldg.staleCnt = s.ldg.staleCnt + 1 ∧ t.entries = s.entries))

/-- An event of another generation is discarded and counted. COMPLETION, for every state and operands that meet the hypotheses on
them alone: `exec` answers a next state, with the effect stated, for urgencyPromotion, predicateDecision, packetComplete,
hardDecodeEnd, softDecodeEnd, sherdDecodeEnd, relayDataFrame, relayCompletionFrame. -/
def Obligations.StaleEventsDiscarded : Prop :=
  Stated.StaleEventsDiscarded

/-- TIME_PACE_PS (R36): VALID at [31], PACE_PS at [15:0], 0x0C80 while VALID = 0, all else zero; a write is ignored; a complete window
with C crossings leaves 16,000,000 / C rounded to the nearest, where the field holds it (log 7 says what happens where it does not). -/
def Sys2Proof.Stated.PaceRegister : Prop :=
(∀ s : State, s.time.paceValid = false → s.readReg 0xC40 = 0x0C80) ∧
  (∀ s : State, s.time.paceValid = true → s.readReg 0xC40 = 0x80000000 ||| s.time.pacePs.setWidth 32) ∧
  (∀ s v, s.hcpFree → exec (.registerWrite 0xC40 v) s = .next s.served) ∧
  (∀ s c, s.sys.coldLow = false → s.sys.started = true → s.time.running = true → s.time.tickEdge = true → 100 ≤ s.time.edges → 0 < c →
    (32000000 + c) / (2 * c) < 65536 →
    Completes (.paceWindowEnd c) s (fun t => ∃ p : BitVec 16, t.readReg 0xC40 = 0x80000000 ||| p.setWidth 32 ∧
      2 * c * p.toNat ≤ 32000000 + c ∧ 32000000 < 2 * c * p.toNat + c)) ∧
  State.reset.readReg 0xC40 = 0x00000C80

/-- TIME_PACE_EXT (R37): MAX at [31:16] and MIN at [15:0] of the results since the last read, which starts them again at 0 and 0xFFFF. -/
def Sys2Proof.Stated.PaceExtremes : Prop :=
(∀ s : State, s.readReg 0xC44 = BitVec.ofNat 32 (s.time.paceMax.toNat * 65536 + s.time.paceMin.toNat)) ∧
  (∀ s, s.hcpFree → Completes (.rcRegisterRead 0xC44) s (fun t => t.hcp.rdata = s.readReg 0xC44 ∧ t.time.paceMax = 0 ∧
    t.time.paceMin = 0xFFFF ∧ t.readReg 0xC44 = 0x0000FFFF)) ∧
  (∀ s v, s.hcpFree → exec (.registerWrite 0xC44 v) s = .next s.served) ∧ State.reset.readReg 0xC44 = 0x0000FFFF

/-- The pace meter (R36, R37): C crossings in a window give 16,000,000 / C rounded to the nearest, in PACE_PS, with the largest and the
smallest kept. A value the field cannot hold is a free value (log 7). -/
def Sys2Proof.Stated.PaceMeterCompletes : Prop :=
(∀ s c, s.sys.coldLow = false → s.sys.started = true → s.time.running = true → s.time.tickEdge = true →
    100 ≤ s.time.edges → 0 < c →
    (32000000 + c) / (2 * c) < 65536 →
    Completes (.paceWindowEnd c) s (fun t => t.time.paceValid ∧ t.time.pacePs.toNat = (32000000 + c) / (2 * c) ∧
      2 * c * t.time.pacePs.toNat ≤ 32000000 + c ∧ 32000000 < 2 * c * t.time.pacePs.toNat + c ∧
      t.time.paceMax.toNat = max s.time.paceMax.toNat t.time.pacePs.toNat ∧
      t.time.paceMin.toNat = min s.time.paceMin.toNat t.time.pacePs.toNat ∧ s.sameBut [.time] t)) ∧
  (∀ s c, s.sys.coldLow = false → s.sys.started = true → s.time.running = true → s.time.tickEdge = true →
    100 ≤ s.time.edges → Completes (.paceWindowEnd c) s (fun t => t.time.paceValid ∧ s.sameBut [.time, .freeCtr] t)) ∧
  (∀ s c, s.time.tickEdge = false → Completes (.paceWindowEnd c) s (fun t => t = s)) ∧
  (∀ s c, s.sys.coldLow = false → s.sys.started = true → s.time.running = true → s.time.tickEdge = true → s.time.edges < 100 →
    Completes (.paceWindowEnd c) s (fun t => t = s.onTime (fun x => { x with tickEdge := false })))

/-- The pace registers and the pace meter. Where the command's event does not hold, nothing changes: the model's choice, log 10.
COMPLETION, for every state and operands that meet the hypotheses on them alone: `exec` answers a next state, with the effect
stated, for paceWindowEnd, registerWrite, rcRegisterRead. -/
def Obligations.PaceMeter : Prop :=
  Stated.PaceRegister ∧
  Stated.PaceExtremes ∧
  Stated.PaceMeterCompletes

/-- COLD_RESET_ASSERT and CORE_RAIL_LOSS (R31, R58, R75): every block of the core is as it is at reset; the NVS lines, the AON island,
the power pins, the test port and the count of answers owed stand. A loss of the rail VCORE clears that count too; the row does not
say which rail is lost, so a free value does (log 133, the model's choice). In Cold the rails are off, and a loss says nothing. -/
def Sys2Proof.Stated.ColdAndRailResetsComplete : Prop :=
(∀ s, Completes .coldResetAssert s (fun t =>
    t.sys.coldLow ∧ t.sys.started = false ∧
    (t.hif, t.ldg, t.pool, t.dec, t.cal, t.sched) = (Hif.reset, Ldg.reset, Pool.reset, Dec.reset, Cal.reset, Sched.reset) ∧
    (t.rly, t.psp, t.spm, t.dma, t.img) = (Rly.reset, Psp.reset, Spm.reset, Dma.reset, Img.reset) ∧
    (t.luns = [] ∧ t.che = [] ∧ t.phy = [] ∧ t.irq.pend = 0 ∧ t.time.ns = 0 ∧ t.hdp.reads = []) ∧
    (t.irq.wakeEn, t.time.aon, t.pwr.st, t.pwr.padHold, t.hdp.drain) =
      (s.irq.wakeEn, s.time.aon, s.pwr.st, s.pwr.padHold, s.hdp.outstanding) ∧
    (s.nvs.running = none → t.nvs.lines = s.nvs.lines ∧ t.nvs.spares = s.nvs.spares) ∧
    t.jtag = s.jtag ∧ t.pending = s.pending)) ∧
  (∀ s, (s.pwr.st ≠ .cold ∨ (s.pwr.exiting = true ∧ s.pwr.ack = true)) → Completes .coreRailLoss s (fun t =>
    t.sys.coldLow ∧ (t.hif, t.ldg, t.dma, t.spm) = (Hif.reset, Ldg.reset, Dma.reset, Spm.reset) ∧
    (s.drawFree.1.getLsbD 0 = true → t.hdp = Hdp.reset) ∧
    (s.drawFree.1.getLsbD 0 = false → t.hdp = { Hdp.reset with drain := s.hdp.outstanding, blocked := s.hdp.outstanding != 0 }) ∧
    t.pwr.st = s.pwr.st ∧ t.time.aon = s.time.aon ∧ (s.nvs.running = none → t.nvs.lines = s.nvs.lines) ∧
    t.pending = s.pending)) ∧
  (∀ s, s.pwr.st = .cold → (s.pwr.exiting = false ∨ s.pwr.ack = false) → exec .coreRailLoss s = .next s)

/-- COLD_START samples the straps (R6) and starts step 1 of R374; AON_RESET resets the AON island and nothing else. -/
def Sys2Proof.Stated.ColdStartAndAonResetComplete : Prop :=
(∀ s straps, s.sys.coldLow = true → Completes (.coldStart straps) s (fun t =>
    t.sys.coldLow = false ∧ t.sys.warmLow = false ∧ t.sys.straps = straps ∧ t.sys.instance_ = straps ∧ t.sys.started ∧
    t.spm.resetHigh ∧ t.time = s.time ∧ t.nvs = s.nvs ∧ t.hif = s.hif ∧ t.irq = s.irq ∧ t.settings = s.settings)) ∧
  (∀ s, Completes .aonReset s (fun t =>
    t.time.aon = 0 ∧ t.time.ns = s.time.ns ∧ t.irq.wakeEn = 0x17 ∧ t.irq.pend = s.irq.pend ∧ t.pwr.st = .fire ∧
    t.pwr.req = 0 ∧ t.pwr.padHold = false ∧ t.pwr.padHeld = false ∧ t.pwr.wakeOut = false ∧ t.pwr.cfg = s.pwr.cfg ∧
    { s with time := t.time, irq := t.irq, pwr := t.pwr } = t))

/-- Cold reset, loss of the core rail, cold start and AON reset. That the AON island, the NVS lines and the test port outlive a
cold reset is R31; where R31 says nothing of a line, log 1. COMPLETION, for every state and operands that meet the hypotheses
on them alone: `exec` answers a next state, with the effect stated, for coldResetAssert, coreRailLoss, coldStart, aonReset.
-/
def Obligations.ResetsComplete : Prop :=
  Stated.ColdAndRailResetsComplete ∧
  Stated.ColdStartAndAonResetComplete

/-- A warm reset (R31, R326): pending bits and halt latches clear, REPLAYING is set, grants end; at its end RESTART_COUNT
is incremented and REPLAYING clears. The registers of the driver, the schedule store and the NVS lines are kept. -/
def Sys2Proof.Stated.WarmResetCompletes : Prop :=
(∀ s, s.sys.coldLow = false → s.pwr.st ≠ .cold → s.ldg.halted = false → s.hif.ready = true → Completes .warmResetAssert s (fun t =>
    t.sys.warmLow ∧ t.sys.coldLow = false ∧ t.ldg.replaying ∧ t.irq.pend = 0 ∧ t.dma.haltQ = [] ∧ t.dma.disable = false ∧
    t.pool.ingress = [] ∧ t.pool.egress = [] ∧ t.hdp.reads = [] ∧ t.hdp.writes = [] ∧ t.hdp.blocked ∧
    t.hif.restart = s.hif.restart ∧ t.time.ns = s.time.ns ∧ t.settings = s.settings)) ∧
  (∀ s ecc susp, s.sys.coldLow = false → s.pwr.st ≠ .cold → s.sys.warmLow = true → s.sys.started = true →
    Completes (.warmResetDeassert ecc susp) s (fun t =>
      t.sys.warmLow = false ∧ t.hif.restart = s.hif.restart + 1 ∧ t.ldg.replaying = false ∧ t.time.ns = s.time.ns ∧
      t.settings = s.settings))

/-- While RST_COLD_N is asserted a warm reset only notes its own pin; a warm reset before READY, or with the ledger halted,
is a cold reset that leaves RST_COLD_N deasserted (R31, R338). -/
def Sys2Proof.Stated.WarmResetActsAsCold : Prop :=
(∀ s, s.sys.coldLow = true → exec .warmResetAssert s = .next { s with sys := { s.sys with warmLow := true } }) ∧
  (∀ s, s.sys.coldLow = false → s.pwr.st ≠ .cold → (s.ldg.halted = true ∨ (s.hif.ready = false ∧ s.sys.resume = false)) →
    Completes .warmResetAssert s (fun t =>
    t.sys.coldLow = false ∧ t.sys.warmLow ∧ t.hif = Hif.reset ∧ t.ldg = Ldg.reset ∧ t.time.aon = s.time.aon ∧
    t.pending = s.pending))

/-- Warm reset, and where it acts as a cold one. COMPLETION, for every state and operands that meet the hypotheses on them alone:
`exec` answers a next state, with the effect stated, for warmResetAssert, warmResetDeassert. -/
def Obligations.WarmResetsComplete : Prop :=
  Stated.WarmResetCompletes ∧
  Stated.WarmResetActsAsCold

/-- The ladder down (R411, R412, R419): Soak, Bank, Ember and Cold, each from the state above it. -/
def Sys2Proof.Stated.SleepEntriesComplete : Prop :=
(∀ s, s.live = true → s.timerPassed 1 (idleNs s.pwr.idle0 10) = true → s.pwr.ack = true →
    Completes (.soakEntry false none) s (fun t => t.pwr.st = .soak ∧ t.pwr.req = 1 ∧ (s.pwr.req ≠ 1 → t.pwr.ack = false) ∧
      { s with pwr := t.pwr } = t ∧ t.settings = s.settings)) ∧
  (∀ s refuses, s.live = true → s.timerPassed 1 (idleNs s.pwr.idle0 10) = true →
    Completes (.soakEntry true refuses) s (fun t => t.pwr.st = .fire ∧ t.pwr.abortUnit = 0 ∧ t.pwr.idleSince = none ∧
      t.irq.pend = s.irq.pend ||| (1 <<< 13) ∧ t.settings = s.settings)) ∧
  (∀ s k, s.live = true → s.timerPassed 1 (idleNs s.pwr.idle0 10) = true → 1 ≤ k → k ≤ 11 →
    Completes (.soakEntry false (some k)) s (fun t => t.pwr.st = .fire ∧ t.pwr.abortUnit.toNat = k ∧
      (s.pwr.abortCnt ≠ 0xFFFFFFF → t.pwr.abortCnt = s.pwr.abortCnt + 1) ∧ t.pwr.idleSince = none ∧
      t.irq.pend = s.irq.pend ||| (1 <<< 13) ∧ t.settings = s.settings)) ∧
  (∀ s, s.inReset = false → s.pwr.st = .soak → s.pwr.exiting = false → s.pwr.ack = true →
    s.timerPassed 2 (idleNs s.pwr.idle1 1000) = true → Completes .bankEntry s (fun t =>
      t.pwr.st = .bank ∧ t.pwr.bbEn ∧ { s with pwr := t.pwr } = t ∧ t.settings = s.settings)) ∧
  (∀ s, s.inReset = false → s.pwr.st = .bank → s.pwr.exiting = false → s.pwr.ack = true → s.emberReady = true →
    s.timerPassed 3 (idleNs s.pwr.idle2 1000) = true → Completes .emberEntry s (fun t =>
      t.pwr.st = .ember ∧ t.pwr.retAssist ∧ t.pwr.isoEn ∧ t.time.t0 = s.time.ns ∧ t.time.k0 = s.time.aon ∧
      t.time.running = false ∧ t.time.paceValid = false ∧ t.time.ns = s.time.ns ∧
      { s with pwr := t.pwr, time := t.time } = t ∧ t.settings = s.settings)) ∧
  (∀ s, s.inReset = false → s.pwr.st = .ember → s.pwr.exiting = false → s.pwr.ack = true →
    s.pwr.cfg.toNat / 2 % 16 = 15 → s.coldDue = true → Completes .coldEntry s (fun t =>
      t.pwr.st = .cold ∧ t.pwr.padHold ∧ t.pwr.save = some s.saveArea ∧
      (t.pwr.cfg, t.nvs.lines, t.nvs.spares, t.time.aon) = (s.pwr.cfg, s.nvs.lines, s.nvs.spares, s.time.aon) ∧
      (t.irq.wakeEn, t.sys.straps, t.jtag, t.pending) = (s.irq.wakeEn, s.sys.straps, s.jtag, s.pending)))

/-- The four power states are entered, or the entry is aborted. COMPLETION, for every state and operands that meet the hypotheses
on them alone: `exec` answers a next state, with the effect stated, for soakEntry, bankEntry, emberEntry, coldEntry. -/
def Obligations.SleepEntriesComplete : Prop :=
  Stated.SleepEntriesComplete

/-- The way up (R414, R415, R418-R420, R423): a wake in Soak or Bank, the watcher in Ember or Cold, PWR_ACK, the restart of
TBCLK, the restore of Cold, the end of the exit. -/
def Sys2Proof.Stated.SleepExitsComplete : Prop :=
(∀ s cause, s.inReset = false → (s.pwr.st = .soak ∨ s.pwr.st = .bank) → Completes (.wakeEvent cause) s (fun t =>
    t.pwr.exiting ∧ t.pwr.bbEn = false ∧ t.pwr.st = s.pwr.st ∧
    t.pwr.latched = s.pwr.latched ||| BitVec.ofNat 8 (2 ^ wakeCode cause) ∧
    { s with pwr := t.pwr, irq := t.irq } = t ∧ t.irq.pend = s.irq.pend ∧ t.settings = s.settings)) ∧
  (∀ s cause, (s.pwr.st = .ember ∨ s.pwr.st = .cold) → s.watches cause = true → s.pwr.exiting = false →
    Completes (.watcherWake cause) s (fun t =>
      t.pwr.exiting ∧ t.pwr.wakeOut ∧ t.pwr.ack = false ∧
      t.pwr.latched = s.pwr.latched ||| BitVec.ofNat 8 (2 ^ wakeCode cause) ∧ { s with pwr := t.pwr } = t ∧
      t.settings = s.settings)) ∧
  (∀ s, s.pwr.ack = false → s.pwr.wakeOut = true → Completes .pwrAckRise s (fun t =>
    t.pwr = { s.pwr with ack := true, retAssist := false, isoEn := false } ∧ { s with pwr := t.pwr } = t ∧
    t.settings = s.settings)) ∧
  (∀ s, s.pwr.ack = false → s.pwr.wakeOut = false →
    exec .pwrAckRise s = .next { s with pwr := { s.pwr with ack := true } }) ∧
  (∀ s : State, s.pwr.wakeOut = true → s.pwr.ack = true → (s.pwr.req ≠ 0 → s.aonEdge.pwr = { s.pwr with req := 0 }) ∧
    (s.pwr.req = 0 → s.aonEdge.pwr = { s.pwr with wakeOut := false })) ∧
  (∀ s a, s.pwr.save = some a → s.inReset = false → s.pwr.st = .cold → s.pwr.exiting = true → s.pwr.ack = true →
    Completes .coldExitRestore s (fun t =>
      (t.hif.cfg, t.irq.pend, t.time.ns, t.time.t0, t.time.k0, t.pool.flushCh) =
        (a.hif.cfg, a.irq.pend, a.time.ns, a.time.t0, a.time.k0, a.pool.flushCh) ∧
      t.spm.loading = some a.spm.slot ∧ t.pwr.padHeld ∧ t.pwr.save = none ∧ t.sys.resume ∧ t.nvs.lines = s.nvs.lines)) ∧
  (∀ s, s.exitDone = true → s.hcp.withheld = none → Completes .sleepExitComplete s (fun t =>
    t.pwr.st = .fire ∧ t.pwr.exiting = false ∧ t.pwr.wakeCause = s.pwr.latched ∧ t.pwr.latched = 0 ∧
    t.pwr.idleSince = none ∧ t.settings = s.settings))

/-- Wakes, PWR_ACK, the restore of Cold and the end of an exit. COMPLETION, for every state and operands that meet the hypotheses
on them alone: `exec` answers a next state, with the effect stated, for wakeEvent, watcherWake, pwrAckRise, coldExitRestore,
sleepExitComplete. -/
def Obligations.SleepExitsComplete : Prop :=
  Stated.SleepExitsComplete

/-- Ring control over the HCP port (R82, R85, R103, R110, R114-R116): what each write leaves. -/
def Sys2Proof.Stated.RingControlCompletes : Prop :=
(∀ s data, s.hcpFree → bit data 0 = true → bit s.hif.cfg 0 = false → s.hif.ready = true → s.hif.tableAll = false →
    Completes (.hifEnable data) s (fun t =>
      t.hif.cfg = data &&& 0xF ∧ t.hif.tableAll ∧ t.hif.tableWait = List.range 256 ∧ t.hif.enableDue = false ∧
      t.hcp = s.served.hcp ∧ t.hif.sqs = s.hif.sqs ∧ t.hif.cqs = s.hif.cqs ∧
      { t with hif := s.hif, hdp := s.hdp, hcp := s.hcp } = s)) ∧
  (∀ s data, s.hcpFree → bit data 0 = false → Completes (.hifDisable data) s (fun t =>
    t.hif.cfg = data &&& 0xF ∧ t.ringsRun = false ∧ t.hif.again = false ∧
    (∀ q, t.sq q = { s.sq q with expired := (s.sq q).expired && !s.hif.againPolls.contains q }) ∧
    (t.hif.cqs, t.hif.fetch) = (s.hif.cqs, s.hif.fetch) ∧
    { t with hif := s.hif, hcp := s.hcp } = s)) ∧
  (∀ s data, s.hcpFree → s.pwr.st = .fire → fld data 16 2 = 1 → s.hif.cmdBusy = false →
    Completes (.ringLoad data) s (fun t =>
      t.hif.cmdBusy ∧ t.hif.cmdErr = false ∧ t.hif.cmdRing.toNat = fld data 0 8 ∧
      (t.hif.sqs, t.hif.cqs, t.settings) = (s.hif.sqs, s.hif.cqs, s.settings) ∧ t.pwr = { s.pwr with idleSince := none } ∧
      { t with hif := s.hif, hdp := s.hdp, hcp := s.hcp, pwr := s.pwr } = s)) ∧
  (∀ s data, s.hcpFree → s.pwr.st = .fire → fld data 16 2 = 2 → s.hif.cmdBusy = false →
    Completes (.ringStop data) s (fun t =>
      (t.sq (fld data 0 8)).en = false ∧ t.hif.cmdErr = false ∧ t.hif.cmdBusy = s.stopWaits (fld data 0 8) ∧
      t.hif.fetch = s.hif.fetch ∧ t.hif.cqs = s.hif.cqs ∧ (∀ q, q ≠ fld data 0 8 → t.sq q = s.sq q) ∧
      t.pwr = { s.pwr with idleSince := none } ∧ { t with hif := s.hif, hcp := s.hcp, pwr := s.pwr } = s)) ∧
  (∀ s data, s.hcpFree → s.pwr.st = .fire → bit data 16 = false → Completes (.predInvalidate data) s (fun t =>
    t.hif.preds = s.hif.preds.filter (fun e => e.1 != fld data 0 12) ∧ t.pwr = { s.pwr with idleSince := none } ∧
    { t with hif := { t.hif with preds := s.hif.preds, predStale := s.hif.predStale }, hcp := s.hcp, pwr := s.pwr } = s)) ∧
  (∀ s data, s.hcpFree → s.pwr.st = .fire → bit data 16 = true → Completes (.predInvalidateAll data) s (fun t =>
    t.hif.preds = [] ∧ t.pwr = { s.pwr with idleSince := none } ∧
    { t with hif := { t.hif with preds := s.hif.preds, predStale := s.hif.predStale }, hcp := s.hcp, pwr := s.pwr } = s)) ∧
  (∀ s data, s.hcpFree → bit data 31 = true → s.hif.faultValid = true → Completes (.hifFaultClear data) s (fun t =>
    t.hif.faultValid = false ∧ t.hif.cqRetry = [] ∧ (∀ e ∈ t.hif.cqs, e.2.held = false) ∧ t.settings = s.settings ∧
    { t with hif := s.hif, hdp := s.hdp, hcp := s.hcp } = s))

/-- The ring table (R82-R84): a LOAD that arrives is applied or refused as a whole; one whose read fails sets ERR, records
KIND 3, and leaves every ring as it was. -/
def Sys2Proof.Stated.RingLoadEnds : Prop :=
(∀ s ring entry q u, s.live = true → s.hif.tableAll = false → s.popRead (fun q => q.what == .ring ring) = some (q, u) →
    ringEntryValid entry = false → Completes (.ringTableData ring entry) s (fun t =>
      t.hif.cmdBusy = false ∧ t.hif.cmdErr ∧ t.hif.sqs = s.hif.sqs ∧ t.hif.cqs = s.hif.cqs ∧ t.settings = s.settings)) ∧
  (∀ s ring entry q u, s.live = true → s.hif.tableAll = false → s.popRead (fun q => q.what == .ring ring) = some (q, u) →
    ringEntryValid entry = true → (s.cq ring).en = false → (s.sq ring).en = false → rtCqEn entry = true →
    rtSqEn entry = true → rtBind entry = ring → Completes (.ringTableData ring entry) s (fun t =>
      t.hif.cmdBusy = false ∧ t.hif.cmdErr = false ∧
      (t.cq ring).en ∧ (t.cq ring).base = rtCqBase entry ∧ (t.cq ring).log2 = rtCqLog2 entry ∧ (t.cq ring).tail = 0 ∧
      (t.cq ring).head = 0 ∧ (t.sq ring).en ∧ (t.sq ring).base = rtSqBase entry ∧ (t.sq ring).log2 = rtSqLog2 entry ∧
      (t.sq ring).bind = ring ∧ (t.sq ring).head = 0 ∧ (t.sq ring).tail = 0 ∧
      (∀ i, i ≠ ring → t.sq i = s.sq i ∧ t.cq i = s.cq i) ∧ t.settings = s.settings)) ∧
  (∀ s ring q u, s.live = true → s.hif.tableAll = false → s.popRead (fun q => q.what == .ring ring) = some (q, u) →
    s.hif.faultValid = false → Completes (.ringTableReadError ring) s (fun t =>
      t.hif.cmdBusy = false ∧ t.hif.cmdErr ∧ t.hif.faultValid ∧ t.hif.faultKind = 3 ∧
      t.irq.pend = s.irq.pend ||| (1 <<< 2) ∧ t.hif.sqs = s.hif.sqs ∧ t.hif.cqs = s.hif.cqs ∧ t.settings = s.settings))

/-- Ring control, ring-table loads and their ends. COMPLETION, for every state and operands that meet the hypotheses on them
alone: `exec` answers a next state, with the effect stated, for hifEnable, hifDisable, ringLoad, ringStop, predInvalidate,
predInvalidateAll, hifFaultClear, ringTableData, ringTableReadError. -/
def Obligations.RingCommandsComplete : Prop :=
  Stated.RingControlCompletes ∧
  Stated.RingLoadEnds

/-- Doorbell cycles (R88, R89, R414, R417): what starts one, what wakes the instance for one, and what an error on one of its reads
does. -/
def Sys2Proof.Stated.DoorbellCyclesStart : Prop :=
(∀ s, s.ringsRun = true → bit s.hif.cfg 3 = true → s.hif.cycle = none → Completes .kickIn s (fun t =>
    t.hif.cycle = some { polls := [], all := false, swap := true, tails := [], heads := [], found := false } ∧
    t.pwr.idleSince = none ∧
    { t with hif := { t.hif with cycle := none }, hdp := s.hdp, pwr := { t.pwr with idleSince := s.pwr.idleSince } } = s)) ∧
  (∀ s, s.ringsRun = true → bit s.hif.cfg 3 = true → s.hif.cycle.isSome = true → Completes .kickIn s (fun t =>
    t.hif.again ∧ t.hif.cycle = s.hif.cycle ∧ t.hdp = s.hdp ∧ t.settings = s.settings)) ∧
  (∀ s, s.live = true → bit s.hif.cfg 0 = true → bit s.hif.cfg 3 = true → s.ringsRun = false → Completes .kickIn s (fun t =>
    t = (s.onPwr (fun p => { p with idleSince := none })).onHif (fun h => { h with again := true }))) ∧
  (∀ s, s.dozing = true → Completes .kickIn s (fun t => t = s.wake 1)) ∧
  (∀ s, s.dozing = true → s.hif.on = true → s.hif.poll ≠ 0 → s.passed s.hif.pollFrom (pollNs s.hif.poll.toNat) = true →
    Completes .pollTimerExpiry s (fun t => t.pwr.exiting ∧ t.hif.again ∧ t.hif.againAll ∧ t.hif.pollFrom = s.time.ns ∧
      t.hif.cycle = s.hif.cycle ∧ t.settings = s.settings)) ∧
  (∀ s, s.ringsRun = true → s.hif.poll ≠ 0 → s.passed s.hif.pollFrom (pollNs s.hif.poll.toNat) = true → s.hif.cycle = none →
    Completes .pollTimerExpiry s (fun t =>
      t.hif.cycle = some { polls := [], all := true, swap := true, tails := [], heads := [], found := false } ∧
      t.hif.pollFrom = s.time.ns ∧ t.hif.sqs = s.hif.sqs ∧ t.settings = s.settings)) ∧
  (∀ s q, s.ringsRun = true → q < 256 → (s.sq q).en = true → (s.sq q).pollOvr = true → (s.sq q).expired = false →
    s.passed (s.sq q).polled (pollNs (s.sq q).pollPeriod) = true → s.hif.cycle = none →
    Completes (.sqPollExpiry q) s (fun t =>
      t.hif.cycle = some { polls := [q], all := false, swap := true, tails := [], heads := [], found := false } ∧
      t.sq q = { s.sq q with expired := true } ∧ (∀ i, i ≠ q → t.sq i = s.sq i) ∧ t.settings = s.settings)) ∧
  (∀ s q u, s.live = true → s.doorbellTag.2.popTag s.doorbellTag.1 (fun q => isDoorbell q.what) = some (q, u) →
    s.hif.faultValid = false → s.hif.again = false → s.hif.cycle.isSome = true → Completes .doorbellReadError s (fun t =>
      q ∈ s.hdp.reads ∧ isDoorbell q.what ∧ t.hif.cycle = none ∧ t.hif.faultValid ∧ t.hif.faultKind = 0 ∧ t.hif.faultAddr = BitVec.ofNat 57 q.addr ∧
      t.irq.pend = s.irq.pend ||| (1 <<< 2) ∧ (∀ i, t.sq i = { s.sq i with expired := false }) ∧ t.hif.cqs = s.hif.cqs ∧
      t.settings = s.settings))

/-- The answers of a doorbell cycle (R88): the old SUMMARY names the tail blocks, a tail block gives the tails of its SQs,
a head block the heads of its CQs. -/
def Sys2Proof.Stated.DoorbellAnswersComplete : Prop :=
(∀ s bits q u c, s.live = true → s.popRead (fun q => q.what == .swap) = some (q, u) → s.hif.cycle = some c → bits ≠ 0 →
    Completes (.summarySwapData bits) s (fun t => t.settings = s.settings ∧
      ∃ d, t.hif.cycle = some d ∧ d.swap = false ∧ d.found = true ∧ ∀ k, bits.getLsbD k = true → k ∈ d.polls ∧ k / 16 ∈ d.tails)) ∧
  (∀ s b tails q u c, s.live = true → s.popRead (fun q => q.what == .tails b) = some (q, u) → s.hif.cycle = some c →
    tails.length = 16 → Completes (.tailBlockData b tails) s (fun t => t.settings = s.settings ∧
      (∀ k x, k < 16 → tails[k]? = some x → (s.sq (16 * b + k)).en = true →
        (t.sq (16 * b + k)).tail = x ∧ (t.sq (16 * b + k)).polled = s.time.ns ∧ (t.sq (16 * b + k)).head = (s.sq (16 * b + k)).head) ∧
      (∀ i, i / 16 ≠ b → t.sq i = s.sq i) ∧ t.hif.cqs = s.hif.cqs)) ∧
  (∀ s b heads q u, s.live = true → s.popRead (fun q => q.what == .heads b) = some (q, u) →
    heads.length = 16 → Completes (.cqHeadData b heads) s (fun t => t.settings = s.settings ∧
      (∀ k x, k < 16 → heads[k]? = some x → (s.cq (16 * b + k)).en = true →
        (t.cq (16 * b + k)).head = x ∧ (t.cq (16 * b + k)).tail = (s.cq (16 * b + k)).tail) ∧
      (∀ i, i / 16 ≠ b → t.cq i = s.cq i) ∧ t.hif.sqs = s.hif.sqs))

/-- SQ fetches (R92): the next entry is asked for at the SQ's head; one whose OWN differs from the phase counts as not yet
written; one whose read fails stops the SQ and records KIND 1. A work item leaves the list from the front (R106). -/
def Sys2Proof.Stated.SqFetchesComplete : Prop :=
(∀ s q, s.nextSq = some q → s.canFetch = true → Completes .sqFetchRequest s (fun t =>
    t.hif.fetch = some (q, (s.sq q).head) ∧ t.hif.lastSq = q ∧ t.hif.sqs = s.hif.sqs ∧
    { t with hif := { t.hif with fetch := s.hif.fetch, lastSq := s.hif.lastSq }, hdp := s.hdp } = s)) ∧
  (∀ s entry q k u, s.fetched = some (q, k, u) → s.live = true → s.ownMatches q k entry = false →
    Completes (.ownMismatch entry) s (fun t =>
      t.hif.fetch = none ∧ (t.sq q).notYet ∧ (t.sq q).head = (s.sq q).head ∧ (∀ i, i ≠ q → t.sq i = s.sq i) ∧
      t.ldg = s.ldg ∧ t.settings = s.settings)) ∧
  (∀ s q k u, s.fetched = some (q, k, u) → s.live = true → s.hif.faultValid = false → Completes .sqReadError s (fun t =>
    t.hif.fetch = none ∧ (t.sq q).en = false ∧ (∀ i, i ≠ q → t.sq i = s.sq i) ∧ t.hif.faultValid ∧ t.hif.faultKind = 1 ∧
    t.hif.faultRing = BitVec.ofNat 8 q ∧ t.irq.pend = s.irq.pend ||| (1 <<< 2) ∧ t.ldg = s.ldg ∧ t.settings = s.settings)) ∧
  (∀ s x r, s.inReset = false → s.pwr.st ≠ .ember → s.pwr.st ≠ .cold → s.hif.items = x :: r →
    exec .workItemTransfer s = .next { s with hif := { s.hif with items := r } })

/-- Doorbell cycles, their answers and SQ fetches. COMPLETION, for every state and operands that meet the hypotheses on them
alone: `exec` answers a next state, with the effect stated, for kickIn, pollTimerExpiry, sqPollExpiry, doorbellReadError,
summarySwapData, tailBlockData, cqHeadData, sqFetchRequest, ownMismatch, sqReadError, workItemTransfer. -/
def Obligations.DoorbellsAndFetches : Prop :=
  Stated.DoorbellCyclesStart ∧
  Stated.DoorbellAnswersComplete ∧
  Stated.SqFetchesComplete

/-- Accesses that end with HCP_ERR = 1, HCP_RDATA = 0 and no effect (R53, R413, R471), and the access that Bank withholds
(R413). -/
def Sys2Proof.Stated.AccessesWithoutEffect : Prop :=
(∀ s w off data, s.inReset = true →
    exec (.hcpAccessInReset w off data) s = .next { s with hcp := { s.hcp with rdata := 0, err := true } }) ∧
  (∀ s w off data, s.inReset = false → (s.pwr.st = .ember ∨ s.pwr.st = .cold) →
    exec (.hcpAccessInSleep w off data) s = .next { s with hcp := { s.hcp with rdata := 0, err := true } }) ∧
  (∀ s off data, s.hcpFree → 0x8000 ≤ off.toNat →
    exec (.xipWrite off data) s = .next { s.served with hcp := { s.served.hcp with rdata := 0, err := true } }) ∧
  (∀ s w off data, s.inReset = false → s.pwr.st = .bank → s.hcp.withheld = none → s.spm.waiting = none →
    Completes (.hcpAccessInBank w off data) s (fun t =>
      t.hcp.withheld = some (w, off, data) ∧ t.hcp.rdata = s.hcp.rdata ∧ t.pwr.exiting ∧
      t.pwr.latched = s.pwr.latched ||| 0x40 ∧ { t with hcp := s.hcp, pwr := s.pwr } = s ∧ t.settings = s.settings))

/-- The XIP window (R384, R385, R469): a read ends from a held line, or waits for its line, or for the sector's re-erase; an arriving line ends the read
that waits; a write of the base moves the window and empties the buffer, or is refused with XIP_ERR. -/
def Sys2Proof.Stated.XipWindowCompletes : Prop :=
(∀ s off line, s.hcpFree → 0x8000 ≤ off.toNat → s.spm.xipReady = true → s.sectorHeld (sectorOf (s.spm.xipByte off)) = false →
    SMap.get? s.spm.lines (s.spm.xipByte off / 64) = some line → Completes (.xipRead off) s (fun t =>
      t.hcp.rdata = BitVec.ofNat 32 (num line (s.spm.xipByte off % 64) 4) ∧ t.hcp.err = false ∧ t.spm = s.spm ∧
      { t with hcp := s.hcp } = s)) ∧
  (∀ s off, s.hcpFree → 0x8000 ≤ off.toNat → s.spm.xipReady = true → s.sectorHeld (sectorOf (s.spm.xipByte off)) = true →
    Completes (.xipRead off) s (fun t => t.spm = { s.spm with waiting := some off } ∧ { t with hcp := s.hcp, spm := s.spm } = s)) ∧
  (∀ s off, s.hcpFree → 0x8000 ≤ off.toNat → s.spm.xipReady = true → s.sectorHeld (sectorOf (s.spm.xipByte off)) = false →
    SMap.get? s.spm.lines (s.spm.xipByte off / 64) = none → s.spm.inFlight = none →
    Completes (.xipRead off) s (fun t =>
      t.spm.waiting = some off ∧ t.spm.inFlight = some (s.spm.xipByte off / 64) ∧ t.spm.lines = s.spm.lines ∧
      { t with hcp := s.hcp, spm := s.spm } = s)) ∧
  (∀ s off line, s.live = true → s.spm.readable = true → s.spm.xipReady = true → s.spm.waiting = some off →
    s.sectorHeld (sectorOf (s.spm.xipByte off)) = false → s.spm.inFlight = some (s.spm.xipByte off / 64) → s.spm.lineOrder.length < 8 → line.length = 64 →
    Completes (.xipLineArrival line) s (fun t =>
      t.hcp.rdata = BitVec.ofNat 32 (num line (s.spm.xipByte off % 64) 4) ∧ t.hcp.err = false ∧ t.spm.waiting = none ∧
      SMap.get? t.spm.lines (s.spm.xipByte off / 64) = some line ∧ t.settings = s.settings)) ∧
  (∀ s data, s.hcpFree → s.spm.opBusy = false → Completes (.xipBaseWrite data) s (fun t =>
    t.spm.xipBase.toNat = fld data 12 16 ∧ t.spm.lines = [] ∧ t.spm.xipErr = (s.spm.xipErr && !bit data 31) ∧
    { t with hcp := s.hcp, spm := s.spm } = s ∧ t.settings = s.settings)) ∧
  (∀ s data o, s.hcpFree → s.spm.opBusy = true → s.spm.op = some o → o.kind = .program →
    meets s.spm.opAddr.toNat s.spm.opLen.toNat (4096 * fld data 12 16) 0x8000 = true →
    Completes (.xipBaseWrite data) s (fun t =>
      t.spm.xipErr ∧ t.spm.xipBase = s.spm.xipBase ∧ t.spm.lines = s.spm.lines ∧ { t with hcp := s.hcp, spm := s.spm } = s))

/-- TIME_CAPTURE_READ (R431): the LO register captures the whole counter, and the HI register then reads from the
capture whatever the counter does. -/
def Sys2Proof.Stated.TimeCaptureReadCaptures : Prop :=
(∀ s, s.hcpFree → Completes (.timeCaptureRead false) s (fun t =>
    t.hcp.rdata = BitVec.ofNat 32 s.time.ns.toNat ∧ t.time.capNs = s.time.ns ∧
    (∀ ns, ({ t with time := { t.time with ns := ns } } : State).readReg 0xC04 = BitVec.ofNat 32 (s.time.ns.toNat / 2 ^ 32)) ∧
    { t with hcp := s.hcp, time := { t.time with capNs := s.time.capNs } } = s)) ∧
  (∀ s, s.hcpFree → Completes (.timeCaptureRead true) s (fun t =>
    t.hcp.rdata = BitVec.ofNat 32 s.time.aon.toNat ∧ t.time.capAon = s.time.aon ∧
    (∀ k, ({ t with time := { t.time with aon := k } } : State).readReg 0xC0C = BitVec.ofNat 32 (s.time.aon.toNat / 2 ^ 32)) ∧
    { t with hcp := s.hcp, time := { t.time with capAon := s.time.capAon } } = s))

/-- HCP accesses without effect, the XIP window and TIME captures. COMPLETION, for every state and operands that meet the
hypotheses on them alone: `exec` answers a next state, with the effect stated, for hcpAccessInBank, hcpAccessInReset,
hcpAccessInSleep, xipWrite, xipRead, xipLineArrival, xipBaseWrite, timeCaptureRead. -/
def Obligations.HostPortAccesses : Prop :=
  Stated.AccessesWithoutEffect ∧
  Stated.XipWindowCompletes ∧
  Stated.TimeCaptureReadCaptures

/-- REGISTER_WRITE on the plain RW registers (R15, R16): the register takes the bits written; the queues, the ledger, the
pool, the channels, the rings and the interrupt block stay as they are. -/
def Sys2Proof.Stated.RegisterWriteStores : Prop :=
∀ s v, s.hcpFree → ∀ p ∈ rwRegs, Completes (.registerWrite (BitVec.ofNat 16 p.1) v) s (fun t =>
    t.readReg p.1 = v &&& p.2 ∧ t.hcp = s.served.hcp ∧ (t.irq, t.hdp, t.luns, t.che, t.dma) = (s.irq, s.hdp, s.luns, s.che, s.dma) ∧
    (t.ldg.units, t.ldg.cmds, t.pool.pecks, t.hif.sqs, t.hif.cqs) = (s.ldg.units, s.ldg.cmds, s.pool.pecks, s.hif.sqs, s.hif.cqs) ∧
    t.pending = s.pending)

/-- REGISTER_WRITE on CHE_CFG of every channel (R165): the bits of R165 are stored, and no other channel changes. -/
def Sys2Proof.Stated.ChannelConfigWriteStores : Prop :=
∀ s v c, s.hcpFree → c < 32 → Completes (.registerWrite (BitVec.ofNat 16 (0x2000 + 0x80 * c)) v) s (fun t =>
    t.readReg (0x2000 + 0x80 * c) = v &&& 0x00F0FF1E ∧ (∀ d, d ≠ c → t.chan d = s.chan d) ∧
    { t with hcp := s.hcp, che := s.che } = s)

/-- The depths of the die queues (R169): the register at 0x40 + 4k of channel c holds the entries linked on the die queue of
thread 2k + 1 above those of thread 2k, each saturating at 0xFFFF. -/
def Sys2Proof.Stated.QueueDepthsRead : Prop :=
∀ s : State, ∀ c k, c < 32 → k < 8 →
    s.readReg (0x2000 + 0x80 * c + 0x40 + 4 * k) =
      BitVec.ofNat 32 (0x10000 * min 0xFFFF ((s.lun (16 * c + 2 * k + 1)).readQ.length + (s.lun (16 * c + 2 * k + 1)).orderQ.length) +
        min 0xFFFF ((s.lun (16 * c + 2 * k)).readQ.length + (s.lun (16 * c + 2 * k)).orderQ.length))

/-- REGISTER_WRITE behind a condition (R468): the base registers of the HIF accept a write only while QUIESCED = 1, ALARM
only while ARM = 0; otherwise the write is ignored. -/
def Sys2Proof.Stated.ConditionalWritesIgnored : Prop :=
(∀ s v, s.hcpFree → s.quiesced = false → ∀ o ∈ [0x10, 0x14, 0x18, 0x1C, 0x20, 0x24],
    exec (.registerWrite (BitVec.ofNat 16 o) v) s = .next s.served) ∧
  (∀ s v, s.hcpFree → s.quiesced = true → ∀ p ∈ [((0x10 : Nat), (0xFFFFC000 : Word)), (0x18, 0xFFFFF000), (0x20, 0xFFF80000),
    (0x14, 0x01FFFFFF), (0x1C, 0x01FFFFFF), (0x24, 0x01FFFFFF)],
    Completes (.registerWrite (BitVec.ofNat 16 p.1) v) s (fun t =>
      t.readReg p.1 = v &&& p.2 ∧ { t with hif := s.hif, hcp := s.hcp } = s ∧ t.hif.sqs = s.hif.sqs)) ∧
  (∀ s v, s.hcpFree → s.time.arm = true → exec (.registerWrite 0xC10 v) s = .next s.served ∧
    exec (.registerWrite 0xC14 v) s = .next s.served) ∧
  (∀ s v, s.hcpFree → s.time.arm = false → Completes (.registerWrite 0xC10 v) s (fun t =>
    t.time.alarm = setFld s.time.alarm 0 32 v.toNat ∧ { t with hcp := s.hcp, time := { t.time with alarm := s.time.alarm } } = s)) ∧
  (∀ s v, s.hcpFree → s.spm.opBusy = true → ∀ o ∈ [0x4010, 0x4014, 0x4018, 0x401C],
    exec (.registerWrite (BitVec.ofNat 16 o) v) s = .next s.served)

/-- Register writes store their bits, or are ignored behind their conditions; the die-queue depths read. COMPLETION, for every
state and operands that meet the hypotheses on them alone: `exec` answers a next state, with the effect stated, for
registerWrite. -/
def Obligations.RegisterWritesStore : Prop :=
  Stated.RegisterWriteStores ∧
  Stated.ChannelConfigWriteStores ∧
  Stated.QueueDepthsRead ∧
  Stated.ConditionalWritesIgnored

/-- RC_REGISTER_READ (R467): the read returns the register, and its RC field then reads as zero; so too in the block of every channel
and of every PHY slice. -/
def Sys2Proof.Stated.RcReadReturnsAndClears : Prop :=
(∀ s, s.hcpFree → ∀ p ∈ rcRegs, Completes (.rcRegisterRead (BitVec.ofNat 16 p.1)) s (fun t =>
    t.hcp.rdata = s.readReg p.1 ∧ t.hcp.err = false ∧ t.readReg p.1 &&& p.2 = 0 ∧ t.irq = s.irq ∧ t.settings = s.settings)) ∧
  (∀ s, s.hcpFree → ∀ c ∈ List.range 32, ∀ o ∈ [0x0C, 0x10, 0x14, 0x18],
    Completes (.rcRegisterRead (BitVec.ofNat 16 (0x2000 + 0x80 * c + o))) s (fun t =>
      t.hcp.rdata = s.readReg (0x2000 + 0x80 * c + o) ∧ t.hcp.err = false ∧ t.readReg (0x2000 + 0x80 * c + o) = 0 ∧
      (∀ d, d ≠ c → t.chan d = s.chan d) ∧ { t with hcp := s.hcp, che := s.che } = s)) ∧
  (∀ s, s.hcpFree → ∀ c ∈ List.range 32, Completes (.rcRegisterRead (BitVec.ofNat 16 (0x3008 + 0x40 * c))) s (fun t =>
    t.hcp.rdata = s.readReg (0x3008 + 0x40 * c) ∧ t.hcp.err = false ∧ t.readReg (0x3008 + 0x40 * c) = 0 ∧
    (∀ d, d ≠ c → t.phyOf d = s.phyOf d) ∧ { t with hcp := s.hcp, phy := s.phy } = s))

/-- A read of an RC field returns it and clears it. COMPLETION, for every state and operands that meet the hypotheses on them
alone: `exec` answers a next state, with the effect stated, for rcRegisterRead. -/
def Obligations.RcReadsClear : Prop :=
  Stated.RcReadReturnsAndClears

/-- The interrupt block (R438-R441): pending bits, masks and the wake enables, each write as R438-R441 state it. -/
def Sys2Proof.Stated.InterruptWritesComplete : Prop :=
(∀ s data, s.hcpFree → Completes (.irqSrcClr data) s (fun t =>
    (∀ k, t.irq.pend.getLsbD k = (s.irq.pend.getLsbD k && k != fld data 0 6)) ∧
    { t with hcp := s.hcp, irq := { t.irq with pend := s.irq.pend } } = s)) ∧
  (∀ s data, s.hcpFree → Completes (.irqPendWrite false data) s (fun t =>
    (∀ k, t.irq.pend.getLsbD k = if k < 32 then data.getLsbD k else s.irq.pend.getLsbD k) ∧
    { t with hcp := s.hcp, irq := { t.irq with pend := s.irq.pend } } = s)) ∧
  (∀ s data, s.hcpFree → Completes (.irqPendWrite true data) s (fun t =>
    (∀ k, t.irq.pend.getLsbD k = if 32 ≤ k ∧ k < 58 then data.getLsbD (k - 32) else s.irq.pend.getLsbD k) ∧
    { t with hcp := s.hcp, irq := { t.irq with pend := s.irq.pend } } = s)) ∧
  (∀ s n hi data, s.hcpFree → n < 4 → Completes (.irqMaskWrite n hi data) s (fun t =>
    t.irq.mask n = (if hi then setFld (s.irq.mask n) 32 26 data.toNat else setFld (s.irq.mask n) 0 32 data.toNat) ∧
    (∀ m, m < 4 → m ≠ n → t.irq.mask m = s.irq.mask m) ∧ t.irq.pend = s.irq.pend ∧ t.irq.wakeEn = s.irq.wakeEn ∧
    { t with hcp := s.hcp, irq := s.irq } = s)) ∧
  (∀ s data, s.hcpFree → Completes (.wakeEnWrite data) s (fun t =>
    t.irq.wakeEn = s.irq.wakeEn ∧ t.aonEdge.irq.wakeEn = s.irq.wakeEn ∧
    t.aonEdge.aonEdge.irq.wakeEn = data.setWidth 5 ∧ { t with hcp := s.hcp, irq := { t.irq with wakeEnNext := s.irq.wakeEnNext } } = s))

/-- The interrupt outputs (R437): INT_OUT[n] is high exactly when some source is pending and not masked for output n, and a
source rises by setting its pending bit alone (R435). -/
def Sys2Proof.Stated.InterruptOutputFollowsPending : Prop :=
(∀ q n, Irq.out q n = true ↔ ∃ k, k < 58 ∧ q.pend.getLsbD k = true ∧ (q.mask n).getLsbD k = false) ∧
  (∀ (s : State) (n : Nat), n < 58 → s.pwr.st ≠ .soak → s.pwr.st ≠ .bank →
    (∀ k, (s.raise n).irq.pend.getLsbD k = (s.irq.pend.getLsbD k || k == n)) ∧
    { s.raise n with irq := { (s.raise n).irq with pend := s.irq.pend } } = s)

/-- Pending bits, masks, wake enables and the interrupt outputs. COMPLETION, for every state and operands that meet the
hypotheses on them alone: `exec` answers a next state, with the effect stated, for irqSrcClr, irqPendWrite, irqMaskWrite,
wakeEnWrite. -/
def Obligations.InterruptBlock : Prop :=
  Stated.InterruptWritesComplete ∧
  Stated.InterruptOutputFollowsPending

/-- Every fetched command (R92, R97, R98, R314, R318): an entry whose OWN is that of its position and whose OP is the row's
takes five context entries, each with its GEN incremented and no other GEN changed; the head moves on by one; the command
keeps the 64 bytes, the SQ, the position, the CQ bound to the SQ, the time, and as its GEN that of its first entry. -/
def Sys2Proof.Stated.FetchedCommandTaken : Prop :=
∀ p ∈ fetchedRows, ∀ s e ctx c0 q k u, s.going = true → s.ctxFree ctx = true → ctx.head? = some c0 →
    s.fetched = some (q, k, u) → s.ownMatches q k e = true → opOf (entOp e) = p.1 →
    Completes (p.2 e ctx) s (fun t =>
      (t.sq q).head = (s.sq q).head + 1 ∧ (∀ i, i ≠ q → t.sq i = s.sq i) ∧ t.hif.fetch = none ∧
      (∀ i, t.genOf i = if i ∈ ctx then s.genOf i + 1 else s.genOf i) ∧
      (∃ c, t.cmd? c0 = some c ∧ c.op = p.1 ∧ c.raw = e ∧ c.sq = q ∧ c.pos = k ∧ c.cq = (s.sq q).bind ∧
        c.gen = s.genOf c0 + 1 ∧ c.ixs = ctx ∧ c.fetched = s.time.ns ∧ c.seq = s.ldg.nextSeq ∧ c.units = []) ∧
      (∀ i, i ≠ c0 → (t.cmd? i).map Cmd.ident = (s.cmd? i).map Cmd.ident) ∧
      t.entries.units = s.entries.units)

/-- A command that is refused (R97, R29, R101, R103): INVALID_DESCRIPTOR before ROUTE_UNKNOWN is its status; it takes no unit
entry, opens no chain and reads nothing, but for the predicate of one whose route is not known: VALID = 0 in it goes first. -/
def Sys2Proof.Stated.FetchedCommandRefused : Prop :=
(∀ p ∈ fetchedRows, ∀ s e ctx c0 q k u st, s.going = true → s.ctxFree ctx = true → ctx.head? = some c0 →
    s.fetched = some (q, k, u) → s.ownMatches q k e = true → opOf (entOp e) = p.1 → s.fetchRefusal p.1 e = some st →
    (st = .invalidDescriptor ∨ bindsPred p.1 e = false) → Completes (p.2 e ctx) s (fun t =>
      (∃ c, t.cmd? c0 = some c ∧ c.whole = some st ∧ c.want = 0) ∧ t.hif.waiting = s.hif.waiting ∧
      (t.hdp, t.dma, t.luns, t.pool) = (u.hdp, s.dma, s.luns, s.pool))) ∧
  (∀ p ∈ fetchedRows, ∀ s e ctx c0 q k u, s.going = true → s.ctxFree ctx = true → ctx.head? = some c0 →
    s.fetched = some (q, k, u) → s.ownMatches q k e = true → opOf (entOp e) = p.1 → s.fetchRefusal p.1 e = some .routeUnknown →
    bindsPred p.1 e = true → Completes (p.2 e ctx) s (fun t =>
      (∃ c, t.cmd? c0 = some c ∧ c.want = 0 ∧
        (∀ x, s.hif.preds.find? (fun p => p.1 == entPredId e) = some x →
          c.pred = some x.2 ∧ c.predWait = false ∧ c.whole = some (if bit x.2 0 then .routeUnknown else .invalidDescriptor)) ∧
        (s.hif.preds.find? (fun p => p.1 == entPredId e) = none → c.predWait ∧ c.whole = some .routeUnknown)) ∧
      t.hif.waiting = s.hif.waiting ∧ (t.dma, t.luns, t.pool) = (s.dma, s.luns, s.pool))) ∧
  (∀ (s : State) (e : BitVec 512), s.fetchRefusal .unknown e = some Status.invalidDescriptor)

/-- Every fetched command takes its entries, or is refused. COMPLETION, for every state and operands that meet the hypotheses on
them alone: `exec` answers a next state, with the effect stated, for unknownOpcode, read, readScan, readSherd, readStream,
program, programSlc, fold, erase, raw, nop, ringFence, cancel, calibrate, patrolNow, nvsSync. -/
def Obligations.FetchedCommandsTaken : Prop :=
  Stated.FetchedCommandTaken ∧
  Stated.FetchedCommandRefused

/-- A command without a predicate that is not refused (R95, R96, R119, R314): how many unit entries it will take, and the
chain that opens with its head descriptor. -/
def Sys2Proof.Stated.FetchedCommandBegins : Prop :=
∀ p ∈ fetchedRows, p.1 ∈ ([.read, .readSherd, .program, .programSlc, .fold, .erase, .raw, .nop] : List Op) →
    ∀ s e ctx c0 q k u, s.going = true → s.ctxFree ctx = true → ctx.head? = some c0 →
    s.fetched = some (q, k, u) → s.ownMatches q k e = true → opOf (entOp e) = p.1 → s.fetchRefusal p.1 e = none →
    Completes (p.2 e ctx) s (fun t =>
      (∃ c, t.cmd? c0 = some c ∧ c.whole = none ∧ c.want = unitsAtFetch p.1 e ∧ c.pred = none ∧ c.doneCount = none) ∧
      t.hif.waiting = (if unitsAtFetch p.1 e = 0 then s.hif.waiting else some c0) ∧
      ((opReads p.1 || opPrograms p.1 || (p.1 == .raw && entRawLen e != 0)) = true →
        ∃ h, t.chain? (.cmd c0) = some h ∧ h.next = some (entChain e % 2 ^ 57) ∧ h.segs = [] ∧ h.reading) ∧
      ((opReads p.1 || opPrograms p.1 || (p.1 == .raw && entRawLen e != 0)) = false → t.dma = s.dma ∧ t.hdp = u.hdp))

/-- The predicate of a READ_SCAN (R48, R97, R103): bound from the cache, INVALID_DESCRIPTOR where the bound copy has
VALID = 0, else read from the table. -/
def Sys2Proof.Stated.ScanPredicateBinds : Prop :=
(∀ s e ctx c0 q k u id bits, s.going = true → s.ctxFree ctx = true → ctx.head? = some c0 → s.fetched = some (q, k, u) →
    s.ownMatches q k e = true → opOf (entOp e) = .readScan → s.fetchRefusal .readScan e = none →
    s.hif.preds.find? (fun p => p.1 == entPredId e) = some (id, bits) →
    Completes (.readScan e ctx) s (fun t =>
      ∃ c, t.cmd? c0 = some c ∧ c.pred = some bits ∧ c.predWait = false ∧
        (bit bits 0 = true → c.whole = none ∧ c.want = entCount e) ∧
        (bit bits 0 = false → c.whole = some .invalidDescriptor ∧ c.want = 0 ∧ t.dma = s.dma))) ∧
  (∀ s e ctx c0 q k u, s.going = true → s.ctxFree ctx = true → ctx.head? = some c0 → s.fetched = some (q, k, u) →
    s.ownMatches q k e = true → opOf (entOp e) = .readScan → s.fetchRefusal .readScan e = none →
    s.hif.preds.find? (fun p => p.1 == entPredId e) = none → u.hdp.blocked = false → u.hdp.heldReads = [] →
    u.hdp.reads.length < 1024 →
    Completes (.readScan e ctx) s (fun t =>
      (∃ c, t.cmd? c0 = some c ∧ c.predWait ∧ c.whole = none ∧ c.want = entCount e) ∧
      (∃ r ∈ t.hdp.reads, r.what = .pred c0 ∧ r.addr = s.hif.predBase.toNat + 128 * entPredId e ∧ r.size = 128)))

/-- The fetch of a predicate (R48, R102, R103, R282): the slot joins the cache, unless an invalidation has overtaken its read, and
binds, or refuses the command with INVALID_DESCRIPTOR where VALID = 0; a read that fails completes it BUS_ERROR and records KIND 3. -/
def Sys2Proof.Stated.PredicateFetchEnds : Prop :=
(∀ (s : State) ctx bits q u c, s.popRead (fun r => r.what == .pred ctx) = some (q, u) → s.live = true →
    s.cmd? ctx = some c → c.units = [] → bit bits 0 = true → Completes (.predicateData ctx bits) s (fun t =>
      (ctx ∉ s.hif.predStale → t.hif.preds.head? = some (entPredId c.raw, bits) ∧ t.hif.preds.length ≤ 64) ∧
      (ctx ∈ s.hif.predStale → t.hif.preds = s.hif.preds) ∧
      (∃ d, t.cmd? ctx = some d ∧ d.pred = some bits ∧ d.predWait = false ∧ d.whole = c.whole))) ∧
  (∀ (s : State) ctx bits q u c, s.popRead (fun r => r.what == .pred ctx) = some (q, u) → s.live = true →
    s.cmd? ctx = some c → c.units = [] → c.origin = none → bit bits 0 = false → Completes (.predicateData ctx bits) s (fun t =>
      (ctx ∉ s.hif.predStale → t.hif.preds.head? = some (entPredId c.raw, bits)) ∧
      (ctx ∈ s.hif.predStale → t.hif.preds = s.hif.preds) ∧
      (∃ d, t.cmd? ctx = some d ∧ d.whole = some .invalidDescriptor ∧ d.want = 0 ∧ d.predWait = false))) ∧
  (∀ (s : State) ctx q u c, s.popRead (fun r => r.what == .pred ctx) = some (q, u) → s.live = true →
    s.cmd? ctx = some c → c.units = [] → c.origin = none → s.hif.faultValid = false →
    Completes (.predicateFetchError ctx) s (fun t =>
      t.hif.faultValid ∧ t.hif.faultKind = 3 ∧ t.hif.faultAddr = BitVec.ofNat 57 q.addr ∧
      t.irq.pend = s.irq.pend ||| (1 <<< 2) ∧
      (∃ d, t.cmd? ctx = some d ∧ d.whole = some .busError ∧ d.want = 0)))

/-- How fetched commands begin, and how predicates bind. COMPLETION, for every state and operands that meet the hypotheses on
them alone: `exec` answers a next state, with the effect stated, for read, readSherd, program, programSlc, fold, erase, raw,
nop, readScan, predicateData, predicateFetchError. -/
def Obligations.FetchedCommandsBegin : Prop :=
  Stated.FetchedCommandBegins ∧
  Stated.ScanPredicateBinds ∧
  Stated.PredicateFetchEnds

/-- RING_FENCE, CANCEL without a target, and the commands that end on another instance (R96, R107, R109, R353). -/
def Sys2Proof.Stated.FetchedCommandActs : Prop :=
(∀ s e ctx c0 q k u, s.going = true → s.ctxFree ctx = true → ctx.head? = some c0 → s.fetched = some (q, k, u) →
    s.ownMatches q k e = true → opOf (entOp e) = .ringFence → s.fetchRefusal .ringFence e = none →
    Completes (.ringFence e ctx) s (fun t => (t.sq q).fence = some c0 ∧ t.dma = s.dma ∧ t.luns = s.luns)) ∧
  (∀ s e ctx c0 q k u, s.going = true → s.ctxFree ctx = true → ctx.head? = some c0 → s.fetched = some (q, k, u) →
    s.ownMatches q k e = true → opOf (entOp e) = .cancel → s.fetchRefusal .cancel e = none →
    (∀ x ∈ s.ldg.cmds, (x.2.sq == ent e 32 1 && entCmdId x.2.raw == ent e 34 2) = false) →
    Completes (.cancel e ctx) s (fun t =>
      (∃ c, t.cmd? c0 = some c ∧ c.whole = some .cancelTooLate ∧ c.doneCount = some 0) ∧ t.entries.units = s.entries.units ∧
      t.luns = s.luns ∧ t.pool = s.pool)) ∧
  (∀ s e ctx c0 q k u, s.going = true → s.ctxFree ctx = true → ctx.head? = some c0 → s.fetched = some (q, k, u) →
    s.ownMatches q k e = true → ∀ p ∈ ([(.calibrate, .calibrate), (.patrolNow, .patrolNow)] : List (Op × (BitVec 512 → List Nat → Instr))),
    opOf (entOp e) = p.1 → s.fetchRefusal p.1 e = none → faInst (entAddr e) ≠ s.sys.instance_.toNat →
    Completes (p.2 e ctx) s (fun t =>
      (∃ c, t.cmd? c0 = some c ∧ c.want = 1 ∧ c.whole = none) ∧ t.hif.waiting = some c0 ∧ t.cal = s.cal ∧ t.luns = s.luns)) ∧
  (∀ s e ctx c0 q k u, s.going = true → s.ctxFree ctx = true → ctx.head? = some c0 → s.fetched = some (q, k, u) →
    s.ownMatches q k e = true → opOf (entOp e) = .calibrate → s.fetchRefusal .calibrate e = none →
    faInst (entAddr e) = s.sys.instance_.toNat → ent e 32 1 ≠ 0 → (s.chan (faChan (entAddr e))).fenced = false →
    bit s.cal.active (faChan (entAddr e) / 2) = false →
    Completes (.calibrate e ctx) s (fun t =>
      (∃ c, t.cmd? c0 = some c ∧ c.stage = 1) ∧ bit t.cal.pending (faChan (entAddr e) / 2) = true)) ∧
  (∀ s e ctx c0 q k u, s.going = true → s.ctxFree ctx = true → ctx.head? = some c0 → s.fetched = some (q, k, u) →
    s.ownMatches q k e = true → opOf (entOp e) = .nvsSync → s.fetchRefusal .nvsSync e = none → bit e 256 = true →
    bit e 257 = false → s.openSyncs = [] →
    Completes (.nvsSync e ctx) s (fun t => t.nvs.snapWant ∧ (∃ c, t.cmd? c0 = some c ∧ c.whole = none)))

/-- RING_FENCE, CANCEL, CALIBRATE, PATROL_NOW and NVS_SYNC at their fetch. COMPLETION, for every state and operands that meet the
hypotheses on them alone: `exec` answers a next state, with the effect stated, for ringFence, cancel, calibrate, nvsSync,
patrolNow. -/
def Obligations.FetchedCommandsAct : Prop :=
  Stated.FetchedCommandActs

/-- UNIT_ENTRY_TAKEN (R314, R315, R318, R338): the FREE entry is taken for the next unit of the waiting command, with its GEN
incremented; it is in the command's unit list, at its address, and no other entry changes its identity. A double-bit error in
the lookup stops the step: nothing is taken. -/
def Sys2Proof.Stated.UnitEntryTaken : Prop :=
(∀ (s : State) ctx ix c, s.cmd? ctx = some c → s.going = true → c.want ≠ 0 → s.isFree ix = true →
    c.ixs.contains ix = false → c.op ≠ .calibrate → Completes (.unitEntryTaken ctx ix .ok) s (fun t =>
      (∀ i, t.genOf i = if i = ix then s.genOf ix + 1 else s.genOf i) ∧
      (t.unit? ix).map LUnit.ident = some (s.genOf ix + 1, unitKind c.op, some ctx, c.units.length,
        unitAddr c.op c.raw c.units.length, unitSel c.op c.raw, s.time.ns) ∧
      (∀ i, i ≠ ix → (t.unit? i).map LUnit.ident = (s.unit? i).map LUnit.ident) ∧
      (∃ d, t.cmd? ctx = some d ∧ d.units = c.units ++ [ix] ∧ d.raw = c.raw) ∧
      (∀ i, i ≠ ctx → (t.cmd? i).map Cmd.ident = (s.cmd? i).map Cmd.ident))) ∧
  (∀ (s : State) ctx ix i c, s.cmd? ctx = some c → s.going = true → c.want ≠ 0 → s.isFree ix = true →
    c.ixs.contains ix = false → s.ldg.faultValid = false → Completes (.unitEntryTaken ctx ix (.double i)) s (fun t =>
      t.ldg.halted ∧ t.ldg.faultValid ∧ t.ldg.faultIndex = i % 131072 ∧ t.irq.pend = s.irq.pend ||| (1 <<< 1) ∧
      t.entries = s.entries ∧ { t with ldg := s.ldg, irq := s.irq } = s))

/-- ENTRY_FREE (R317, R320): once nothing of it is under way and 2 µs have passed, the entry is FREE; its GEN stays. -/
def Sys2Proof.Stated.EntryFreed : Prop :=
(∀ (s : State) ix u, s.live = true → s.freeable ix = true → s.unit? ix = some u → Completes (.entryFree ix) s (fun t =>
    t.unit? ix = none ∧ (∀ i, i ≠ ix → t.unit? i = s.unit? i) ∧ t.ldg.gens = s.ldg.gens ∧
    (∀ i c, t.cmd? i = some c → ix ∉ c.units ∨ some i ≠ u.ctx) ∧ { t with ldg := s.ldg } = s)) ∧
  (∀ (s : State) ix ctx c, s.live = true → s.freeable ix = true → s.unit? ix = none →
    s.ldg.cmds.find? (fun e => e.2.ixs.contains ix) = some (ctx, c) → Completes (.entryFree ix) s (fun t =>
      t.cmd? ctx = none ∧ (∀ i, i ≠ ctx → t.cmd? i = s.cmd? i) ∧ t.ldg.gens = s.ldg.gens ∧ t.ldg.units = s.ldg.units ∧
      t.chain? (.cmd ctx) = none ∧ { t with ldg := s.ldg, dma := s.dma } = s))

/-- Unit entries are taken and freed. COMPLETION, for every state and operands that meet the hypotheses on them alone: `exec`
answers a next state, with the effect stated, for unitEntryTaken, entryFree. -/
def Obligations.LedgerEntriesComeAndGo : Prop :=
  Stated.UnitEntryTaken ∧
  Stated.EntryFreed

/-- CQ_WRITE and its acknowledge (R45, R57, R81, R98, R100, R106): the 32 bytes at the tail's place under the CQ's ID, the
tail moved on; then the pending bit of the CQ's group and the work item as NOTIFY says, neither for QUIET. -/
def Sys2Proof.Stated.CompletionWritten : Prop :=
(∀ (s : State) ctx c, s.cmd? ctx = some c → s.live = true → s.cmdReady ctx c = true → s.cqRoom c.cq = true →
    s.flowBlocked c = false → s.hdp.blocked = false → s.hdp.heldWrites = [] → Completes (.cqWrite ctx) s (fun t =>
      (t.cq c.cq).tail = (s.cq c.cq).tail + 1 ∧ (t.cq c.cq).head = (s.cq c.cq).head ∧ (∀ i, i ≠ c.cq → t.cq i = s.cq i) ∧
      (∃ x, t.hdp.writes = s.hdp.writes ++ [x] ∧ x.what = .cqe ctx ∧ x.id = c.cq ∧
        x.addr = (s.cq c.cq).base + 32 * ((s.cq c.cq).tail.toNat % 2 ^ (s.cq c.cq).log2) ∧
        x.bytes = cqEntry s c c.flowWait (s.cq c.cq).tail.toNat (s.cq c.cq).log2 ∧
        x.coherent = (s.cq c.cq).coherent ∧ x.urg = s.urgOf ctx) ∧
      t.irq = s.irq ∧ t.entries = s.entries)) ∧
  (∀ (s : State) cq w u ctx c, s.popWrite cq = some (w, u) → w.what = .cqe ctx → s.live = true → s.cmd? ctx = some c →
    entQuiet c.raw = false → Completes (.cqWriteAck cq) s (fun t =>
      t.cmd? ctx = some { c with acked := true } ∧
      t.irq.pend = (if bit (s.cq c.cq).notify 0 ∧ c.cq < 336 then s.irq.pend ||| (1 <<< (16 + c.cq / 8)) else s.irq.pend) ∧
      t.hif.items = s.hif.items ++ (if bit (s.cq c.cq).notify 1 then [Item.mk (BitVec.ofNat 24 (entFlow c.raw))
        (workItem c c.cqBytes (c.cqPos.getD 0))] else []) ∧ t.entries = s.entries)) ∧
  (∀ (s : State) cq w u ctx c, s.popWrite cq = some (w, u) → w.what = .cqe ctx → s.live = true → s.cmd? ctx = some c →
    entQuiet c.raw = true → Completes (.cqWriteAck cq) s (fun t =>
      t.cmd? ctx = some { c with acked := true } ∧ t.irq = s.irq ∧ t.hif = s.hif)) ∧
  (∀ (s : State) cq w u ctx, s.popWrite cq = some (w, u) → w.what = .cqe ctx → s.live = true → s.hif.faultValid = false →
    Completes (.cqWriteError cq) s (fun t =>
      (t.cq cq).held ∧ (t.cq cq).tail = (s.cq cq).tail ∧ t.hif.cqRetry = s.hif.cqRetry ++ [w] ∧ t.hif.faultValid ∧
      t.hif.faultKind = 2 ∧ t.hif.faultRing = BitVec.ofNat 8 cq ∧ t.irq.pend = s.irq.pend ||| (1 <<< 2) ∧ t.ldg = s.ldg))

/-- CQ entries, their acknowledges, errors and work items. COMPLETION, for every state and operands that meet the hypotheses on
them alone: `exec` answers a next state, with the effect stated, for cqWrite, cqWriteAck, cqWriteError. -/
def Obligations.CompletionsWritten : Prop :=
  Stated.CompletionWritten

/-- Descriptors and LINK words that return (R118-R121, R123): a descriptor with OWN = 0 makes the chain wait on it; one of a
read chain joins the segments; a step of the shape walk goes on to the next descriptor; a LINK word that ends the chain
parks a chain with APPEND, or ends it short. -/
def Sys2Proof.Stated.DescriptorsReturn : Prop :=
(∀ (s : State) ctx desc q u h, s.popRead (fun r => r.what == .seg (.cmd ctx)) = some (q, u) → s.live = true →
    s.chain? (.cmd ctx) = some h → h.closing = false → h.aborted = false → s.dma.disable = false →
    bit desc 191 = false → Completes (.segmentDescriptorData (.cmd ctx) desc) s (fun t =>
      t.chain? (.cmd ctx) = some { h with reading := false, ownWait := some q.addr, next := none } ∧
      { t with hdp := s.hdp, dma := s.dma } = s)) ∧
  (∀ (s : State) ctx desc q u h c, s.popRead (fun r => r.what == .seg (.cmd ctx)) = some (q, u) → s.live = true →
    s.chain? (.cmd ctx) = some h → h.closing = false → h.aborted = false → s.dma.disable = false →
    bit desc 191 = true → s.cmd? ctx = some c → c.op ≠ .readStream → h.walk = none →
    Completes (.segmentDescriptorData (.cmd ctx) desc) s (fun t =>
      ∃ k, t.chain? (.cmd ctx) = some k ∧ k.base = h.base + min (fld desc 128 32) 1048576 ∧
        k.segs.map (fun g => (g.addr, g.buf, g.len, g.base)) =
          h.segs.map (fun g => (g.addr, g.buf, g.len, g.base)) ++
            [(q.addr, fld desc 64 57, min (fld desc 128 32) 1048576, h.base)])) ∧
  (∀ (s : State) ctx link q u h g, s.popRead (fun r => r.what == .link (.cmd ctx)) = some (q, u) → s.live = true →
    s.chain? (.cmd ctx) = some h → h.segs.getLast? = some g → h.closing = false → h.aborted = false →
    s.dma.disable = false → bit link 0 = true → bit g.flags 1 = true →
    Completes (.appendLinkData (.cmd ctx) link) s (fun t =>
      t.chain? (.cmd ctx) = some { h with reading := false, park := some g.addr } ∧ { t with hdp := s.hdp, dma := s.dma } = s))

/-- Data of a chain (R96, R119, R121, R122, R139, R142, R173): source bytes that return are counted in DMA_BYTES_RD; a page
whose own DMA and that of every earlier page has ended joins its die queue; an acknowledge takes its bytes off the codeword's
count. -/
def Sys2Proof.Stated.ChainDataMoves : Prop :=
(∀ (s : State) ctx tag data q u ix off len skip c v, s.popTag tag (isSrcOf (.cmd ctx)) = some (q, u) →
    q.what = .src (.cmd ctx) ix off len skip → s.live = true → s.dma.disable = false → s.cmd? ctx = some c →
    s.unit? ix = some v → s.noneStarved →
    Completes (.sourceDataReturn (.cmd ctx) tag data) s (fun t =>
      t.dma.bytesRd = s.dma.bytesRd + BitVec.ofNat 32 len ∧ t.entries = s.entries ∧ t.hif = s.hif)) ∧
  (∀ (s : State) ix u c, s.unit? ix = some u → s.cmdOf u = some c → s.going = true → opPrograms c.op = true → u.st = .dma →
    u.dmaDone = true → u.bundle = none → s.dma.disable = false → s.unitHeld u = false → (s.chan (faChan u.addr)).fenced = false →
    (∀ e ∈ s.unitsOf c, e.2.pos < u.pos → ended e.2 = true ∨ e.2.linkPos.isSome = true) →
    Completes (.programPageLink ix) s (fun t =>
      (∃ v, t.unit? ix = some v ∧ v.st = .queued ∧ v.linkPos = some s.ldg.nextLink) ∧ t.ldg.nextLink = s.ldg.nextLink + 1 ∧
      t.entries = s.entries ∧ t.hif = s.hif ∧ t.dma = s.dma)) ∧
  (∀ (s : State) id w v ctx ix cw u n, s.popWrite id = some (w, v) → w.what = .data ctx ix cw → s.live = true →
    s.dma.disable = false → s.unit? ix = some u → u.dmaLeft = [(cw, n)] → w.bytes.length < n → Completes (.dataWriteAck id) s (fun t =>
      t.unit? ix = some { u with dmaLeft := [(cw, n - w.bytes.length)] } ∧ t.pool = s.pool ∧ t.entries = s.entries)) ∧
  (∀ (s : State) id w v ctx a, s.popWrite id = some (w, v) → w.what = .segFlags (.cmd ctx) a → s.live = true →
    s.dma.disable = false → exec (.segmentWriteBackAck id) s = .next v) ∧
  (∀ (s : State) id w v ctx a h g, s.popWrite id = some (w, v) → w.what = .segStatus (.cmd ctx) a → s.live = true →
    s.chain? (.cmd ctx) = some h → h.segs = [g] → g.addr = a → g.back = 1 → h.halted = false → s.dma.disable = false →
    v.hdp.blocked = false → v.hdp.heldWrites = [] → Completes (.segmentWriteBackAck id) s (fun t =>
      t.chain? (.cmd ctx) = some { h with segs := [{ g with back := 2 }] } ∧
      (∃ x ∈ t.hdp.writes, x.what = .segFlags (.cmd ctx) a ∧ x.addr = (a + 20) % 2 ^ 57 ∧ x.bytes = segFlagsWord g.flags) ∧
      { t with hdp := s.hdp, dma := s.dma } = s))

/-- Errors of a chain (R130-R132, R138): the chain halts and joins the queue of halted chains, source 2 rises with the
first; RESUME goes on, ABORT ends it; DMA_CHAIN_DISABLE stops all chain traffic. -/
def Sys2Proof.Stated.ChainErrors : Prop :=
(∀ (s : State) ctx write tag f u h, s.failing (.cmd ctx) write tag = some (f, u) → s.live = true → s.dma.disable = false →
    s.chain? (.cmd ctx) = some h → h.halted = false → s.dma.haltQ = [] → Completes (.chainBusError (.cmd ctx) write tag) s (fun t =>
      t.dma.haltQ = [ctx] ∧ (∃ k, t.chain? (.cmd ctx) = some k ∧ k.halted ∧ k.failed = h.failed ++ [f] ∧ k.segs = h.segs) ∧
      t.irq.pend = s.irq.pend ||| (1 <<< 2) ∧ t.ldg = s.ldg)) ∧
  (∀ (s : State) ctx rest h, s.hcpFree → s.dma.haltQ = ctx :: rest → s.chain? (.cmd ctx) = some h →
    Completes .chainResume s (fun t =>
      t.dma.haltQ = rest ∧ (∃ k, t.chain? (.cmd ctx) = some k ∧ k.halted = false ∧ k.aborted = h.aborted) ∧
      t.hcp = s.served.hcp ∧ t.entries = s.entries ∧ t.irq = s.irq)) ∧
  (∀ (s : State) ctx rest h c, s.hcpFree → s.dma.haltQ = ctx :: rest → s.chain? (.cmd ctx) = some h →
    s.cmd? ctx = some c → Completes .chainAbort s (fun t =>
      t.dma.haltQ = rest ∧ (∃ k, t.chain? (.cmd ctx) = some k ∧ k.halted = false ∧ k.aborted) ∧
      t.hcp = s.served.hcp ∧ t.entries = s.entries ∧ t.irq = s.irq)) ∧
  (∀ s, s.hcpFree → s.dma.disable = false → Completes .chainDisable s (fun t =>
    t.dma.disable ∧ (t.hcp, t.hdp.reads, t.hdp.writes) = (s.served.hcp, s.hdp.reads, s.hdp.writes) ∧
    (∀ e ∈ t.dma.chains, ∀ d ∈ e.2.todo, d.bytes = []) ∧ (∀ w ∈ t.hdp.heldWrites, ∃ ctx, w.what = .cqe ctx) ∧
    (t.dma.haltQ, t.ldg) = (s.dma.haltQ, s.ldg)))

/-- Descriptors, data and errors of a chain. COMPLETION, for every state and operands that meet the hypotheses on them alone:
`exec` answers a next state, with the effect stated, for segmentDescriptorData, appendLinkData, sourceDataReturn,
programPageLink, dataWriteAck, segmentWriteBackAck, chainBusError, chainResume, chainAbort, chainDisable. -/
def Obligations.ChainsMove : Prop :=
  Stated.DescriptorsReturn ∧
  Stated.ChainDataMoves ∧
  Stated.ChainErrors

/-- The legacy copy (R136, R140): START opens both chains, RESUME and ABORT act while it is halted, an error halts it with
the direction and the address. -/
def Sys2Proof.Stated.LegacyCopyCompletes : Prop :=
(∀ s data, s.hcpFree → s.pwr.st = .fire → fld data 16 2 = 1 → s.dma.leg.busy = false → Completes (.legacyStart data) s (fun t =>
    t.dma.leg.busy ∧ t.dma.leg.done = false ∧ t.dma.leg.halt = false ∧ t.dma.leg.bytes = 0 ∧
    t.dma.leg.coherent = bit data 0 ∧ t.dma.leg.srcChain.next = some s.dma.leg.src.toNat ∧
    t.dma.leg.dstChain.next = some s.dma.leg.dst.toNat ∧ t.dma.chains = s.dma.chains ∧ t.irq = s.irq)) ∧
  (∀ s data, s.hcpFree → s.pwr.st = .fire → fld data 16 2 = 2 → s.dma.leg.halt = true → s.dma.leg.busy = true →
    Completes (.legacyResume data) s (fun t =>
      t.dma.leg.halt = false ∧ (t.dma.leg.busy ∨ t.dma.leg.done) ∧ t.hcp = s.served.hcp ∧ t.irq = s.irq)) ∧
  (∀ s data, s.hcpFree → s.pwr.st = .fire → fld data 16 2 = 3 → s.dma.leg.halt = true → Completes (.legacyAbort data) s (fun t =>
    t.dma.leg.busy = false ∧ t.dma.leg.done ∧ t.dma.leg.halt = false ∧ t.dma.chains = s.dma.chains ∧
    (∀ r ∈ t.hdp.reads, isRdOf .legSrc r = false ∧ isRdOf .legDst r = false) ∧ t.hdp.reads.length = s.hdp.reads.length ∧
    (∀ w ∈ t.hdp.writes, w.id = 0x3FF → w.what = .gone) ∧ t.pwr = { s.pwr with idleSince := none } ∧
    { t with hcp := s.hcp, hdp := s.hdp, dma := s.dma, pwr := s.pwr } = s)) ∧
  (∀ (s : State) tag q u, s.popTag tag (fun r => isRdOf .legSrc r || isRdOf .legDst r || r.what == .gone) = some (q, u) →
    q.what ≠ .gone → s.live = true → s.dma.leg.busy = true → s.dma.disable = false → s.dma.leg.halt = false → Completes (.legacyBusError false tag) s (fun t =>
      t.dma.leg.halt ∧ t.dma.leg.dir = false ∧ t.dma.leg.faddr = BitVec.ofNat 57 q.addr ∧ t.dma.leg.busy ∧
      t.irq.pend = s.irq.pend ||| (1 <<< 2) ∧ t.dma.chains = s.dma.chains ∧ t.ldg = s.ldg))

/-- Streams (R128, R129): a page is admitted only where its largest record fits and the stream is not paused, and takes a
FREE entry; a fresh CONS sets the marks once, pauses at or above HIGH with the group's source, and resumes at or below
LOW. -/
def Sys2Proof.Stated.StreamsComplete : Prop :=
(∀ (s : State) ctx ix c h x, s.cmd? ctx = some c → s.chain? (.cmd ctx) = some h → h.stream = some x → s.going = true →
    c.whole = none → c.stopped = false → c.predWait = false → x.known = true → x.left ≠ 0 → x.ended = false →
    h.moves = true → s.dma.disable = false → s.isFree ix = true → admits x = true →
    faInst x.addr = s.sys.instance_.toNat → s.isWaster x.addr = false → Completes (.streamPageAdmit ctx ix) s (fun t =>
      (∀ i, t.genOf i = if i = ix then s.genOf ix + 1 else s.genOf i) ∧
      (t.unit? ix).map LUnit.ident = some (s.genOf ix + 1, .readStream, some ctx, c.units.length, x.addr,
        entCwMask c.op c.raw, s.time.ns) ∧
      (∃ d, t.cmd? ctx = some d ∧ d.units = c.units ++ [ix]))) ∧
  (∀ (s : State) ctx cons high low q u c h x, s.popRead (fun r => r.what == .cons ctx) = some (q, u) → s.live = true →
    s.dma.disable = false → s.cmd? ctx = some c → s.chain? (.cmd ctx) = some h → h.stream = some x → x.known = true →
    x.confirming = true → x.again = false → x.paused = false → x.high.toNat ≤ (x.prod - cons).toNat → c.sq < 256 → s.pwr.st = .fire →
    Completes (.consReadData ctx cons high low) s (fun t =>
      t.irq.pend = s.irq.pend ||| (1 <<< (48 + c.sq / 32)) ∧ t.entries = s.entries)) ∧
  (∀ (s : State) ctx cons high low q u c h x, s.popRead (fun r => r.what == .cons ctx) = some (q, u) → s.live = true →
    s.dma.disable = false → s.cmd? ctx = some c → s.chain? (.cmd ctx) = some h → h.stream = some x →
    x.confirming = false → Completes (.consReadData ctx cons high low) s (fun t =>
      t.irq = s.irq ∧ t.entries = s.entries ∧ t.hif = s.hif))

/-- The legacy copy, and streams. COMPLETION, for every state and operands that meet the hypotheses on them alone: `exec` answers
a next state, with the effect stated, for legacyStart, legacyResume, legacyAbort, legacyBusError, streamPageAdmit,
consReadData. -/
def Obligations.LegacyCopyAndStreams : Prop :=
  Stated.LegacyCopyCompletes ∧
  Stated.StreamsComplete

/-- The host data port around a reset (R58, R473): answers to earlier transactions are discarded one by one; with none left
the accesses that stood back are issued, reads up to 1,024 outstanding. -/
def Sys2Proof.Stated.HdpRecovers : Prop :=
(∀ s, s.hdp.drain ≠ 0 →
    exec .hdpResponseDiscard s = .next { s with hdp := { s.hdp with drain := s.hdp.drain - 1 } }) ∧
  (∀ s, s.live = true → s.hdp.blocked = true → s.hdp.drain = 0 → Completes .hdpReissue s (fun t =>
    t.hdp.blocked = false ∧ t.hdp.heldWrites = [] ∧
    t.hdp.writes.map (fun w => (w.what, w.addr, w.bytes, w.id, w.coherent, w.urg)) =
      (s.hdp.writes ++ s.hdp.heldWrites.map s.wrNow).map (fun w => (w.what, w.addr, w.bytes, w.id, w.coherent, w.urg)) ∧
    t.hdp.reads.map (fun r => (r.what, r.addr, r.size, r.coherent, r.urg)) =
      (s.hdp.reads ++ ((s.hdp.heldReads.filter (fun r => !s.rdHeld r)).take (1024 - s.hdp.reads.length)).map s.rdNow).map
        (fun r => (r.what, r.addr, r.size, r.coherent, r.urg)) ∧
    t.hdp.heldReads = s.hdp.heldReads.filter s.rdHeld ++
      (s.hdp.heldReads.filter (fun r => !s.rdHeld r)).drop (1024 - s.hdp.reads.length) ∧
    { t with hdp := s.hdp } = s))

/-- The host data port around a reset. COMPLETION, for every state and operands that meet the hypotheses on them alone: `exec`
answers a next state, with the effect stated, for hdpReissue, hdpResponseDiscard. -/
def Obligations.HdpRecovers : Prop :=
  Stated.HdpRecovers

/-- ARBITER_DECISION (R144-R148, R164, R338): a double-bit finding halts the ledger with source 1; a decision in which every
request is refused leaves no grant; otherwise the winner's grant begins. -/
def Sys2Proof.Stated.ArbiterDecisionCompletes : Prop :=
(∀ s ch io ix, s.going = true → ch < 32 → (s.chan ch).next = none → s.asks ch ≠ [] → io.ecc = .double ix →
    Completes (.arbiterDecision ch io) s (fun t => s.sameBut [.ldg, .irq] t ∧ t.ldg.halted ∧ t.ldg.faultValid ∧
      t.ldg.faultIndex = (if s.ldg.faultValid then s.ldg.faultIndex else ix % 131072) ∧
      t.irq.pend = s.irq.pend ||| 2#64 ∧ t.entries = s.entries)) ∧
  (∀ s ch io u, s.going = true → ch < 32 → (s.chan ch).next = none → s.asks ch ≠ [] → eccHalts io.ecc = false →
    State.arbitrate ch (s.ldg.units.length + 1) (s.ecc io.ecc) = (u, none) →
    Completes (.arbiterDecision ch io) s (fun t => t = u ∧ (t.chan ch).grant = (s.chan ch).grant ∧ (t.chan ch).next = none ∧
      t.entries = s.entries)) ∧
  (∀ s ch io u l a ms d v, s.going = true → ch < 32 → (s.chan ch).next = none → s.asks ch ≠ [] → eccHalts io.ecc = false →
    State.arbitrate ch (s.ldg.units.length + 1) (s.ecc io.ecc) = (u, some (l, a, ms)) → dieOf u l = some d →
    u.grant ch l d a ms io = some v →
    Completes (.arbiterDecision ch io) s (fun t => t = v ∧ t.entries = s.entries ∧ t.settings = s.settings)) ∧
  (∀ s ch io, (s.going = false ∨ 32 ≤ ch ∨ (s.chan ch).next ≠ none ∨ s.asks ch = []) →
    Completes (.arbiterDecision ch io) s (fun t => t = s))

/-- Some request wins wherever one is raised (R145), and what wins is asked for by a thread of the channel that holds no grant,
on a channel that is not fenced, of a pair in service and not in training (R141, R256, R306). -/
def Sys2Proof.Stated.ArbiterWinnerMayIssue : Prop :=
(∀ (s : State) ch, s.asks ch ≠ [] → (s.winner ch).isSome) ∧
  (∀ (s : State) ch t a, ch < 32 → s.winner ch = some (t, a) → t < 16 ∧ s.going ∧ (s.chan ch).fenced = false ∧
    (s.pair (ch / 2)).inService ∧ bit s.cal.active (ch / 2) = false ∧
    (∀ g, (s.chan ch).grant = some g → g.lun ≠ 16 * ch + t) ∧ s.sched.halted.all (fun h => h.1 != 16 * ch + t))

/-- A decision of the arbiter, and who may win it. Where the command's event does not hold, nothing changes: the model's choice,
log 10. COMPLETION, for every state and operands that meet the hypotheses on them alone: `exec` answers a next state, with
the effect stated, for arbiterDecision. -/
def Obligations.ArbiterDecides : Prop :=
  Stated.ArbiterDecisionCompletes ∧
  Stated.ArbiterWinnerMayIssue

/-- ARRAY_START_PIN_END (R315, R317): every entry whose starting step is at the pins becomes ON_DIE with CONF = 1, and the grant
names none any more. The schedule goes on where it has not come to rest. -/
def Sys2Proof.Stated.ArrayStartPinEndCompletes : Prop :=
(∀ s ch status g d, s.GrantAt ch g d → g.starting ≠ [] → g.fin ≠ .running →
    Completes (.arrayStartPinEnd ch status) s (fun t =>
      (∀ ix ∈ g.starting, ∀ u, s.unit? ix = some u → ∃ v, t.unit? ix = some v ∧ v.st = .onDie ∧ v.conf) ∧
      (∃ h, (t.chan ch).grant = some h ∧ h.starting = [] ∧ h.fin = g.fin ∧ h.lun = g.lun) ∧ t.entries = s.entries ∧
      t.sched = s.sched ∧ t.pairs = s.pairs)) ∧
  (∀ s ch status, (s.chan ch).grant = none → Completes (.arrayStartPinEnd ch status) s (fun t => t = s)) ∧
  (∀ s ch status t, exec (.arrayStartPinEnd ch status) s = .next t → t.entries = s.entries ∧ t.settings = s.settings) ∧
  (∀ s ch status, (exec (.arrayStartPinEnd ch status) s = .fault .scheduleLoop) ∨
    Completes (.arrayStartPinEnd ch status) s (fun _ => True))

/-- SCHEDULE_END, whatever the grant (R302, R147, R168): the grant leaves the pins, the one decided behind it follows, the packets
on their way in still come, and the pin time is counted in CHE_BUSY. -/
def Sys2Proof.Stated.ScheduleEndFreesPins : Prop :=
∀ s ch g d r st, s.GrantAt ch g d → g.fin = .ended r st → g.starting = [] →
    (g.kind = .raw → ∀ e ∈ (s.chan ch).arriving, e.ix ∉ g.members) →
    Completes (.scheduleEnd ch) s (fun t =>
      (t.chan ch).grant = (s.chan ch).next ∧ (t.chan ch).next = none ∧ (t.chan ch).late = (s.chan ch).late ++ g.expect ∧
      (t.chan ch).busy = (s.chan ch).busy + BitVec.ofNat 32 (((s.chan ch).busyRest + g.pinTime) / 256) ∧
      (∀ c, c ≠ ch → t.chan c = s.chan c) ∧ t.entries = s.entries ∧ t.settings = s.settings)

/-- SCHEDULE_END by kind (R302): a temperature read brings its byte, SET_FEAT changes no thread, RESULT 4 of a suspend counts it and
opens its window, with no further read where none is eligible (R155, R156), RESULT 5 asks for the status, a resume starts the run time again, a BUSY read is polled again after
TR_POLL. -/
def Sys2Proof.Stated.ScheduleEndActs : Prop :=
(∀ s ch g d r st, s.GrantAt ch g d → g.fin = .ended r st → g.starting = [] → g.kind = .temperature →
    Completes (.scheduleEnd ch) s (fun t =>
      t.lun g.lun = { s.lun g.lun with tempS := some (BitVec.ofNat 8 st.toNat).toInt,
                                       sdr := (s.lun g.lun).sdr && !(s.pair (ch / 2)).inService })) ∧
  (∀ s ch g d r st, s.GrantAt ch g d → g.fin = .ended r st → g.starting = [] → g.kind = .levels →
    Completes (.scheduleEnd ch) s (fun t => s.sameBut [.che, .luns] t ∧ 
      ((t.lun g.lun).vec, (t.lun g.lun).op, (t.lun g.lun).rd) = ((s.lun g.lun).vec, (s.lun g.lun).op, (s.lun g.lun).rd))) ∧
  (∀ s ch g d st o, s.GrantAt ch g d → g.fin = .ended 4 st → g.starting = [] → g.kind = .suspend → (s.lun g.lun).op = some o →
    Completes (.scheduleEnd ch) s (fun t =>
      (∃ p, (t.lun g.lun).op = some p ∧ p.suspended ∧ p.susps = o.susps + 1 ∧
        p.suspReads = (if t.readsWait g.lun then 0 else 256) ∧ p.members = o.members) ∧
      (t.lun g.lun).ev.win = some (s.event o.members.head? (s.after (1000 * d.suspWin))) ∧ (t.lun g.lun).ev.poll = none ∧
      (t.chan ch).suspCnt = (s.chan ch).suspCnt + 1)) ∧
  (∀ s ch g d st o, s.GrantAt ch g d → g.fin = .ended 5 st → g.starting = [] → g.kind = .suspend → (s.lun g.lun).op = some o →
    Completes (.scheduleEnd ch) s (fun t => (t.lun g.lun).pollReq ∧ (t.lun g.lun).op = some { o with checking := false } ∧
      (t.chan ch).suspCnt = (s.chan ch).suspCnt)) ∧
  (∀ s ch g d r st o, s.GrantAt ch g d → g.fin = .ended r st → g.starting = [] → g.kind = .resume → (s.lun g.lun).op = some o →
    Completes (.scheduleEnd ch) s (fun t => ∃ p, (t.lun g.lun).op = some p ∧ p.suspended = false ∧ p.runFrom = s.time.ns ∧
      p.members = o.members ∧ (t.lun g.lun).ev.win = none ∧ (t.lun g.lun).resumeReq = false ∧
      ((s.lun g.lun).pollReq = false → (t.lun g.lun).ev.poll =
        some (s.event o.members.head? (s.after (if o.firstLeft = 0 then laterPoll d o.phase else o.firstLeft)))))) ∧
  (∀ s ch g d st, s.GrantAt ch g d → g.fin = .ended 3 st → g.starting = [] → g.kind = .readData → g.cacheNext = none →
    Completes (.scheduleEnd ch) s (fun t => (t.lun g.lun).ev.poll = some (s.event (some (g.members.headD 0)) (s.after (1000 * d.trPoll))) ∧
      (t.lun g.lun).rd = (s.lun g.lun).rd ∧ t.ldg = s.ldg)) ∧
  (∀ s ch g d st ix u o, s.GrantAt ch g d → g.fin = .ended 3 st → g.starting = [] → g.kind = .poll → g.members = [ix] →
    (s.lun g.lun).op = some o → o.checking = false → s.unit? ix = some u → u.replay = .none →
    Completes (.scheduleEnd ch) s (fun t => (t.lun g.lun).ev.poll = some (s.event (some ix) (s.after (laterPoll d o.phase))) ∧
      t.unit? ix = some u))

/-- GRANT_RELEASE of a RAW (R304): the schedule stays open; its request follows after the poll time, or at once. -/
def Sys2Proof.Stated.GrantReleaseCompletes : Prop :=
∀ s ch g d p, s.GrantAt ch g d → g.fin = .released p → g.starting = [] → g.kind = .raw →
    Completes (.grantRelease ch) s (fun t =>
      (t.chan ch).grant = (s.chan ch).next ∧ (t.lun g.lun).rawOpen = (s.lun g.lun).rawOpen ∧
      (t.lun g.lun).sched = (s.lun g.lun).sched ∧ (t.lun g.lun).rawReq = p.isNone ∧
      (t.lun g.lun).ev.poll = p.map (fun n => s.event (some (g.members.headD 0)) (s.after (1000 * n))) ∧ s.sameBut [.che, .luns] t)

/-- Starting steps, the end of a schedule, a release. Where the command's event does not hold, nothing changes: the model's
choice, log 10. COMPLETION, for every state and operands that meet the hypotheses on them alone: `exec` answers a next state,
with the effect stated, for arrayStartPinEnd, scheduleEnd, grantRelease. -/
def Obligations.GrantsRun : Prop :=
  Stated.ArrayStartPinEndCompletes ∧
  Stated.ScheduleEndFreesPins ∧
  Stated.ScheduleEndActs ∧
  Stated.GrantReleaseCompletes

/-- GRANT_LIMIT_EXCEEDED (R308, R312): the grant is aborted, the channel fenced, SCHED_FAULT records CAUSE 0 unless it holds a
record, and sources 0 and 3 rise. -/
def Sys2Proof.Stated.GrantLimitFences : Prop :=
∀ s ch g d n, s.GrantAt ch g d → g.fin = .overLimit n → (s.chan ch).fenced = false →
    Completes (.grantLimitExceeded ch) s (fun t =>
      (t.chan ch).grant = none ∧ (t.chan ch).next = none ∧ (t.chan ch).fenced ∧ t.sched.faultValid ∧
      (s.sched.faultValid = false → t.sched.faultCause = false ∧ t.sched.faultThread = g.lun % 16 ∧ t.sched.faultCh = ch ∧
        t.sched.faultStep = n) ∧
      (s.sched.faultValid = true → t.sched = s.sched) ∧
      bit t.irq.pend 0 ∧ bit t.irq.pend 3 ∧ t.entries = s.entries ∧ t.settings = s.settings)

/-- STEP_RELOAD_DONE (R306): the step stands in the store with new parity, the reload is counted, source 57 rises, and no thread
is halted on the step any more. -/
def Sys2Proof.Stated.StepReloadCompletes : Prop :=
(∀ s step content, s.live = true → s.spm.readable = true → s.sched.reloading.head? = some step →
    (∀ l g, s.grantOf l = some g → g.fin ≠ .waiting step) →
    Completes (.stepReloadDone step content) s (fun t =>
      SMap.get? t.sched.store step = some (content, stepParity content) ∧
      (∀ k, k ≠ step → SMap.get? t.sched.store k = SMap.get? s.sched.store k) ∧
      t.sched.reloading = s.sched.reloading.drop 1 ∧ t.sched.reloadCnt = s.sched.reloadCnt + 1 ∧
      (∀ h ∈ t.sched.halted, h.2 ≠ step) ∧ bit t.irq.pend 57)) ∧
  (∀ s step content t, exec (.stepReloadDone step content) s = .next t → t.entries = s.entries) ∧
  (∀ s step content, (exec (.stepReloadDone step content) s = .fault .scheduleLoop) ∨
    Completes (.stepReloadDone step content) s (fun _ => True))

/-- A grant past its limit fences; a reloaded step serves again. COMPLETION, for every state and operands that meet the
hypotheses on them alone: `exec` answers a next state, with the effect stated, for grantLimitExceeded, stepReloadDone. -/
def Obligations.GrantFaultsHandled : Prop :=
  Stated.GrantLimitFences ∧
  Stated.StepReloadCompletes

/-- READY_POLL_DUE and SUSPEND_WINDOW_EXPIRY (R152, R156, R157, R304, R414): the event leaves the delay list; a poll raises the status
request, or that of an open RAW; behind the window no further read is issued in the suspension. In Soak and Bank the event wakes the
instance and stays. Before the first tick at or after
the due time nothing happens. -/
def Sys2Proof.Stated.PollAndWindowFire : Prop :=
(∀ s lun, s.going = true → s.FallsDue lun (s.lun lun).ev.poll →
    Completes (.readyPollDue lun) s (fun t => s.sameBut [.luns] t ∧ (∀ l, l ≠ lun → t.lun l = s.lun l) ∧
      (t.lun lun).ev.poll = none ∧
      ((s.lun lun).rawOpen = none → (t.lun lun).pollReq ∧ (t.lun lun).rawReq = (s.lun lun).rawReq) ∧
      ((s.lun lun).rawOpen ≠ none → (t.lun lun).rawReq ∧ (t.lun lun).pollReq = (s.lun lun).pollReq) ∧
      (t.lun lun).op = (s.lun lun).op ∧ (t.lun lun).rd = (s.lun lun).rd)) ∧
  (∀ s lun o, s.going = true → s.FallsDue lun (s.lun lun).ev.win → (s.lun lun).op = some o →
    Completes (.suspendWindowExpiry lun) s (fun t => s.sameBut [.luns] t ∧ (∀ l, l ≠ lun → t.lun l = s.lun l) ∧
      (t.lun lun).ev.win = none ∧ (t.lun lun).op = some { o with suspReads := 256 })) ∧
  (∀ s lun, s.dozing = true → s.delivers lun (s.lun lun).ev.poll = true →
    Completes (.readyPollDue lun) s (fun t => t = s.wake 5)) ∧
  (∀ s lun, s.delivers lun (s.lun lun).ev.poll = false → Completes (.readyPollDue lun) s (fun t => t = s)) ∧
  (∀ s lun, s.delivers lun (s.lun lun).ev.win = false → Completes (.suspendWindowExpiry lun) s (fun t => t = s))

/-- RUN_TIME_EXPIRY (R155): a running operation that has run long enough asks for its suspend where the head of the read list is
in the read class or above, the channel and the die type allow it, and it has been suspended fewer times than allowed. -/
def Sys2Proof.Stated.RunTimeDecidesSuspend : Prop :=
(∀ s lun d o ix u, s.going = true → s.FallsDue lun (s.lun lun).ev.run → dieOf s lun = some d → (s.lun lun).op = some o →
    o.suspended = false → o.checking = false → (∀ j ∈ o.members, ∃ v, s.unit? j = some v ∧ v.st = .onDie) →
    (s.lun lun).cacheIx = none → (s.lun lun).readQ.head? = some ix → s.unit? ix = some u → s.unitHeld u = false → unitClass u ≤ 1 → u.st = .queued →
    bit (s.chan (lunChan lun)).cfg 2 = true → bit d.caps (if o.phase = 4 then 7 else 6) = true →
    o.susps < (if o.phase = 4 then d.suspMaxErs else d.suspMaxPgm) →
    s.passed o.runFrom (1000 * (if o.phase = 4 then d.runMinErs else d.runMinPgm)) = true →
    Completes (.runTimeExpiry lun) s (fun t => (t.lun lun).suspReq ∧ (t.lun lun).ev.run = none ∧ (t.lun lun).op = some o ∧
      s.sameBut [.luns] t)) ∧
  (∀ s lun, s.going = true → s.FallsDue lun (s.lun lun).ev.run → (s.lun lun).op = none →
    Completes (.runTimeExpiry lun) s (fun t => (t.lun lun).suspReq = (s.lun lun).suspReq ∧ (t.lun lun).ev.run = none ∧
      s.sameBut [.luns] t))

/-- MERGE_WINDOW_EXPIRY, REFIRE_BACKOFF_EXPIRY and URGENCY_PROMOTION (R150, R226, R104, R143, R319): the hold ends; the waiting
entries stand again on their lists; an entry that has become urgent is relinked behind the last urgent one, and an event of an
older generation is counted. -/
def Sys2Proof.Stated.ListEventsComplete : Prop :=
(∀ s lun, s.going = true → s.FallsDue lun (s.lun lun).ev.merge →
    Completes (.mergeWindowExpiry lun) s (fun t =>
      (∀ h x, ((t.lun lun).holdR = some h ∨ (t.lun lun).holdO = some h) → h.due = some x → s.reached x = false) ∧
      (t.lun lun).readQ = (s.lun lun).readQ ∧ (t.lun lun).orderQ = (s.lun lun).orderQ ∧ t.entries = s.entries ∧ t.che = s.che)) ∧
  (∀ s lun, s.going = true → s.FallsDue lun (s.lun lun).ev.backoff →
    Completes (.refireBackoffExpiry lun) s (fun t => (t.lun lun).ev.backoff = none ∧ t.entries = s.entries ∧ t.che = s.che ∧
      t.pool = s.pool)) ∧
  (∀ s lun ix u, s.going = true → s.FallsDue lun (s.lun lun).ev.backoff → s.ldg.units = [(ix, u)] → faLun u.addr = lun →
    u.bundle = none → u.st = .queued → u.step ≠ 0 → u.step < 16 → u.order = false → ix ∉ (s.lun lun).readQ →
    ix ∉ (s.lun lun).orderQ →
    Completes (.refireBackoffExpiry lun) s (fun t => ix ∈ (t.lun lun).readQ ∧
      (t.unit? ix).map LUnit.pend = some (restMask u))) ∧
  (∀ s ix u, s.going = true → s.unit? ix = some u → u.urgent = false → ended u = false → s.urgentNow u = true →
    Completes (.urgencyPromotion ix u.gen) s (fun t => (t.unit? ix).map LUnit.urgent = some true ∧ t.entries = s.entries ∧
      (u.bundle = none → ix ∈ (s.lun (faLun u.addr)).readQ → (t.lun (faLun u.addr)).readQ =
        insertAfterLast (s.unitIs (·.urgent)) ix ((s.lun (faLun u.addr)).readQ.filter (· != ix))))) ∧
  (∀ s ix u gen, s.going = true → s.unit? ix = some u → u.gen ≠ gen →
    Completes (.urgencyPromotion ix gen) s (fun t => t = s.stale)) ∧
  (∀ s ix gen, s.going = true → s.unit? ix = none → s.genOf ix ≠ gen →
    Completes (.urgencyPromotion ix gen) s (fun t => t = s.stale))

/-- Polls, suspend windows, run times, merge windows, backoffs and promotions. Where the command's event does not hold, nothing
changes: the model's choice, log 10. COMPLETION, for every state and operands that meet the hypotheses on them alone: `exec`
answers a next state, with the effect stated, for readyPollDue, suspendWindowExpiry, runTimeExpiry, mergeWindowExpiry,
refireBackoffExpiry, urgencyPromotion. -/
def Obligations.DieTimersFire : Prop :=
  Stated.PollAndWindowFire ∧
  Stated.RunTimeDecidesSuspend ∧
  Stated.ListEventsComplete

/-- PACKET_COMPLETE, whatever the packet (R178, R179): it is off the list of arriving packets, and where the ingress
queue was empty with its credits at home both pointers have moved on by its lines; the egress queue, POOL_UNDERRUN and the settings
stand as they were. -/
def Sys2Proof.Stated.PacketLeavesQueue : Prop :=
∀ s ch bytes short e, s.PacketAt ch e →
    Completes (.packetComplete ch bytes short none) s (fun t =>
      (∀ c, (t.chan c).arriving.map Expect.what = ((s.chan c).arriving.drop (if c = ch then 1 else 0)).map Expect.what) ∧
      ((s.ingressOf ch).credits = 64 → (s.ingressOf ch).rptr = (s.ingressOf ch).wptr → e.region < 5 →
        (t.ingressOf ch).rptr = (s.ingressOf ch).rptr + BitVec.ofNat 7 ((min bytes.length e.len + 151) / 128) ∧
        (t.ingressOf ch).wptr = (s.ingressOf ch).wptr + BitVec.ofNat 7 ((min bytes.length e.len + 151) / 128)) ∧
      t.pool.egress = s.pool.egress ∧ t.pool.underrun = s.pool.underrun ∧ t.entries = s.entries ∧ t.settings = s.settings)

/-- PACKET_COMPLETE by what arrives (R171, R179, R184, R319, R322): an older generation is counted and dropped, and what a read brings
that has been queued again is dropped; a SHORT packet makes its entry repeat; a codeword's bytes stand derandomised in its peck. -/
def Sys2Proof.Stated.PacketCompleteActs : Prop :=
(∀ s ch bytes short e u, s.PacketAt ch e → s.unit? e.ix = some u → u.gen ≠ e.gen →
    Completes (.packetComplete ch bytes short none) s (fun t =>
      t.ldg = { s.ldg with staleCnt := s.ldg.staleCnt + 1 } ∧ t.pool.pecks = s.pool.pecks ∧ t.dec = s.dec)) ∧
  (∀ s ch bytes short e u, s.PacketAt ch e → s.unit? e.ix = some u → u.gen = e.gen → (ended u = true ∨ e.gone = true) →
    Completes (.packetComplete ch bytes short none) s (fun t =>
      t.ldg = s.ldg ∧ t.pool.pecks = s.pool.pecks ∧ t.dec = s.dec)) ∧
  (∀ s ch bytes e u, s.PacketAt ch e → s.unit? e.ix = some u → u.gen = e.gen →
    ended u = false → e.gone = false → replayable u = true → Completes (.packetComplete ch bytes true none) s (fun t =>
      (t.unit? e.ix).map LUnit.replayed = some true ∧ t.ldg.replayCnt = s.ldg.replayCnt + 1)) ∧
  (∀ s ch bytes e u p, s.PacketAt ch e → s.unit? e.ix = some u → u.gen = e.gen →
    ended u = false → e.gone = false → u.kind ≠ .fold → e.region < 4 → bytes.length = e.len → s.landing e.ix u e.region = some p →
    u.step < 16 → u.pend &&& ~~~(u.raws.foldl (fun m q => m ||| (1#4 <<< q.1)) (1#4 <<< e.region)) ≠ 0 →
    fld s.dec.cfg 16 12 < Codec.zeroBits bytes → s.dec.softCount ≠ 0 →
    Completes (.packetComplete ch bytes false none) s (fun t =>
      (t.peck p).payload = Codec.randomise
        (Codec.seed (faPage u.addr) (faBlock u.addr) (faPlane u.addr) e.region) bytes ∧
      (t.peck p).length = bytes.length ∧ (t.peck p).flags = packetFlags false false ∧ (t.peck p).step = u.step ∧
      (∃ i, t.dec.hardQ = s.dec.hardQ ++ [i] ∧ i.ix = e.ix ∧ i.cw = e.region ∧ i.soft = false) ∧
      (t.unit? e.ix).map LUnit.st = some u.st)) ∧
  (∀ s ch bytes e u, s.PacketAt ch e → s.unit? e.ix = some u → u.gen = e.gen →
    ended u = false → e.gone = false → e.region < 4 → bytes.length = e.len → u.step < 16 →
    u.pend &&& ~~~(u.raws.foldl (fun m q => m ||| (1#4 <<< q.1)) (1#4 <<< e.region)) ≠ 0 →
    Codec.zeroBits bytes ≤ fld s.dec.cfg 16 12 →
    Completes (.packetComplete ch bytes false none) s (fun t =>
      t.dec.erasedCnt = s.dec.erasedCnt + 1 ∧ t.dec.hardQ = s.dec.hardQ ∧
      (t.unit? e.ix).map LUnit.erased = some (u.erased ||| (1#4 <<< e.region))))

/-- PACKET_COMPLETE with a queue pointer mismatch (R185, R188): the queue is reset, source 0 rises, the mismatch is counted, and the
first of several stands in POOL_QERR. -/
def Sys2Proof.Stated.PacketMismatchRecorded : Prop :=
∀ s ch bytes short m e, s.PacketAt ch e →
    Completes (.packetComplete ch bytes short (some m)) s (fun t =>
      t.pool.qerrCount = satInc 0xFF s.pool.qerrCount ∧ t.pool.qerrValid ∧ bit t.irq.pend 0 ∧
      (s.pool.qerrValid = false → t.pool.qerrDir = m.egress ∧ t.pool.qerrPtr = m.wptr ∧ t.pool.qerrCh = ch) ∧
      (s.pool.qerrValid = true → t.pool.qerrDir = s.pool.qerrDir ∧ t.pool.qerrPtr = s.pool.qerrPtr ∧
        t.pool.qerrCh = s.pool.qerrCh) ∧
      (((SMap.getD s.pool.mism ch []).filter (fun x => !s.passed x 1000000000)).length < 3 →
        (t.chan ch).fenced = (s.chan ch).fenced ∧ (m.egress = false → (t.ingressOf ch) = (s.ingressOf ch).reset ∧ (t.chan ch).arriving = [])) ∧
      (3 ≤ ((SMap.getD s.pool.mism ch []).filter (fun x => !s.passed x 1000000000)).length → (t.chan ch).fenced))

/-- FLUSH_TAKES_EFFECT (R184, R189): the pointers are equal and the flush is no longer asked for; the other queue stands as it was;
POOL_FLUSH stays BUSY only while a flush of its channel is asked for. -/
def Sys2Proof.Stated.FlushEmptiesQueue : Prop :=
(∀ s ch, s.inReset = false → s.pwr.st = .fire → (s.ingressOf ch).flush = true → (s.ingressOf ch).closeShort = false →
    Completes (.flushTakesEffect ch false) s (fun t =>
      (t.ingressOf ch).rptr = (s.ingressOf ch).wptr ∧ (t.ingressOf ch).wptr = (s.ingressOf ch).wptr ∧
      (t.ingressOf ch).flush = false ∧ t.pool.egress = s.pool.egress ∧ (t.chan ch).arriving = [] ∧
      t.pool.flushAsk = (if s.pool.flushCh.toNat = ch then s.pool.flushAsk.filter (· != false) else s.pool.flushAsk) ∧
      t.entries = s.entries)) ∧
  (∀ s ch, s.inReset = false → s.pwr.st = .fire → (s.egressOf ch).flush = true → (s.egressOf ch).closeShort = false →
    Completes (.flushTakesEffect ch true) s (fun t =>
      (t.egressOf ch).rptr = (s.egressOf ch).wptr ∧ (t.egressOf ch).wptr = (s.egressOf ch).wptr ∧
      (t.egressOf ch).flush = false ∧ t.pool.ingress = s.pool.ingress ∧ s.sameBut [.pool] t ∧
      t.pool.flushAsk = (if s.pool.flushCh.toNat = ch then s.pool.flushAsk.filter (· != true) else s.pool.flushAsk))) ∧
  (∀ s ch e, ((if e then s.egressOf ch else s.ingressOf ch).flush = false ∨
      (if e then s.egressOf ch else s.ingressOf ch).closeShort = true) →
    Completes (.flushTakesEffect ch e) s (fun t => t = s))

/-- The writes of POOL_FLUSH that flush (R189): on a fenced channel BUSY rises and the flush is asked for; of a channel that is not
fenced only CHANNEL is stored; while BUSY = 1 the write is ignored. -/
def Sys2Proof.Stated.PoolFlushWrites : Prop :=
(∀ s data, s.hcpFree → bit data 8 = true → s.pool.flushAsk = [] → (s.chan (fld data 0 5)).fenced = true →
    Completes (.poolFlushIngress data) s (fun t => t.pool.flushAsk = [false] ++ (if bit data 9 then [true] else []) ∧
      t.pool.flushCh = BitVec.ofNat 5 (fld data 0 5) ∧ (t.ingressOf (fld data 0 5)).flush ∧ (t.egressOf (fld data 0 5)).flush = ((s.egressOf (fld data 0 5)).flush || bit data 9))) ∧
  (∀ s data, s.hcpFree → bit data 9 = true → s.pool.flushAsk = [] → (s.chan (fld data 0 5)).fenced = true →
    Completes (.poolFlushEgress data) s (fun t => t.pool.flushAsk = (if bit data 8 then [false] else []) ++ [true] ∧
      t.pool.flushCh = BitVec.ofNat 5 (fld data 0 5) ∧ (t.egressOf (fld data 0 5)).flush ∧ (t.ingressOf (fld data 0 5)).flush = ((s.ingressOf (fld data 0 5)).flush || bit data 8))) ∧
  (∀ s data, s.hcpFree → bit data 8 = true → s.pool.flushAsk = [] → (s.chan (fld data 0 5)).fenced = false →
    Completes (.poolFlushIngress data) s (fun t =>
      t = s.served.onPool (fun p => { p with flushCh := BitVec.ofNat 5 (fld data 0 5) }))) ∧
  (∀ s data, s.hcpFree → bit data 9 = true → s.pool.flushAsk = [] → (s.chan (fld data 0 5)).fenced = false →
    Completes (.poolFlushEgress data) s (fun t =>
      t = s.served.onPool (fun p => { p with flushCh := BitVec.ofNat 5 (fld data 0 5) }))) ∧
  (∀ s data, s.hcpFree → s.pool.flushAsk ≠ [] →
    Completes (.poolFlushIngress data) s (fun t => t.pool = s.pool) ∧ Completes (.poolFlushEgress data) s (fun t => t.pool = s.pool))

/-- Packets: their queues, what they bring, mismatches and flushes. Where the command's event does not hold, nothing changes: the
model's choice, log 10. COMPLETION, for every state and operands that meet the hypotheses on them alone: `exec` answers a
next state, with the effect stated, for packetComplete, flushTakesEffect, poolFlushIngress, poolFlushEgress. -/
def Obligations.PacketsArrive : Prop :=
  Stated.PacketLeavesQueue ∧
  Stated.PacketCompleteActs ∧
  Stated.PacketMismatchRecorded ∧
  Stated.FlushEmptiesQueue ∧
  Stated.PoolFlushWrites

/-- PECK_ALLOCATION_GRANT (R173-R175, R228): the head request of the channel served next takes its pecks, which stand with its
entry in their headers; a codeword of a soft read takes two sense pecks in its turn. -/
def Sys2Proof.Stated.PeckGrantCompletes : Prop :=
(∀ s c r rest pecks u, s.live = true → s.servedNext = some c → s.pool.queueOf c = r :: rest → s.freePecks pecks = true →
    pecks.length = r.count → r.ix < 131072 → s.unit? r.ix = some u → u.kind.reads = true → u.bundle = none →
    u.pecks = [] → (∀ k, s.cmdOf u = some k → opPrograms k.op = false ∧ k.op ≠ .raw) → (peckCws u pecks.length).length = pecks.length →
    Completes (.peckAllocationGrant (some c) pecks) s (fun t =>
      (t.unit? r.ix).map LUnit.pecks = some pecks ∧ t.pool.lastCh = c ∧ (t.pool.queueOf c).map AllocReq.ix = rest.map AllocReq.ix ∧
      (∀ p ∈ pecks, (t.peck p).alloc ∧ (t.peck p).entry = r.ix ∧ (t.peck p).gen = u.gen ∧ (t.peck p).sense = false) ∧
      (∀ p, p ∉ pecks → t.peck p = s.peck p) ∧ s.sameBut [.ldg, .pool] t)) ∧
  (∀ s ix k rest p q u, s.live = true → s.pool.softQ = (ix, k) :: rest → 2 ≤ s.pool.softFree → s.freePecks [p, q] = true →
    s.unit? ix = some u →
    Completes (.peckAllocationGrant none [p, q]) s (fun t => t.pool.softQ = rest ∧
      (∀ x ∈ [p, q], (t.peck x).alloc ∧ (t.peck x).sense ∧ (t.peck x).entry = ix ∧ (t.peck x).cw = k) ∧
      (∀ x, x ∉ [p, q] → t.peck x = s.peck x) ∧ t.entries = s.entries))

/-- FOLD_ADMISSION (R154, R164, R173): the FOLD at the head of the order list takes its sixteen pecks at once; otherwise its request
joins the channel's queue; a FOLD that the checks at grant refuse ends. -/
def Sys2Proof.Stated.FoldAdmissionCompletes : Prop :=
(∀ s lun ix u pecks, s.going = true → (s.lun lun).orderQ.head? = some ix → s.unit? ix = some u → u.kind = .fold →
    u.pecks = [] → s.orderReady u = true → s.foldOpen lun = false → s.foldRoom u.chan = true → s.refuses u = none →
    s.pool.queueOf u.chan = [] → u.pecksAsked = false → (s.askPecks u.chan ix 16).servedNext = some u.chan → s.freePecks pecks = true → pecks.length = 16 →
    Completes (.foldAdmission lun pecks) s (fun t => (t.unit? ix).map LUnit.pecks = some pecks ∧
      (∀ p ∈ pecks, (t.peck p).alloc ∧ (t.peck p).entry = ix) ∧ t.pool.queueOf u.chan = [] ∧ s.sameBut [.ldg, .pool] t)) ∧
  (∀ s lun ix u pecks, s.going = true → (s.lun lun).orderQ.head? = some ix → s.unit? ix = some u → u.kind = .fold →
    u.pecks = [] → s.orderReady u = true → s.foldOpen lun = false → s.foldRoom u.chan = true → s.refuses u = none →
    s.pool.queueOf u.chan = [] → s.pool.grants u.chan 16 = false → u.pecksAsked = false →
    Completes (.foldAdmission lun pecks) s (fun t => (t.pool.queueOf u.chan).map AllocReq.ix = [ix] ∧
      t.pool.pecks = s.pool.pecks ∧ t.pool.waitCnt = s.pool.waitCnt + 1)) ∧
  (∀ s lun ix u pecks st, s.going = true → (s.lun lun).orderQ.head? = some ix → s.unit? ix = some u → u.kind = .fold →
    u.pecks = [] → s.orderReady u = true → s.foldOpen lun = false → s.foldRoom u.chan = true → s.refuses u = some st →
    (∀ ctx h, u.ctx = some ctx → s.chain? (.cmd ctx) = some h → h.aborted = false) →
    Completes (.foldAdmission lun pecks) s (fun t => (t.unit? ix).map (fun v => (v.st, v.status)) = some (.done, st)))

/-- Pecks are granted in turn, and to a FOLD at once. COMPLETION, for every state and operands that meet the hypotheses on them
alone: `exec` answers a next state, with the effect stated, for peckAllocationGrant, foldAdmission. -/
def Obligations.PecksGranted : Prop :=
  Stated.PeckGrantCompletes ∧
  Stated.FoldAdmissionCompletes

/-- DECODE_START and SPARE_LANE_IN_SERVICE (R208-R210): the item leaves its queue for the lane with the limits in force; the spare
joins the lanes in service. -/
def Sys2Proof.Stated.DecodeStartCompletes : Prop :=
(∀ s kind i lane, s.live = true → s.dec.nextStart kind = some (i, lane) →
    Completes (.decodeStart kind) s (fun t => SMap.get? t.dec.busy lane = some (i, s.dec.cfg, s.dec.llr) ∧
      (∀ k, k ≠ lane → SMap.get? t.dec.busy k = SMap.get? s.dec.busy k) ∧
      i ∉ t.dec.hardQ ∧ i ∉ t.dec.softQ ∧ i ∉ t.dec.bchQ ∧ s.sameBut [.dec] t)) ∧
  (∀ s kind, s.dec.nextStart kind = none → Completes (.decodeStart kind) s (fun t => t = s)) ∧
  (∀ s lane rest, s.live = true → s.dec.spareDue = lane :: rest → 24 ≤ lane → lane < 26 →
    Completes (.spareLaneInService lane) s (fun t => t.dec.spareDue = rest ∧
      t.dec.spareIn = s.dec.spareIn ||| (1#2 <<< (lane - 24)) ∧ s.sameBut [.dec] t))

/-- Which decoder takes which item (R47, R209, R210): only a lane in service that is free; the head of its own queue, or with no
hard lane in service the older of the two heads. -/
def Sys2Proof.Stated.DecoderTakesHeadOfQueue : Prop :=
(∀ (d : Dec) i lane, d.nextStart .hard = some (i, lane) → d.hardQ.head? = some i ∧ lane < 26 ∧ bit d.hardOut lane = false ∧
    SMap.get? d.busy lane = none ∧ (24 ≤ lane → bit d.spareIn (lane - 24) = true)) ∧
  (∀ (d : Dec) i lane, d.nextStart .soft = some (i, lane) → 32 ≤ lane ∧ lane < 36 ∧ bit d.softOut (lane - 32) = false ∧
    SMap.get? d.busy lane = none ∧ (d.hardLanes ≠ [] → d.softQ.head? = some i) ∧
    (d.hardLanes = [] → (d.softQ.head? = some i ∨ d.hardQ.head? = some i) ∧
      ∀ j, (d.softQ.head? = some j ∨ d.hardQ.head? = some j) → i.seq ≤ j.seq)) ∧
  (∀ (d : Dec) i lane, d.nextStart .bch = some (i, lane) → d.bchQ.head? = some i ∧ 64 ≤ lane ∧ lane < 66 ∧
    bit d.bchOut (lane - 64) = false ∧ SMap.get? d.busy lane = none)

/-- Which decoder takes which item. Where the command's event does not hold, nothing changes: the model's choice, log 10.
COMPLETION, for every state and operands that meet the hypotheses on them alone: `exec` answers a next state, with the effect
stated, for decodeStart, spareLaneInService. -/
def Obligations.DecodesStart : Prop :=
  Stated.DecodeStartCompletes ∧
  Stated.DecoderTakesHeadOfQueue

/-- A decode that ends (R206-R208, R213, R218, R319): the lane is free, and its counters move; a result of an older generation is
counted as stale and changes no entry. -/
def Sys2Proof.Stated.DecodeEndCounts : Prop :=
(∀ s lane i cfg llr u, s.live = true → SMap.get? s.dec.busy lane = some (i, cfg, llr) → i.soft = false → i.cw < 4 →
    s.unit? i.ix = some u → u.gen = i.gen → ended u = false → lane < 26 →
    Completes (.hardDecodeEnd .hard lane none) s (fun t =>
      let r := Codec.decode 31 63 (fld llr 24 3) (hardLimit cfg) (Codec.hardValues (fld llr 0 6) (pad 4584 (s.cwBytes i.ix i.cw)))
      t.dec.cwCnt = s.dec.cwCnt + 1 ∧ t.dec.iterAcc = s.dec.iterAcc + BitVec.ofNat 32 r.1 ∧
      t.dec.failCnt = (if r.2.isNone then s.dec.failCnt + 1 else s.dec.failCnt) ∧
      t.dec.busy = SMap.erase s.dec.busy lane ∧ t.entries = s.entries)) ∧
  (∀ s lane i cfg llr u, s.live = true → SMap.get? s.dec.busy lane = some (i, cfg, llr) → i.soft = false → i.cw < 4 →
    s.unit? i.ix = some u → u.gen ≠ i.gen →
    Completes (.hardDecodeEnd .hard lane none) s (fun t => t.ldg = { s.ldg with staleCnt := s.ldg.staleCnt + 1 } ∧
      t.dec = { s.dec with busy := SMap.erase s.dec.busy lane } ∧ s.sameBut [.ldg, .dec] t)) ∧
  (∀ s lane i cfg llr u, s.live = true → SMap.get? s.dec.busy (32 + lane) = some (i, cfg, llr) → i.soft = true →
    s.unit? i.ix = some u → u.gen = i.gen → ended u = false →
    Completes (.softDecodeEnd lane none) s (fun t =>
      t.dec.softCnt = s.dec.softCnt + 1 ∧ t.dec.cwCnt = s.dec.cwCnt ∧ t.dec.busy = SMap.erase s.dec.busy (32 + lane) ∧
      (t.unit? i.ix).map LUnit.soft = some true ∧ t.entries = s.entries)) ∧
  (∀ s lane i cfg llr u, s.live = true → SMap.get? s.dec.busy (64 + lane) = some (i, cfg, llr) → i.cw = 4 →
    s.unit? i.ix = some u → u.gen = i.gen → ended u = false → u.kind ≠ .fold →
    Completes (.sherdDecodeEnd lane none) s (fun t =>
      (∃ st, (t.unit? i.ix).map LUnit.sherd = some (some st) ∧
        t.dec.sherdCnt = (if st = .ok then s.dec.sherdCnt + 1 else s.dec.sherdCnt) ∧
        t.dec.sherdFail = (if st = .uncorrectable then s.dec.sherdFail + 1 else s.dec.sherdFail)) ∧
      t.dec.busy = SMap.erase s.dec.busy (64 + lane) ∧ t.entries = s.entries))

/-- A decoder fault (R210, R217): the decoder is out of service, the item stands again at the head of its queue, the fault is counted
and raises source 0, and the first of several stands in DEC_FAULT. -/
def Sys2Proof.Stated.DecoderFaultRetires : Prop :=
(∀ s lane i cfg llr cause, s.live = true → SMap.get? s.dec.busy lane = some (i, cfg, llr) → i.soft = false → i.cw < 4 →
    lane < 26 → s.dec.softCount ≠ 0 → s.dec.bchOut ≠ 3 →
    Completes (.hardDecodeEnd .hard lane (some cause)) s (fun t =>
      t.dec.hardOut = s.dec.hardOut ||| (1#26 <<< lane) ∧ t.dec.hardQ = i :: s.dec.hardQ ∧
      t.dec.busy = SMap.erase s.dec.busy lane ∧ t.dec.faultCount = satInc 0xFF s.dec.faultCount ∧ t.dec.faultValid ∧
      (s.dec.faultValid = false → t.dec.faultLane = lane ∧ t.dec.faultKind = 0 ∧ t.dec.faultCause = (cause == .parity)) ∧
      bit t.irq.pend 0 ∧ t.ldg = s.ldg)) ∧
  (∀ s lane i cfg llr cause, s.live = true → SMap.get? s.dec.busy (32 + lane) = some (i, cfg, llr) → i.soft = true → i.cw < 4 →
    lane < 4 →
    Completes (.softDecodeEnd lane (some cause)) s (fun t => t.dec.softOut = s.dec.softOut ||| (1#4 <<< lane) ∧
      t.dec.faultValid ∧ bit t.irq.pend 0 ∧ t.entries = s.entries)) ∧
  (∀ s lane i cfg llr cause, s.live = true → SMap.get? s.dec.busy (64 + lane) = some (i, cfg, llr) → i.cw = 4 → lane < 2 →
    Completes (.sherdDecodeEnd lane (some cause)) s (fun t => t.dec.bchOut = s.dec.bchOut ||| (1#2 <<< lane) ∧
      t.dec.faultValid ∧ bit t.irq.pend 0 ∧ t.entries = s.entries))

/-- Decodes that end, and decoders that fail. COMPLETION, for every state and operands that meet the hypotheses on them alone:
`exec` answers a next state, with the effect stated, for hardDecodeEnd, softDecodeEnd, sherdDecodeEnd. -/
def Obligations.DecodesEnd : Prop :=
  Stated.DecodeEndCounts ∧
  Stated.DecoderFaultRetires

/-- PREDICATE_DECISION (R281, R284, R293): the probe is counted, with the skips, the forced passes and the address mismatches; the
page carries its decision, and a page skipped ends SKIPPED. An event of an older generation is counted. -/
def Sys2Proof.Stated.PredicateDecisionCounts : Prop :=
(∀ s ix u c st, s.going = true → s.unit? ix = some u → s.cmdOf u = some c → u.sherd = some st → s.probes u = true →
    u.st = .decoding → s.dec.sherdBusy ix = false → s.unitHeld u = false →
    Completes (.predicateDecision ix u.gen) s (fun t =>
      let code := decisionCode st (leBytes 128 ((c.pred.map BitVec.toNat).getD 0))
        (match u.pecks.head? with
         | some p => (s.peck p).payload
         | none => []) u.addr
      t.hif.probes = s.hif.probes + 1 ∧ t.hif.skips = (if code = 1 then s.hif.skips + 1 else s.hif.skips) ∧
      t.hif.forced = (if 2 ≤ code then s.hif.forced + 1 else s.hif.forced) ∧
      t.hif.checks = (if code = 4 then s.hif.checks + 1 else s.hif.checks) ∧
      (t.unit? ix).map (fun v => (v.decided, v.dec)) = some (true, code) ∧ t.entries = s.entries)) ∧
  (∀ s ix u gen, s.live = true → s.unit? ix = some u → u.gen ≠ gen →
    Completes (.predicateDecision ix gen) s (fun t => t = s.stale))

/-- What a predicate decides (R282-R285): a sherd that could not be read forces the page to pass with the code that says why; a page
that passes the checks is skipped exactly where the comparison of R283 is false. -/
def Sys2Proof.Stated.DecisionCodes : Prop :=
∀ st pred sherd a,
    (st = .uncorrectable → decisionCode st pred sherd a = 2) ∧ (st = .erasedPage → decisionCode st pred sherd a = 3) ∧
    (st = .ok → num sherd 8 4 ≠ (Codec.addrCheck a 0).toNat → decisionCode st pred sherd a = 4) ∧
    (st = .ok → num sherd 8 4 = (Codec.addrCheck a 0).toNat → num sherd 0 1 ≠ 1 → decisionCode st pred sherd a = 5) ∧
    (decisionCode st pred sherd a = 1 → st ≠ .uncorrectable ∧ st ≠ .erasedPage ∧ num sherd 8 4 = (Codec.addrCheck a 0).toNat ∧
      predFalse pred sherd = true) ∧
    decisionCode st pred sherd a ≤ 6

/-- The decision of a predicate, and its counters. COMPLETION, for every state and operands that meet the hypotheses on them
alone: `exec` answers a next state, with the effect stated, for predicateDecision. -/
def Obligations.PredicatesDecide : Prop :=
  Stated.PredicateDecisionCounts ∧
  Stated.DecisionCodes

/-- SAMPLE_APPLY (R230-R233, R249): the learner takes the oldest sample; one out of range is counted and changes nothing; one in range
is counted and moves D of its LUN and group by the step of R232 while tracking is on. -/
def Sys2Proof.Stated.SampleApplyCompletes : Prop :=
(∀ s p rest, s.live = true → s.cal.samples = p :: rest → p.inRange = false → p.internal = none →
    Completes .sampleApply s (fun t =>
      t = s.onCal (fun c => { c with samples := rest, rejectCnt := c.rejectCnt + 1 }))) ∧
  (∀ s p rest, s.live = true → s.cal.samples = p :: rest → p.inRange = true → p.internal = none →
    (p.patrol = true ∨ (SMap.get? s.cal.relearns p.lun = none ∧ s.groupRelearns p.lun = false)) →
    Completes .sampleApply s (fun t => t.cal.samples = rest ∧ t.cal.sampleCnt = s.cal.sampleCnt + 1 ∧
      SMap.getD t.cal.d (64 * p.lun + p.group) 0 =
        (if bit s.cal.cfg 30 then clampInt (-128) 127 (SMap.getD s.cal.d (64 * p.lun + p.group) 0 +
            learnDelta p.pol (sampleError p) (fld s.cal.cfg 8 8))
         else SMap.getD s.cal.d (64 * p.lun + p.group) 0) ∧
      (∀ k, k ≠ 64 * p.lun + p.group → SMap.getD t.cal.d k 0 = SMap.getD s.cal.d k 0) ∧ t.cal.t = s.cal.t ∧
      s.sameBut [.cal] t)) ∧
  (∀ s p rest r, s.live = true → s.cal.samples = p :: rest → p.inRange = true → p.internal = none → p.patrol = false →
    SMap.get? s.cal.relearns p.lun = some r → r.count + 1 < 64 → fld s.cal.cfg 24 4 < (sampleError p).natAbs →
    Completes .sampleApply s (fun t => t.cal.samples = rest ∧ t.cal.sampleCnt = s.cal.sampleCnt + 1 ∧ t.cal.d = s.cal.d ∧
      SMap.getD t.cal.t p.lun 0 = clampInt (-128) 127 (SMap.getD s.cal.t p.lun 0 +
        learnDelta p.pol (sampleError p) (fld s.cal.cfg 16 8)) ∧
      SMap.get? t.cal.relearns p.lun = some { r with count := r.count + 1, run := 0 })) ∧
  (∀ s p rest r, s.live = true → s.cal.samples = p :: rest → p.inRange = true → p.internal = none → p.patrol = false →
    SMap.get? s.cal.relearns p.lun = some r → r.run = 7 → (sampleError p).natAbs ≤ fld s.cal.cfg 24 4 →
    Completes .sampleApply s (fun t => t.cal.t = s.cal.t ∧ SMap.get? t.cal.relearns p.lun = none ∧
      SMap.get? t.cal.tCal p.lun = some (clampInt (-128) 127 (SMap.getD s.cal.tNow p.lun 0)))) ∧
  (∀ s, s.cal.samples = [] → Completes .sampleApply s (fun t => t = s))

/-- TEMPERATURE_READ_DUE, TEMPERATURE_READING and RELEARN_TIMEOUT (R157, R234-R236, R246, R412, R414): the next reading is placed and
the thread asks for GET_FEAT, or takes the last valid THM_DIE_T; in Soak and Bank the event wakes the instance and stays; a reading becomes T_NOW and, where it is further from T_CAL than CONE_DELTA, begins
a relearn with source 8; a relearn that times out restores T with source 9. -/
def Sys2Proof.Stated.TemperatureRowsComplete : Prop :=
(∀ s lun due d, s.going = true → (s.lun lun).ev.temp = some due → s.delivers lun (some due) = true → dieOf s lun = some d →
    d.tempFa ≠ 0 → fld s.cal.temp 0 16 ≠ 0 → Completes (.temperatureReadDue lun) s (fun t => (t.lun lun).tempReq ∧
      (t.lun lun).ev.temp = some { due := s.nextDue due (1000000 * fld s.cal.temp 0 16), ent := none } ∧
      s.sameBut [.luns] t)) ∧
  (∀ s lun due, s.dozing = true → (s.lun lun).ev.temp = some due → s.delivers lun (some due) = true →
    Completes (.temperatureReadDue lun) s (fun t => t = s.wake 5)) ∧
  (∀ s lun due, s.going = true → (s.lun lun).ev.temp = some due → s.delivers lun (some due) = true → fld s.cal.temp 0 16 = 0 →
    Completes (.temperatureReadDue lun) s (fun t => (t.lun lun).ev.temp = none ∧ (t.lun lun).tempReq = (s.lun lun).tempReq ∧
      (t.lun lun).tempS = (s.lun lun).tempS ∧ s.sameBut [.luns] t)) ∧
  (∀ s lun due d code, s.going = true → (s.lun lun).ev.temp = some due → s.delivers lun (some due) = true → dieOf s lun = some d →
    d.tempFa = 0 → fld s.cal.temp 0 16 ≠ 0 → s.cal.thmLast = some code → Completes (.temperatureReadDue lun) s (fun t =>
      (t.lun lun).tempS = some (dieDegrees code) ∧ (t.lun lun).tempReq = (s.lun lun).tempReq ∧
      s.sameBut [.luns] t)) ∧
  (∀ s lun (x : Int), s.going = true → (s.lun lun).tempS = some x → bit s.cal.cfg 31 = true →
    SMap.get? s.cal.relearns lun = none → (∀ c, SMap.get? s.cal.tCal lun = some c → max 1 (fld s.cal.cfg 0 8) < (x - c).natAbs) →
    Completes (.temperatureReading lun x) s (fun t => SMap.get? t.cal.tNow lun = some x ∧ (t.lun lun).tempS = none ∧
      SMap.get? t.cal.relearns lun = some { saved := SMap.getD s.cal.t lun 0, count := 0, run := 0, start := s.time.ns } ∧
      bit t.irq.pend 8)) ∧
  (∀ s lun (x : Int) c, s.going = true → (s.lun lun).tempS = some x → SMap.get? s.cal.tCal lun = some c →
    (x - c).natAbs ≤ max 1 (fld s.cal.cfg 0 8) →
    Completes (.temperatureReading lun x) s (fun t => SMap.get? t.cal.tNow lun = some x ∧ (t.lun lun).tempS = none ∧
      t.cal.relearns = s.cal.relearns ∧ t.cal.t = s.cal.t)) ∧
  (∀ s lun r, s.live = true → SMap.get? s.cal.relearns lun = some r → s.passed r.start 5000000 = true →
    Completes (.relearnTimeout lun) s (fun t => SMap.getD t.cal.t lun 0 = r.saved ∧ SMap.get? t.cal.relearns lun = none ∧
      SMap.get? t.cal.tCal lun = some (clampInt (-128) 127 (SMap.getD s.cal.tNow lun 0)) ∧
      t.cal.timeoutCount = satInc 0xFF s.cal.timeoutCount ∧
      t.cal.timeoutValid ∧ t.cal.timeoutLun = (if s.cal.timeoutValid then s.cal.timeoutLun else lun) ∧
      t.irq.pend = s.irq.pend ||| (1#64 <<< 9) ∧ s.sameBut [.cal, .irq] t)) ∧
  (∀ s lun r, SMap.get? s.cal.relearns lun = some r → s.passed r.start 5000000 = false →
    Completes (.relearnTimeout lun) s (fun t => t = s))

/-- Hot and cold (R241): a reading at or above the bound makes the LUN hot, one more than 3 °C below it makes it cold; either raises
source 11. -/
def Sys2Proof.Stated.HotCrossing : Prop :=
(∀ s lun (x : Int), s.going = true → (s.lun lun).tempS = some x → (s.patrol lun).hot = false →
    (BitVec.ofNat 8 (fld s.cal.temp 16 8)).toInt ≤ x →
    Completes (.temperatureReading lun x) s (fun t => (t.patrol lun).hot ∧ bit t.irq.pend 11 ∧
      (t.patrol lun).debt = (s.patrol lun).debt)) ∧
  (∀ s lun (x : Int), s.going = true → (s.lun lun).tempS = some x → (s.patrol lun).hot = true →
    x < (BitVec.ofNat 8 (fld s.cal.temp 16 8)).toInt - 3 →
    Completes (.temperatureReading lun x) s (fun t => (t.patrol lun).hot = false ∧ bit t.irq.pend 11)) ∧
  (∀ s lun (x : Int), s.going = true → (s.lun lun).tempS = some x → (s.patrol lun).hot = true →
    (BitVec.ofNat 8 (fld s.cal.temp 16 8)).toInt - 3 ≤ x →
    Completes (.temperatureReading lun x) s (fun t => t.cal.patrol = s.cal.patrol))

/-- THM_DIE_T_SAMPLE (R60, R260): a valid code that two successive samples agree on becomes the last valid one, and a training that a
warm reset has abandoned is pending again; any other changes nothing else. -/
def Sys2Proof.Stated.DieTemperatureSampled : Prop :=
(∀ s code, s.awake = true → s.cal.thm = code → code ≠ 0x3FF →
    Completes (.thmDieTSample code) s (fun t => t.cal.thmLast = some code ∧ t.cal.thm = code ∧ t.cal.again = 0 ∧
      s.sameBut [.cal, .irq, .pwr] t ∧ (bit s.cal.trainCfg 31 = false →
        t.cal.pending = s.cal.pending ||| (s.cal.again &&& ~~~s.cal.active) ∧ t.irq = s.irq ∧
        t.pwr = (if s.cal.again &&& ~~~s.cal.active = 0 then s.pwr else (s.wake 5).pwr)))) ∧
  (∀ s code, s.awake = true → (s.cal.thm ≠ code ∨ code = 0x3FF) →
    Completes (.thmDieTSample code) s (fun t => t = s.onCal (fun c => { c with thm := code }))) ∧
  (∀ s code k, s.awake = true → s.cal.thm = code → code ≠ 0x3FF → bit s.cal.trainCfg 31 = true → k < 16 → s.pairRuns k = true →
    s.pairCode k ≠ 0x3FF →
    4 * max 1 (fld s.cal.trainCfg 16 8) < ((code.toNat : Int) - ((s.pairCode k).toNat : Int)).natAbs →
    bit s.cal.active k = false →
    Completes (.thmDieTSample code) s (fun t => bit t.cal.pending k))

/-- Samples move the learned offsets; temperature readings, relearns, hot crossings. Where the command's event does not hold,
nothing changes: the model's choice, log 10. COMPLETION, for every state and operands that meet the hypotheses on them alone:
`exec` answers a next state, with the effect stated, for sampleApply, temperatureReadDue, temperatureReading, relearnTimeout,
thmDieTSample. -/
def Obligations.LearningAndTemperature : Prop :=
  Stated.SampleApplyCompletes ∧
  Stated.TemperatureRowsComplete ∧
  Stated.HotCrossing ∧
  Stated.DieTemperatureSampled

/-- PATROL_ACCRUAL and PATROL_READ_LINK (R239, R240, R314): one more read is owed and the next accrual is placed; the read of the
cursor's page takes a free entry, whose GEN moves on, and the cursor stands behind it. -/
def Sys2Proof.Stated.PatrolRowsComplete : Prop :=
(∀ s lun due, s.going = true → (s.lun lun).ev.patrol = some due → s.delivers lun (some due) = true → (s.patrol lun).period ≠ 0 →
    Completes (.patrolAccrual lun) s (fun t => (t.patrol lun).debt = satInc 4095 (s.patrol lun).debt ∧
      (t.patrol lun).last = s.nextDue due 0 ∧
      (t.lun lun).ev.patrol = some { due := s.nextDue due (s.patrol lun).periodNs, ent := none } ∧
      ((s.patrol lun).urgent = false → (s.patrol lun).limit < satInc 4095 (s.patrol lun).debt →
        (t.patrol lun).urgent ∧ bit t.irq.pend 10) ∧
      ((s.patrol lun).urgent = false → satInc 4095 (s.patrol lun).debt ≤ (s.patrol lun).limit →
        (t.patrol lun).urgent = false ∧ t.irq = s.irq) ∧ s.sameBut [.irq, .cal, .luns] t)) ∧
  (∀ s lun ix d a next, s.going = true → dieOf s lun = some d → dieBushel d = true → (s.patrol lun).outstanding = false →
    s.isFree ix = true → s.patrolNowOf lun = none → (s.patrol lun).period ≠ 0 → 1 ≤ (s.patrol lun).debt →
    ((s.patrol lun).urgent = true ∨ ((s.lun lun).readQ = [] ∧ (s.lun lun).orderQ = [] ∧ (s.lun lun).free = true)) →
    s.patrolNext d lun (s.patrol lun) = some (a, next) →
    Completes (.patrolReadLink lun ix) s (fun t => t.genOf ix = s.genOf ix + 1 ∧
      (∃ u, t.unit? ix = some u ∧ u.kind = .patrol ∧ u.addr = a ∧ u.ctx = none ∧ u.gen = s.genOf ix + 1 ∧
        (s.refuses u = none → u.st = .queued)) ∧
      (t.patrol lun).page = next.page ∧ (t.patrol lun).plane = next.plane ∧ (t.patrol lun).block = next.block)) ∧
  (∀ s lun ix d, dieOf s lun = some d → s.patrolNowOf lun = none → (s.patrol lun).debt = 0 →
    Completes (.patrolReadLink lun ix) s (fun t => t = s))

/-- Patrol debt and patrol reads. Where the command's event does not hold, nothing changes: the model's choice, log 10.
COMPLETION, for every state and operands that meet the hypotheses on them alone: `exec` answers a next state, with the effect
stated, for patrolAccrual, patrolReadLink. -/
def Obligations.PatrolCompletes : Prop :=
  Stated.PatrolRowsComplete

/-- START_TRAINING and TRAINING_START (R254, R257, R262): the pair trains from now, at the rate it starts at if it has not been in
service, with no request for it pending. -/
def Sys2Proof.Stated.TrainingBegins : Prop :=
(∀ s k, s.live = true → k < 16 → s.sys.restored = true → s.sys.wasters = true → s.hif.ready = false → s.pwr.padHeld = false →
    (∀ i, i < 32 → (s.lun (32 * k + i)).die = none ∨ (s.lun (32 * k + i)).checked = true) →
    (∃ c, (c = 2 * k ∨ c = 2 * k + 1) ∧ s.isRelay c = false ∧ s.countedCes c ≠ []) → (s.pair k).inService = false →
    (s.pair k).stepDown = false → bit s.cal.pending k = false → bit s.cal.active k = false →
    Completes (.startTraining k) s (fun t => bit t.cal.active k ∧ SMap.get? t.cal.starts k = some (s.after (if s.sys.resume then 0 else 1000)) ∧
      (t.pair k).rate = (s.chooseRate k).1 ∧ (t.pair k).lpddr = (s.chooseRate k).2.1 ∧
      (t.pair k).startRate = (s.chooseRate k).1 ∧ (t.pair k).inService = false ∧ s.sameBut [.cal, .luns, .che, .pairs] t)) ∧
  (∀ s k, s.live = true → k < 16 → bit s.cal.pending k = true → bit s.cal.active k = false → s.trainees k ≠ [] →
    s.bundleBusy k = false → (∀ c ∈ s.trainees k, s.cesAvailable c = true) → (∀ c ∈ [2 * k, 2 * k + 1], s.pinsStill c = true) →
    s.noticeLinks k = [] → (s.pair k).inService = true →
    Completes (.trainingStart k) s (fun t => bit t.cal.active k ∧ bit t.cal.pending k = false ∧
      SMap.get? t.cal.starts k = some (s.after 0) ∧ (t.pair k).rate = (s.pair k).rate ∧ (t.pair k).inService ∧
      t.ldg = s.ldg ∧ t.luns = s.luns)) ∧
  (∀ s k b lk, s.live = true → k < 16 → bit s.cal.pending k = true → bit s.cal.active k = false → s.trainees k ≠ [] →
    s.bundleBusy k = false → (∀ c ∈ s.trainees k, s.cesAvailable c = true) → (∀ c ∈ [2 * k, 2 * k + 1], s.pinsStill c = true) →
    (s.noticeLinks k).find? (fun e => e.2.trainAsked.isNone) = some (b, lk) →
    Completes (.trainingStart k) s (fun t => t.cal = s.cal ∧ t.pairs = s.pairs ∧
      (t.link? b).bind Link.trainAsked = some (k, s.trainCycles k))) ∧
  (∀ s k, bit s.cal.pending k = false → Completes (.trainingStart k) s (fun t => t = s))

/-- TRAINING_COMPLETE (R252-R256, R260, R264): where the schedules of its pins come to their end (`u` is the state behind them, with
the training still running), the chosen settings of every channel trained stand in its PHY slice with the pair's temperature code, the
pair is in service, and the training is counted. -/
def Sys2Proof.Stated.TrainingCompleteCompletes : Prop :=
∀ s k lo hi u, s.trainOpen k = true → s.trainFails k lo hi = [] → s.trainees k ≠ [] → s.pairPins k lo hi = some u →
    bit u.cal.active k = true →
    Completes (.trainingComplete k lo hi) s (fun t =>
      (∀ c ∈ u.trainees k, t.phyOf c =
        { (u.trained c (u.pair k).rate (sweepOf c lo hi)).1 with calCode := u.cal.thmLast.getD 0x3FF }) ∧
      (∀ c, c ≠ 2 * k → c ≠ 2 * k + 1 → t.phyOf c = u.phyOf c) ∧ (t.pair k).inService ∧ (t.pair k).stepDown = false ∧
      (t.pair k).rate = (u.pair k).rate ∧ bit t.cal.active k = false ∧ t.cal.trainCnt = u.cal.trainCnt + 1 ∧
      t.entries = s.entries ∧ t.settings = s.settings)

/-- TRAINING_FAIL and TRAINING_TIMEOUT (R263, R264, R267): the failure is counted, and the first of several stands in TRAIN_FAIL; above
2,400 MT/s the pair steps down one rate and trains again. A timeout raises source 9. `u` is the state behind the pins of the sequence. -/
def Sys2Proof.Stated.TrainingFailureSteps : Prop :=
(∀ s k lo hi u, s.trainOpen k = true → s.trainFails k lo hi ≠ [] → s.pairPins k lo hi = some u → bit u.cal.active k = true →
    3 < (u.pair k).rate →
    Completes (.trainingFail k lo hi) s (fun t => (t.pair k).rate = (u.pair k).rate - 1 ∧ (t.pair k).stepDown ∧
      (t.pair k).inService = false ∧ bit t.cal.active k = false ∧ bit t.cal.pending k ∧
      t.cal.failCount = satInc 0xFF u.cal.failCount ∧ t.cal.failValid ∧
      (u.cal.failValid = false → t.cal.failRate = (u.pair k).rate ∧
        t.cal.failCause = (if ∃ c ∈ s.trainFails k lo hi, (sweepOf c lo hi).ok = false then 2 else 0)) ∧
      (t.phyOf (2 * k)).rate = 7 ∧ (t.phyOf (2 * k + 1)).rate = 7 ∧ t.che = u.che)) ∧
  (∀ s k, s.live = true → k < 16 → bit s.cal.active k = true → s.reached (SMap.getD s.cal.starts k 0) = true →
    s.passed (SMap.getD s.cal.starts k 0) 60000 = true →
    3 < (s.pair k).rate → Completes (.trainingTimeout k) s (fun t => (t.pair k).rate = (s.pair k).rate - 1 ∧ (t.pair k).stepDown ∧
      (t.pair k).inService = false ∧ bit t.cal.active k = false ∧ t.cal.failCount = satInc 0xFF s.cal.failCount ∧
      (s.cal.failValid = false → t.cal.failCause = 1) ∧ bit t.irq.pend 9 ∧ t.che = s.che)) ∧
  (∀ s k lo hi c u, s.trainOpen k = true → s.trainees k = [c] → s.trainFails k lo hi = [c] → s.pairPins k lo hi = some u →
    bit u.cal.active k = true → (u.pair k).rate ≤ 3 →
    Completes (.trainingFail k lo hi) s (fun t => (t.chan c).fenced ∧ (t.pair k).inService = false ∧
      t.cal.failCount = satInc 0xFF u.cal.failCount)) ∧
  (∀ s k lo hi, s.trainFails k lo hi = [] → Completes (.trainingFail k lo hi) s (fun t => t = s))

/-- TARGET_TRAINING_COMMAND (R23, R67, R259, R346, R357): while neither channel of the pair carries traffic, the channel's own receive
sweeps set its taps and Vref; a pair in service keeps its rate, any other takes the one that R67 chooses; where the sweeps pass, the
channel of a link that is up is in service. -/
def Sys2Proof.Stated.TargetTrainingCompletes : Prop :=
∀ s ch w b l, s.live = true → ch < 32 → s.bundleOf ch = some b → s.link? b = some l → l.target = true →
    (s.chan ch).fenced = false → bit s.cal.active (ch / 2) = false →
    (∀ c ∈ [ch, 4 * (ch / 2) + 1 - ch], s.pinsStill c = true) →
    let rate := if (s.pair (ch / 2)).inService || (s.pair (ch / 2)).stepDown then (s.pair (ch / 2)).rate else (s.chooseRate (ch / 2)).1
    Completes (.targetTrainingCommand ch w) s (fun t =>
      (t.phyOf ch).rdTaps = (s.trained ch rate w).1.rdTaps ∧ (t.phyOf ch).rdVref = (s.trained ch rate w).1.rdVref ∧
      (3 ≤ rate → (t.phyOf ch).wrTaps = (s.phyOf ch).wrTaps ∧ (t.phyOf ch).wrVref = (s.phyOf ch).wrVref) ∧
      (rate < 3 → (t.phyOf ch).wrTaps = [] ∧ (t.phyOf ch).wrVref = BitVec.ofNat 6 ((s.img.wrVref[ch]?).getD 0)) ∧
      (t.pair (ch / 2)).rate = rate ∧ ((s.pair (ch / 2)).inService = true → t.pair (ch / 2) = s.pair (ch / 2)) ∧
      (s.isTarget (4 * (ch / 2) + 1 - ch) = false → s.countedCes (4 * (ch / 2) + 1 - ch) = [] → (t.pair (ch / 2)).inService) ∧
      (t.link? b = some (if (s.trained ch rate w).2 = true ∧ (l.st = .up ∨ l.st = .hold) then
        { l with mask := l.mask ||| (1#8 <<< (ch - b)), lastRx := SMap.set l.lastRx ch s.time.ns, crcRun := SMap.erase l.crcRun ch }
        else l)) ∧ s.sameBut [.phy, .pairs, .rly] t)

/-- Trainings begin, complete and fail. Where the command's event does not hold, nothing changes: the model's choice, log 10.
COMPLETION, for every state and operands that meet the hypotheses on them alone: `exec` answers a next state, with the effect
stated, for startTraining, trainingStart, trainingComplete, trainingFail, trainingTimeout, targetTrainingCommand. -/
def Obligations.TrainingsRun : Prop :=
  Stated.TrainingBegins ∧
  Stated.TrainingCompleteCompletes ∧
  Stated.TrainingFailureSteps ∧
  Stated.TargetTrainingCompletes

/-- The eye that training chooses (R252): the run of taps that pass on every CE is as long as any, its ends pass with all between,
and the tap stands in its middle with the distance to the nearer end as margin. -/
def Sys2Proof.Stated.EyeIsCentred : Prop :=
∀ (old : Nat) (w : BitVec 128) (rest : List (BitVec 128)), rest.foldl (fun a b => a &&& b) w ≠ 0 →
    let m := (rest.foldl (fun a b => a &&& b) w).toNat
    ∃ f l, f ≤ l ∧ l < 128 ∧ (∀ i, f ≤ i → i ≤ l → m.testBit i = true) ∧
      (∀ a b, a ≤ b → b < 128 → (∀ i, a ≤ i → i ≤ b → m.testBit i = true) → b - a ≤ l - f) ∧
      eyeOf 1 old (w :: rest) = ((f + l) / 2, l - f + 1, min ((f + l) / 2 - f) (l - (f + l) / 2))

/-- Training chooses the middle of the longest run of taps. -/
def Obligations.EyeIsCentred : Prop :=
  Stated.EyeIsCentred

/-- Sequenced frames (R350): one behind a gap stands in the reorder store, the data of a DATA frame in its peck, at the owner the next
behind DATA_CREDIT; one outside the window or already there is dropped; one of another session changes nothing but the time it was
heard. -/
def Sys2Proof.Stated.SequencedFramesInOrder : Prop :=
(∀ s ch b l f, s.BundleAt ch b l → s.noneStarved → f.typ = 2 → l.st = .up → l.session f → 0 < (f.seq - l.rxSeq).toNat →
    (f.seq - l.rxSeq).toNat < 64 → (∀ g ∈ l.reorder, g.1.seq ≠ f.seq ∧ g.1.seq ≠ l.rxSeq) →
    Completes (.relayDataFrame ch f) s (fun t => t.LinkIs b (fun m => m.rxSeq = l.rxSeq ∧
      ∃ q, m.reorder = l.reorder ++ [q] ∧ (q = (f, none) ∨ q.1 = { f with payload := f.payload.take 24 })))) ∧
  (∀ s ch b l f p ps, s.BundleAt ch b l → s.noneStarved → f.typ = 2 → l.target = true → l.st = .up → l.session f →
    0 < (f.seq - l.rxSeq).toNat → (f.seq - l.rxSeq).toNat < 64 → (∀ g ∈ l.reorder, g.1.seq ≠ f.seq ∧ g.1.seq ≠ l.rxSeq) →
    l.dataPecks = p :: ps →
    Completes (.relayDataFrame ch f) s (fun t => (t.peck p).payload = f.payload.drop 24 ∧
      t.LinkIs b (fun m => m.rxSeq = l.rxSeq ∧ m.reorder = l.reorder ++ [({ f with payload := f.payload.take 24 }, some p)]))) ∧
  (∀ s ch b l f, s.BundleAt ch b l → s.noneStarved → f.typ = 2 → l.st = .up → l.session f →
    (∀ g ∈ l.reorder, g.1.seq ≠ l.rxSeq) →
    (64 ≤ (f.seq - l.rxSeq).toNat ∨ (0 < (f.seq - l.rxSeq).toNat ∧ ∃ g ∈ l.reorder, g.1.seq = f.seq)) →
    Completes (.relayDataFrame ch f) s (fun t => t.LinkIs b (fun m => m.rxSeq = l.rxSeq ∧ m.reorder = l.reorder))) ∧
  (∀ s ch b l f, s.BundleAt ch b l → s.noneStarved → f.typ = 2 → ¬ l.session f →
    Completes (.relayDataFrame ch f) s (fun t =>
      t = s.onLink b (fun m => { m with lastRx := SMap.set m.lastRx ch s.time.ns, crcRun := SMap.erase m.crcRun ch }))) ∧
  (∀ s ch f, s.bundleOf ch = none → s.noneStarved → Completes (.relayDataFrame ch f) s (fun t => t = s))

/-- RELAY_COMMAND_FRAME in order at the owner (R353, R355, R318): the command keeps the 64 bytes, the bundle and the upstream entry,
its context entries' GENs move on, and the link counts it. -/
def Sys2Proof.Stated.RelayCommandTaken : Prop :=
(∀ s ch b l f c0 c1 c2 c3 c4 ix, s.BundleAt ch b l → s.noneStarved → f.typ = 1 → l.target = true → s.ldg.halted = false →
    [c0, c1, c2, c3, c4, ix].Nodup → (∀ k ∈ [c0, c1, c2, c3, c4, ix], s.isFree k = true) → l.st = .up → l.session f →
    f.seq = l.rxSeq → l.reorder = [] →
    Completes (.relayCommandFrame ch f [c0, c1, c2, c3, c4, ix]) s (fun t =>
      (∃ c, t.cmd? c0 = some c ∧ c.raw = BitVec.ofNat 512 (num f.payload 0 64) ∧
        c.origin = some { bundle := b, entry := f.entry, gen := f.gen, hops := f.hops } ∧ c.gen = s.genOf c0 + 1 ∧
        c.fetched = s.time.ns ∧ c.deadline = f.remain.toNat) ∧
      (∀ k ∈ [c0, c1, c2, c3, c4], t.genOf k = s.genOf k + 1) ∧
      t.LinkIs b (fun m => m.rxSeq = l.rxSeq + 1 ∧ m.cmdRecv = l.cmdRecv + 1 ∧ c0 ∈ m.held))) ∧
  (∀ s ch b l f ctx, s.BundleAt ch b l → s.noneStarved → f.typ = 1 → l.target = false →
    Completes (.relayCommandFrame ch f ctx) s (fun t => t = s))

/-- RELAY_DATA_FRAME in order (R349, R351, R319): at the owner the payload stands in the peck behind DATA_CREDIT with the owner's own
entry and GEN; at the upstream end a frame of an older generation is counted. -/
def Sys2Proof.Stated.RelayDataTaken : Prop :=
(∀ s ch b l f p ps ix u, s.BundleAt ch b l → s.noneStarved → f.typ = 2 → l.target = true → l.st = .up → l.session f → f.seq = l.rxSeq →
    l.reorder = [] → l.unacked = [] → f.nak = false → (∀ e ∈ s.ldg.units, e.2.bundle ≠ some b) → l.waiting = [] →
    l.dataPecks = p :: ps → s.ownerUnit b f = some (ix, u) → s.unit? ix = some u → u.kind ≠ .raw →
    Completes (.relayDataFrame ch f) s (fun t => (t.peck p).payload = f.payload.drop 24 ∧
      (t.peck p).length = f.payload.length - 24 ∧ (t.peck p).entry = ix ∧ (t.peck p).gen = u.gen ∧ (t.peck p).cw = num f.payload 10 1 ∧
      (t.unit? ix).map LUnit.dmaDone = some f.last ∧ t.LinkIs b (fun m => m.rxSeq = l.rxSeq + 1))) ∧
  (∀ s ch b l f u, s.BundleAt ch b l → s.noneStarved → f.typ = 2 → l.target = false → l.st = .up → l.session f → f.seq = l.rxSeq →
    l.reorder = [] → l.unacked = [] → (∀ e ∈ s.ldg.units, e.2.bundle = some b → e.2.kind ≠ .raw) → s.unit? f.entry = some u → u.gen ≠ f.gen →
    Completes (.relayDataFrame ch f) s (fun t => t.ldg.staleCnt = s.ldg.staleCnt + 1 ∧ t.pool.pecks = s.pool.pecks ∧
      t.LinkIs b (fun m => m.rxSeq = l.rxSeq + 1)))

/-- RELAY_COMPLETION_FRAME in order at the upstream end (R348, R354, R362, R319, R370): the unit's result has come, and a RELAY_LOST is
counted; a RETRACT sends the unit
again from nothing; a frame of an older generation is counted. At the target end nothing happens. -/
def Sys2Proof.Stated.RelayCompletionTaken : Prop :=
(∀ s ch b l f u, s.BundleAt ch b l → f.typ = 3 → l.target = false → l.st = .up → l.session f → f.seq = l.rxSeq →
    l.reorder = [] → s.unit? f.entry = some u → u.gen = f.gen → u.bundle = some b → ended u = false → u.relayDone = false →
    bit f.cflags 3 = false →
    Completes (.relayCompletionFrame ch f) s (fun t => 
      (t.unit? f.entry).map (fun v => (v.relayDone, v.iter, v.stepMax, v.rows)) = some (true, f.iter, f.refire, f.rows) ∧
      t.rly.lostCnt = s.rly.lostCnt + (if Status.ofCode f.status.toNat = .relayLost then 1 else 0) ∧ t.LinkIs b (fun m => m.rxSeq = l.rxSeq + 1))) ∧
  (∀ s ch b l f u, s.BundleAt ch b l → f.typ = 3 → l.target = false → l.st = .up → l.session f → f.seq = l.rxSeq →
    l.reorder = [] → s.unit? f.entry = some u → u.gen = f.gen → u.bundle = some b → ended u = false → u.relayDone = false →
    bit f.cflags 3 = true →
    Completes (.relayCompletionFrame ch f) s (fun t => (t.unit? f.entry).map LUnit.cwOk = some 0 ∧
      (t.unit? f.entry).map LUnit.src = some 0 ∧ (t.unit? f.entry).map LUnit.relayDone = some false)) ∧
  (∀ s ch b l f u, s.BundleAt ch b l → f.typ = 3 → l.target = false → l.st = .up → l.session f → f.seq = l.rxSeq →
    l.reorder = [] → s.unit? f.entry = some u → u.gen ≠ f.gen →
    Completes (.relayCompletionFrame ch f) s (fun t => t.ldg.staleCnt = s.ldg.staleCnt + 1)) ∧
  (∀ s ch b l f, s.BundleAt ch b l → l.target = true → Completes (.relayCompletionFrame ch f) s (fun t => t = s))

/-- Sequenced relay frames: commands, data, completions. Where the command's event does not hold, nothing changes: the model's
choice, log 10. COMPLETION, for every state and operands that meet the hypotheses on them alone: `exec` answers a next state,
with the effect stated, for relayDataFrame, relayCommandFrame, relayCompletionFrame. -/
def Obligations.RelayFramesTaken : Prop :=
  Stated.SequencedFramesInOrder ∧
  Stated.RelayCommandTaken ∧
  Stated.RelayDataTaken ∧
  Stated.RelayCompletionTaken

/-- RELAY_CREDIT_FRAME, RELAY_HEARTBEAT_FRAME and RELAY_TRAIN_FRAME (R351, R357, R358): the channel has been heard; at the host end each
credit is the frame's where that is beyond it; at the target end a TRAIN frame holds the link for its time and 4 µs. -/
def Sys2Proof.Stated.RelayControlFramesTaken : Prop :=
(∀ s ch b l f, s.BundleAt ch b l → f.typ = 4 → l.target = false → l.st = .up → l.session f → l.trainAsked = none →
    Completes (.relayCreditFrame ch f) s (fun t => t.LinkIs b (fun m => 
      m.cmdCredit = (if beyond f.cmdCredit l.cmdCredit then f.cmdCredit else l.cmdCredit) ∧
      m.dataCredit = (if beyond f.dataCredit l.dataCredit then f.dataCredit else l.dataCredit) ∧
      SMap.get? m.lastRx ch = some s.time.ns ∧ m.st = .up))) ∧
  (∀ s ch b l f, s.BundleAt ch b l → f.typ = 5 →
    Completes (.relayHeartbeatFrame ch f) s (fun t => t.LinkIs b (fun m => SMap.get? m.lastRx ch = some s.time.ns ∧
      SMap.get? m.crcRun ch = none ∧ m.rxSeq = l.rxSeq ∧ m.target = l.target))) ∧
  (∀ s ch b l f, s.BundleAt ch b l → f.typ = 7 → l.target = true → l.st = .up → l.session f →
    Completes (.relayTrainFrame ch f) s (fun t => t.LinkIs b (fun m => m.st = .hold ∧ m.creditDue ∧
      m.trainDue = some (s.after (s.cyclesNs (ch / 2) f.hold + 4000))))) ∧
  (∀ s ch b l f, s.BundleAt ch b l → 1 ≤ f.typ → f.typ ≤ 7 → f.typ ≠ 4 → Completes (.relayCreditFrame ch f) s (fun t => t = s))

/-- RELAY_HELLO_FRAME (R344, R360): another SIZE is a mismatch, which takes down a link that is up and which a target's HELLO answers; a host that has sent its HELLO comes up with the partner's boot number and
resumes exactly where both ends hold the session; the event is latched with source 4. -/
def Sys2Proof.Stated.RelayHelloTaken : Prop :=
(∀ s ch b l f, s.BundleAt ch b l → f.typ = 6 → f.pers = (if l.target then 1 else 2) → f.size ≠ Nat.log2 l.size →
    l.st ≠ .up → l.st ≠ .hold →
    Completes (.relayHelloFrame ch f) s (fun t => t.LinkIs b (fun m => m.st = .mismatch ∧ m.sending = [] ∧ m.rxSeq = l.rxSeq ∧
      m.txq = (if l.target then [s.helloFrame l] else []) ++ l.txq.filter sequenced) ∧
      t.ldg = s.ldg)) ∧
  (∀ s ch b l f, s.BundleAt ch b l → b < 32 → f.typ = 6 → f.pers = (if l.target then 1 else 2) → f.size ≠ Nat.log2 l.size →
    (l.st = .up ∨ l.st = .hold) →
    Completes (.relayHelloFrame ch f) s (fun t => t.LinkIs b (fun m => m.st = .mismatch ∧ m.kept ∧ m.mask = 0 ∧
      m.holdDue = some (s.after s.holdNs)) ∧ bit t.rly.event b = true)) ∧
  (∀ s ch b l f, s.BundleAt ch b l → b < 32 → f.typ = 6 → f.pers = 2 → f.size = Nat.log2 l.size → l.target = false → l.st = .bringing →
    l.helloSent = true →
    Completes (.relayHelloFrame ch f) s (fun t => t.LinkIs b (fun m => m.st = .up ∧ m.host = s.rly.boot ∧ m.tgt = f.boot ∧
      m.partner = f.src ∧ m.kept ∧ m.resumed = (l.kept && f.resume && l.host == s.rly.boot && l.tgt == f.boot)) ∧
      bit t.rly.event b = true ∧ (bit s.rly.event b = false → bit t.irq.pend 4 = true) ∧
      t.rly.resumeCnt = s.rly.resumeCnt + (if l.kept && f.resume && l.host == s.rly.boot && l.tgt == f.boot then 1 else 0))) ∧
  (∀ s ch b l f, s.BundleAt ch b l → f.typ = 6 → f.pers ≠ (if l.target then 1 else 2) →
    Completes (.relayHelloFrame ch f) s (fun t =>
      t = s.onLink b (fun m => { m with lastRx := SMap.set m.lastRx ch s.time.ns, crcRun := SMap.erase m.crcRun ch })))

/-- RELAY_BAD_FRAME (R347, R350, R357): counted, and a NAK is due; the sixteenth in succession takes the channel out of the bundle's
service; a frame of a TYPE that R347 does not give counts the same. -/
def Sys2Proof.Stated.RelayBadFrameCounted : Prop :=
(∀ s ch b l, s.BundleAt ch b l → SMap.getD l.crcRun ch 0 < 15 →
    Completes (.relayBadFrame ch) s (fun t => t.rly.crcCnt = s.rly.crcCnt + 1 ∧
      t.LinkIs b (fun m => SMap.get? m.crcRun ch = some (SMap.getD l.crcRun ch 0 + 1) ∧ m.mask = l.mask ∧
        (l.target = true → m.nakDue = true)) ∧ s.sameBut [.rly] t)) ∧
  (∀ s ch b l f, s.BundleAt ch b l → (f.typ = 0 ∨ 7 < f.typ) → SMap.getD l.crcRun ch 0 < 15 →
    Completes (.relayCreditFrame ch f) s (fun t => t.rly.crcCnt = s.rly.crcCnt + 1 ∧
      t.LinkIs b (fun m => SMap.get? m.crcRun ch = some (SMap.getD l.crcRun ch 0 + 1) ∧ m.lastRx = l.lastRx) ∧ s.sameBut [.rly] t)) ∧
  (∀ s ch b l, s.BundleAt ch b l → ch < 32 → 15 ≤ SMap.getD l.crcRun ch 0 → ch ∈ l.channels b →
    Completes (.relayBadFrame ch) s (fun t => t.rly.crcCnt = s.rly.crcCnt + 1 ∧
      t.LinkIs b (fun m => ch ∉ m.channels b) ∧ (l.target = false → bit t.cal.active (ch / 2) = true ∨ bit t.cal.pending (ch / 2) = true)))

/-- RELAY_READ_ID_POLL and TARGET_READ_ID (R346): a target answers with its eight bytes; a host channel whose partner answers 0x52 is
identified, and trains once the bundle's channels of its pair have all answered. -/
def Sys2Proof.Stated.RelayReadIdCompletes : Prop :=
(∀ s ch b l, s.live = true → s.bundleOf ch = some b → s.link? b = some l → l.target = true →
    Completes (.targetReadId ch) s (fun t => t.rly.lastId = [0x7A, 0x0B, 0x52, BitVec.ofNat 8 l.size,
      BitVec.ofNat 8 s.sys.instance_.toNat, BitVec.ofNat 8 (s.sys.instance_.toNat / 256), 0, 0] ∧ s.sameBut [.rly] t)) ∧
  (∀ s ch b l id, s.BundleAt ch b l → s.hif.ready = true → l.target = false → ch ∉ l.identified →
    (∀ x, SMap.get? l.polled ch = some x → s.passed x 100000 = true) → num id 2 1 = 0x52 → ch < 32 →
    Completes (.relayReadIdPoll ch id) s (fun t =>
      t.LinkIs b (fun m => m.identified = l.identified ++ [ch] ∧ SMap.get? m.polled ch = some s.time.ns) ∧
      ((∀ c, c / 2 = ch / 2 → b ≤ c → c < b + l.size → c ∈ l.identified ++ [ch]) →
        bit t.cal.pending (ch / 2) = true ∨ bit t.cal.active (ch / 2) = true) ∧ s.sameBut [.rly, .cal] t)) ∧
  (∀ s ch b l id, s.BundleAt ch b l → s.hif.ready = true → l.target = false → ch ∉ l.identified →
    (∀ x, SMap.get? l.polled ch = some x → s.passed x 100000 = true) → num id 2 1 ≠ 0x52 →
    Completes (.relayReadIdPoll ch id) s (fun t =>
      t = s.onLink b (fun m => { m with polled := SMap.set m.polled ch s.time.ns })))

/-- Control frames, HELLO, bad frames and READ_ID. Where the command's event does not hold, nothing changes: the model's choice,
log 10. COMPLETION, for every state and operands that meet the hypotheses on them alone: `exec` answers a next state, with
the effect stated, for relayCreditFrame, relayHeartbeatFrame, relayTrainFrame, relayHelloFrame, relayBadFrame, targetReadId,
relayReadIdPoll. -/
def Obligations.RelayControlTaken : Prop :=
  Stated.RelayControlFramesTaken ∧
  Stated.RelayHelloTaken ∧
  Stated.RelayBadFrameCounted ∧
  Stated.RelayReadIdCompletes

/-- RELAY_PULL_DUE, TARGET_PULL, RELAY_TRANSFER_END and RELAY_HEARTBEAT_DUE (R345, R347, R352, R357): a pull takes a free channel with C5h; a
target drives the bytes of its next queued frame, or a HEARTBEAT, and on a channel out of the bundle's service no sequenced frame; the end of a transfer frees the channel; a host channel idle for 2 µs sends a HEARTBEAT. -/
def Sys2Proof.Stated.RelayTransfersComplete : Prop :=
(∀ s ch b l rb, s.BundleAt ch b l → s.pullDue b l ch rb = true →
    Completes (.relayPullDue ch rb) s (fun t => t.LinkIs b (fun m => SMap.get? m.sending ch = some (mkFrame 0) ∧
      SMap.get? m.polled ch = some s.time.ns ∧ SMap.get? m.pins ch = some [.cmd 0xC5]) ∧ s.sameBut [.rly] t)) ∧
  (∀ s ch b l, s.BundleAt ch b l → (s.pair (ch / 2)).inService → l.target = true → bit s.cal.active (ch / 2) = false → SMap.get? l.sending ch = none → l.nextFrame = none →
    Completes (.targetPull ch) s (fun t => t.LinkIs b (fun m =>
      (∃ f, SMap.get? m.sending ch = some f ∧ f.typ = 5 ∧ f.ack = l.rxSeq - 1 ∧ f.src = s.sys.instance_) ∧ m.txSeq = l.txSeq ∧
      m.unacked = l.unacked) ∧ s.sameBut [.rly] t)) ∧
  (∀ s ch b l f r, s.BundleAt ch b l → (s.pair (ch / 2)).inService → ch ∈ l.channels b → l.target = true → bit s.cal.active (ch / 2) = false → SMap.get? l.sending ch = none → l.st = .up → l.retryQ = [] →
    l.txq = f :: r → (∀ g ∈ l.txq, sequenced g = true) → l.unacked.length < 64 →
    Completes (.targetPull ch) s (fun t => t.LinkIs b (fun m =>
      (∃ g, SMap.get? m.sending ch = some g ∧ SMap.get? m.pins ch = some [.cmd 0xC5, .din (frameBytes g)] ∧
        g.typ = f.typ ∧ g.seq = l.txSeq ∧ g.payload = f.payload ∧
        m.unacked = l.unacked ++ [(g, s.time.ns)]) ∧ m.txSeq = l.txSeq + 1 ∧ m.txq = r))) ∧
  (∀ s ch b l, s.BundleAt ch b l → (s.pair (ch / 2)).inService → ch ∉ l.channels b → l.target = true →
    bit s.cal.active (ch / 2) = false → SMap.get? l.sending ch = none → l.st = .up → (∀ g ∈ l.txq, sequenced g = true) →
    Completes (.targetPull ch) s (fun t => t.LinkIs b (fun m => (∃ f, SMap.get? m.sending ch = some f ∧ f.typ = 5) ∧
      m.txSeq = l.txSeq ∧ m.unacked = l.unacked ∧ m.txq = l.txq ∧ m.retryQ = l.retryQ))) ∧
  (∀ s ch b l rb, s.BundleAt ch b l → l.target = true →
    Completes (.relayTransferEnd ch rb) s (fun t => t.LinkIs b (fun m => SMap.get? m.sending ch = none) ∧ s.sameBut [.rly] t)) ∧
  (∀ s ch b l rb, s.BundleAt ch b l → s.pullDue b { l with sending := SMap.erase l.sending ch } ch rb = true →
    Completes (.relayTransferEnd ch rb) s (fun t => t.LinkIs b (fun m => SMap.get? m.sending ch = some (mkFrame 0)))) ∧
  (∀ s ch b l, s.BundleAt ch b l → (s.pair (ch / 2)).inService → l.target = false → ch ∈ l.channels b → l.st = .up → bit s.cal.active (ch / 2) = false →
    SMap.get? l.sending ch = none → (∀ x, SMap.get? l.lastTx ch = some x → s.passed x 2000 = true) →
    Completes (.relayHeartbeatDue ch) s (fun t => t.LinkIs b (fun m => (∃ f, SMap.get? m.sending ch = some f ∧ f.typ = 5) ∧
      SMap.get? m.lastTx ch = some s.time.ns ∧ m.txSeq = l.txSeq) ∧ s.sameBut [.rly] t))

/-- RELAY_RETRY_TIMEOUT and RELAY_CHANNEL_SILENT (R350, R357, R370): every unacknowledged frame is counted and sent again; a silent
channel leaves the bundle's service while another is heard. -/
def Sys2Proof.Stated.RelayTimersComplete : Prop :=
(∀ s ch l q x r, s.live = true → s.link? ch = some l → l.unacked = (q, x) :: r → l.st = .up → l.retryQ = [] →
    s.passed x s.retryNs = true →
    Completes (.relayRetryTimeout ch) s (fun t => t.rly.retryCnt = s.rly.retryCnt + BitVec.ofNat 32 l.unacked.length ∧
      t.LinkIs ch (fun m => ∃ more, m.unacked.map (fun e => e.1.seq) = l.unacked.map (fun e => e.1.seq) ++ more) ∧
      s.sameBut [.rly] t)) ∧
  (∀ s ch b l c, s.live = true → ch < 32 → s.bundleOf ch = some b → s.link? b = some l → l.st = .up → l.trainDue = none →
    ch ∈ l.channels b → s.silent l ch = true → c ∈ l.channels b → s.silent l c = false →
    Completes (.relayChannelSilent ch) s (fun t => t.LinkIs b (fun m => ch ∉ m.channels b ∧ m.st = .up) ∧
      (l.target = false → bit t.cal.pending (ch / 2) = true ∨ bit t.cal.active (ch / 2) = true) ∧ t.ldg = s.ldg))

/-- RELAY_LINK_DOWN, TRAIN_HOLD_EXPIRY and RELAY_HOLD_EXPIRY (R357, R358, R361, R362, R370): a link lost keeps its session for RELAY_HOLD, and
every unit whose result is owed is PARKED; behind the hold every such unit is lost and the session is gone. -/
def Sys2Proof.Stated.RelayLossCompletes : Prop :=
(∀ s b l, s.live = true → b < 32 → s.link? b = some l → (l.st = .up ∨ l.st = .hold) → l.trainDue = none →
    (∀ c, b ≤ c → c < b + l.size → s.silent l c = true) → l.target = false →
    Completes (.relayLinkDown b) s (fun t => t.LinkIs b (fun m => m.st = .down ∧ m.kept ∧ m.mask = 0 ∧ m.identified = [] ∧
      m.holdDue = some (s.after s.holdNs) ∧ m.unacked = l.unacked ∧ m.txq = l.txq.filter sequenced ∧ m.reorder = l.reorder) ∧ bit t.rly.event b = true ∧
      (∀ ix u, s.unit? ix = some u → u.bundle = some b → ended u = false → u.won = true →
        (t.unit? ix).map LUnit.st = some .parked) ∧
      (∀ ix u, s.unit? ix = some u → ((∀ e ∈ s.ldg.units, e.1 = ix → e.2.bundle ≠ some b) ∨ u.won = false) →
        t.unit? ix = some u) ∧
      s.sameBut [.rly, .irq, .ldg] t)) ∧
  (∀ s b l, s.live = true → s.link? b = some l → (∃ x, l.trainDue = some x ∧ s.reached x = true) → l.trainAsked = none →
    Completes (.trainHoldExpiry b) s (fun t => t.LinkIs b (fun m => m.trainDue = none ∧ m.st = (if l.st = .hold then .up else l.st) ∧
      (∀ c ∈ l.channels b, SMap.get? m.lastRx c = some s.time.ns)) ∧ s.sameBut [.rly] t)) ∧
  (∀ s b l, s.live = true → s.link? b = some l → (∃ x, l.holdDue = some x ∧ s.reached x = true) →
    Completes (.relayHoldExpiry b) s (fun t => t.LinkIs b (fun m => m.kept = false ∧ m.holdDue = none ∧ m.rxSeq = 0 ∧ m.txSeq = 0 ∧
      m.unacked = [] ∧ m.held = [] ∧ m.log = [] ∧ m.dataPecks = []) ∧
      t.rly.lostCnt = s.rly.lostCnt + BitVec.ofNat 32
        (((s.bundleUnits b).filter (fun e => e.2.st == .parked || e.2.st == .queued)).length) ∧
      (∀ ix u, s.unit? ix = some u → u.bundle = some b → u.st = .parked → (t.unit? ix).map LUnit.st = some .done) ∧
      t.entries = s.entries))

/-- Transfers, timers and the loss of a link. COMPLETION, for every state and operands that meet the hypotheses on them alone:
`exec` answers a next state, with the effect stated, for relayPullDue, targetPull, relayTransferEnd, relayHeartbeatDue,
relayRetryTimeout, relayChannelSilent, relayLinkDown, trainHoldExpiry, relayHoldExpiry. -/
def Obligations.RelayLinksRun : Prop :=
  Stated.RelayTransfersComplete ∧
  Stated.RelayTimersComplete ∧
  Stated.RelayLossCompletes

/-- PSP_MEMBER_DUE, PSP_TIME_DUE, PSP_BAD_FRAME and PSP_SYNC_LAPSE (R364, R367, R368, R372): the frame that goes out carries the instance,
its epoch or candidate, TIME_NS and the flags, its 22 bytes on the two lanes. -/
def Sys2Proof.Stated.PspTimersComplete : Prop :=
(∀ s, s.awake = true → (s.psp.settled = true ∨ s.psp.listenFrom.isSome = true) → s.passed s.psp.lastMember 2000000 = true →
    Completes .pspMemberDue s (fun t => t.psp.lastMember = s.time.ns ∧ t.psp.srcEn = bit s.psp.cfg 31 ∧
      t.psp.sent = pspLanes (pspBytes 1
        { src := s.sys.instance_, time := s.time.ns, tsrc := bit s.psp.cfg 31,
          epoch := (if s.psp.settled then s.psp.epoch else s.psp.stored + 1), listening := !s.psp.settled }) ∧
      s.sameBut [.psp] t)) ∧
  (∀ s, s.awake = true → s.psp.source = true → s.passed s.psp.lastTime 100000 = true →
    Completes .pspTimeDue s (fun t => t.psp = { s.psp with lastTime := s.time.ns, sent := pspLanes (pspBytes 2 s.pspFrame) } ∧
      s.sameBut [.psp] t)) ∧
  (∀ s, s.awake = true → Completes .pspBadFrame s (fun t =>
      t.psp = { s.psp with crcCnt := s.psp.crcCnt + 1 } ∧ s.sameBut [.psp] t)) ∧
  (∀ s, s.awake = true → s.psp.synced = true → s.passed s.psp.timeTaken 1000000 = true →
    Completes .pspSyncLapse s (fun t => t.psp = { s.psp with synced := false } ∧ s.sameBut [.psp] t))

/-- PSP_MEMBER_FRAME (R366, R367, R372, R414): one's own frame is nothing; while listening the highest epoch heard is kept; once settled a higher
epoch is taken with its event, and the sender of a frame of the epoch is a member heard now; an event of
PSP_EVENT wakes an instance in Soak or Bank. -/
def Sys2Proof.Stated.PspMemberFrameTaken : Prop :=
(∀ s f, s.awake = true → f.src = s.sys.instance_ → Completes (.pspMemberFrame f) s (fun t => t = s)) ∧
  (∀ s f, s.awake = true → f.src ≠ s.sys.instance_ → s.psp.settled = false → s.psp.listenFrom.isSome = true → f.listening = true →
    Completes (.pspMemberFrame f) s (fun t => t.psp.bestCandidate = (if s.psp.bestCandidate < f.epoch then f.epoch else s.psp.bestCandidate) ∧
      t.psp.bestSettled = s.psp.bestSettled ∧ s.sameBut [.psp] t)) ∧
  (∀ s f, s.awake = true → f.src ≠ s.sys.instance_ → s.psp.settled = false → s.psp.listenFrom.isSome = true → f.listening = false →
    Completes (.pspMemberFrame f) s (fun t => t.psp.bestSettled = some (match s.psp.bestSettled with
      | some b => if b < f.epoch then f.epoch else b
      | none => f.epoch) ∧ t.psp.bestCandidate = s.psp.bestCandidate ∧ s.sameBut [.psp] t)) ∧
  (∀ s f, s.awake = true → f.src ≠ s.sys.instance_ → s.psp.settled = true → f.listening = false → s.psp.epoch ≤ f.epoch →
    Completes (.pspMemberFrame f) s (fun t => t.psp.epoch = f.epoch ∧ SMap.get? t.psp.members f.src.toNat = some s.time.ns ∧
      (s.psp.epoch < f.epoch → t.psp.evEpoch = true ∧ t.psp.stored = f.epoch ∧ t.nvs.health.epoch = f.epoch) ∧
      (SMap.get? s.psp.members f.src.toNat = none → t.psp.evJoined = true ∧ t.psp.lastId = f.src) ∧
      (f.src.toNat ∈ t.psp.tsrcs ↔ f.tsrc = true) ∧ (s.dozing = false → t.pwr = s.pwr) ∧
      (s.dozing = true → s.psp.evJoined = false → SMap.get? s.psp.members f.src.toNat = none → t.pwr = (s.wake 3).pwr) ∧
      s.sameBut [.psp, .irq, .nvs, .pwr] t)) ∧
  (∀ s f, s.awake = true → s.psp.settled = true → f.listening = false → f.epoch < s.psp.epoch →
    Completes (.pspMemberFrame f) s (fun t => t = s))

/-- PSP_TIME_FRAME (R368, R424): from the time source of the epoch, the offset is its time with the delay, less the local time; above
STEP_US it is stepped, else slewed. -/
def Sys2Proof.Stated.PspTimeFrameTaken : Prop :=
(∀ s f (x : Ns), s.awake = true → f.src ≠ s.sys.instance_ → s.psp.settled = true → f.listening = false → f.epoch = s.psp.epoch →
    f.tsrc = true → (∀ i ∈ s.psp.tsrcs, f.src.toNat ≤ i) → (s.psp.srcEn = true → f.src.toNat < s.sys.instance_.toNat) →
    Completes (.pspTimeFrame f x) s (fun t => t.psp.synced ∧ t.psp.timeTaken = s.time.ns ∧ t.psp.sourceId = f.src ∧
      t.time.offset = (f.time + BitVec.ofNat 64 (fld s.psp.cfg 0 16) - x).toInt ∧
      ((1000 * fld s.time.cfg 0 16 : Nat) < t.time.offset → t.time.stepDue = t.time.offset.toNat ∧ t.time.slew = s.time.slew) ∧
      (t.time.offset ≤ (1000 * fld s.time.cfg 0 16 : Nat) → t.time.slew = t.time.offset ∧ t.time.stepDue = s.time.stepDue) ∧
      t.time.ns = s.time.ns)) ∧
  (∀ s f (x : Ns), s.awake = true → f.src = s.sys.instance_ → s.psp.source = true →
    Completes (.pspTimeFrame f x) s (fun t => t = s))

/-- PSP_MEMBER_TIMEOUT and PSP_LISTEN_END (R366, R367, R372, R414): the member is gone, with its event, which wakes an
instance in Soak or Bank; listening ends on the highest settled
epoch heard, else on the highest candidate, which the health counters keep. -/
def Sys2Proof.Stated.PspMembershipEnds : Prop :=
(∀ s i x, s.awake = true → SMap.get? s.psp.members i = some x → s.passed x 7000000 = true →
    Completes (.pspMemberTimeout i) s (fun t => SMap.get? t.psp.members i = none ∧ t.psp.evLeft ∧ t.psp.lastId = BitVec.ofNat 11 i ∧
      i ∉ t.psp.tsrcs ∧ (∀ j, j ≠ i → SMap.get? t.psp.members j = SMap.get? s.psp.members j) ∧
      t.pwr = (if s.dozing = true ∧ s.psp.evLeft = false then (s.wake 3).pwr else s.pwr) ∧ s.sameBut [.psp, .irq, .pwr] t)) ∧
  (∀ s x, s.awake = true → s.psp.listenFrom = some x → s.psp.settled = false → s.passed x 10000000 = true →
    Completes .pspListenEnd s (fun t => t.psp.settled ∧ t.psp.listenFrom = none ∧ t.psp.stored = t.psp.epoch ∧
      t.nvs.health.epoch = t.psp.epoch ∧
      t.psp.epoch = (match s.psp.bestSettled with
        | some b => b
        | none => if s.psp.stored + 1 < s.psp.bestCandidate then s.psp.bestCandidate else s.psp.stored + 1) ∧ s.sameBut [.psp, .nvs] t)) ∧
  (∀ s, s.psp.listenFrom = none → Completes .pspListenEnd s (fun t => t = s))

/-- The peer sync port. Where the command's event does not hold, nothing changes: the model's choice, log 10. COMPLETION, for
every state and operands that meet the hypotheses on them alone: `exec` answers a next state, with the effect stated, for
pspMemberDue, pspTimeDue, pspBadFrame, pspSyncLapse, pspMemberFrame, pspTimeFrame, pspMemberTimeout, pspListenEnd. -/
def Obligations.PeerSyncCompletes : Prop :=
  Stated.PspTimersComplete ∧
  Stated.PspMemberFrameTaken ∧
  Stated.PspTimeFrameTaken ∧
  Stated.PspMembershipEnds

/-- The test access port (R71): every row changes the port alone; IDCODE shifts out its 32 bits least significant first; BYPASS is one bit;
SAMPLE/PRELOAD and EXTEST load the boundary register as the pins shift out. -/
def Sys2Proof.Stated.TestAccessPortCompletes : Prop :=
(∀ s, Completes .jtagReset s (fun t => t.jtag.ir = .reset ∧ t.jtag.boundary = s.jtag.boundary ∧ s.sameBut [.jtag] t)) ∧
  (∀ s b, Completes (.jtagBypass b) s (fun t => t.jtag.ir = .bypass ∧ t.jtag.bypass = b ∧
      (s.jtag.ir = .bypass → t.jtag.tdo = [s.jtag.bypass]) ∧ s.sameBut [.jtag] t)) ∧
  (∀ s, Completes .jtagIdcode s (fun t => t.jtag.ir = .idcode ∧ t.jtag.tdo.length = 32 ∧
      (∀ i, i < 32 → t.jtag.tdo[i]? = some ((0x37A0B001 : Nat).testBit i)) ∧ s.sameBut [.jtag] t)) ∧
  (∀ s ps bs, bs ≠ [] → Completes (.jtagSamplePreload ps bs) s (fun t => t.jtag.ir = .sample ∧ t.jtag.boundary = bs ∧
      t.jtag.tdo = ps ∧ s.sameBut [.jtag] t)) ∧
  (∀ s ps bs, bs ≠ [] → Completes (.jtagExtest ps bs) s (fun t => t.jtag.ir = .extest ∧ t.jtag.boundary = bs ∧
      t.jtag.tdo = ps ∧ s.sameBut [.jtag] t)) ∧
  (∀ s ps, Completes (.jtagExtest ps []) s (fun t => t.jtag = { s.jtag with ir := .extest } ∧ s.sameBut [.jtag] t))

/-- The test access port. An empty scan is log 6. COMPLETION, for every state and operands that meet the hypotheses on them
alone: `exec` answers a next state, with the effect stated, for jtagReset, jtagBypass, jtagIdcode, jtagSamplePreload,
jtagExtest. -/
def Obligations.TestAccessPort : Prop :=
  Stated.TestAccessPortCompletes

/-- NVS_WRITE_DONE by what the line holds (R394, R396-R400): a write that verifies stands in its line and is counted; a marker line
moves the ring on. -/
def Sys2Proof.Stated.NvsWriteBecomesDurable : Prop :=
(∀ s r, s.sys.coldLow = false → s.nvs.running = some r →
    Completes (.nvsWriteDone true) s (fun t => t.nvs.line r.line = r.data ∧
      (∀ l, l ≠ r.line → t.nvs.line l = s.nvs.line l) ∧ t.nvs.writeCnt = s.nvs.writeCnt + 1 ∧ t.nvs.spares = s.nvs.spares ∧
      t.nvs.faultCount = s.nvs.faultCount)) ∧
  (∀ s r u k, s.sys.coldLow = false → s.nvs.running = some r → r.what = .marker u k →
    Completes (.nvsWriteDone true) s (fun t => t.nvs.markLine = (s.nvs.markLine + 1) % 8192 ∧
      t.nvs.markHead = BitVec.ofNat 32 (lineSeq r.data) ∧
      t.nvs.opens = markReplay k (markLoc r.data) (markPage r.data) r.line s.nvs.opens)) ∧
  (∀ s r, s.sys.coldLow = false → s.nvs.running = some r → r.what = .snapshot 1089 →
    Completes (.nvsWriteDone true) s (fun t => t.nvs.snapValid ∧ t.nvs.snapSlot = s.nvs.snapTarget ∧
      t.nvs.snapGen = s.nvs.snapNew ∧ t.nvs.snapping = none))

/-- NVS_WRITE_DONE with a failed verify (R394, R407): one more write of the line, then a spare line, and with no spare left the fault is
counted with source 5 and the write waits for its retry. -/
def Sys2Proof.Stated.NvsWriteFails : Prop :=
(∀ s r, s.sys.coldLow = false → s.nvs.running = some r → r.fails = 0 →
    Completes (.nvsWriteDone false) s (fun t => t = s.onNvs (fun n => { n with running := some { r with fails := 1 } }))) ∧
  (∀ s r, s.sys.coldLow = false → s.nvs.running = some r → r.fails ≠ 0 → s.nvs.sparesLeft ≠ 0 →
    Completes (.nvsWriteDone false) s (fun t => t.nvs.sparesLeft = s.nvs.sparesLeft - 1 ∧
      SMap.get? t.nvs.spares (1024 - s.nvs.sparesLeft) = some r.line ∧ t.nvs.running = some { r with fails := 0 } ∧
      t.nvs.lines = s.nvs.lines ∧ s.sameBut [.nvs] t)) ∧
  (∀ s r, s.sys.coldLow = false → s.nvs.running = some r → r.fails ≠ 0 → s.nvs.sparesLeft = 0 →
    Completes (.nvsWriteDone false) s (fun t => t.nvs.faultCount = satInc 0xFF s.nvs.faultCount ∧ t.nvs.faultValid ∧
      (s.nvs.faultValid = false → t.nvs.faultLine = r.line ∧ t.nvs.faultRegion = BitVec.ofNat 3 (regionOf r.line)) ∧
      t.nvs.retry = s.nvs.retry ++ [{ r with fails := 0 }] ∧ (s.pwr.st = .fire → bit t.irq.pend 5 = true) ∧
      (∀ l, l ≠ r.line → t.nvs.line l = s.nvs.line l) ∧ t.nvs.writeCnt = s.nvs.writeCnt)) ∧
  (∀ s ok, s.nvs.running = none → Completes (.nvsWriteDone ok) s (fun t => t = s))

/-- NVS_RETRY_DUE, SNAPSHOT_START and HEALTH_UPDATE_DUE (R394, R397, R400): the failed writes go first again; a snapshot takes the next
generation, at most one in 10 s; each hour counts an hour and asks for a health line. -/
def Sys2Proof.Stated.NvsTimersComplete : Prop :=
(∀ s r rs, s.live = true → s.nvs.retry = r :: rs → s.passed s.nvs.retryAt 1000000 = true → s.nvs.running.isSome = true →
    Completes .nvsRetryDue s (fun t => t.nvs.retry = [] ∧ t.nvs.queue = r :: rs ++ s.nvs.queue ∧ t.nvs.retryAt = s.time.ns ∧
      s.sameBut [.nvs] t)) ∧
  (∀ s r rs, s.live = true → s.nvs.retry = r :: rs → s.passed s.nvs.retryAt 1000000 = true →
    Completes .nvsRetryDue s (fun t => t.nvs.retry = [] ∧ t.nvs.lines = s.nvs.lines ∧ t.nvs.retryAt = s.time.ns)) ∧
  (∀ s, s.live = true → s.nvs.scanned = true → s.nvs.snapWant = true → s.nvs.snapping = none →
    (∀ x, s.nvs.snapLast = some x → s.passed x 10000000000 = true) →
    Completes .snapshotStart s (fun t => t.nvs.snapWant = false ∧ t.nvs.snapping = some 0 ∧ t.nvs.snapNew = s.nvs.snapGen + 1 ∧
      t.nvs.snapLast = some s.time.ns ∧ t.nvs.lines = s.nvs.lines ∧ t.nvs.snapGen = s.nvs.snapGen ∧ s.sameBut [.nvs] t)) ∧
  (∀ s, s.live = true → s.nvs.scanned = true → s.passed s.nvs.healthAt 3600000000000 = true →
    Completes .healthUpdateDue s (fun t => t.nvs.health = { s.nvs.health with hours := s.nvs.health.hours + 1 } ∧
      t.nvs.healthAt = s.nvs.healthAt + 3600000000000 ∧ t.nvs.lines = s.nvs.lines ∧ s.sameBut [.nvs] t))

/-- A marker opens its place until its end marker closes it, whatever lies between (R396): the replay of a start marker leaves it open
at its own line, and the replay of the end marker of the same place leaves none of it. -/
def Sys2Proof.Stated.MarkersOpenAndClose : Prop :=
(∀ ms loc page line, (∃ m ∈ markReplay 1 loc page line ms, m.kind = 1 ∧ m.loc = loc ∧ m.page = page ∧ m.line = line)) ∧
  (∀ ms loc page line, ∀ m ∈ markReplay 2 loc page line ms, m ∈ ms ∧ ((m.kind = 1 ∨ m.kind = 3) → m.loc ≠ loc)) ∧
  (∀ ms loc page line, ∀ m ∈ markReplay 4 loc page line ms, m ∈ ms ∧ (m.kind = 3 → m.loc = loc → m.page ≠ page)) ∧
  (∀ ms loc page line, ∀ m ∈ markReplay 6 loc page line ms, m ∈ ms ∧ (m.kind = 5 → m.loc ≠ loc)) ∧
  (∀ ms kind loc page line, (kind = 1 ∨ kind = 3 ∨ kind = 5) → ∀ m ∈ ms, (m.kind ≠ kind ∨ m.loc ≠ loc ∨ m.page ≠ page) →
    m ∈ markReplay kind loc page line ms)

/-- NVS writes become durable or fail; NVS timers; marker replay. Where the command's event does not hold, nothing changes: the
model's choice, log 10. COMPLETION, for every state and operands that meet the hypotheses on them alone: `exec` answers a
next state, with the effect stated, for nvsWriteDone, nvsRetryDue, snapshotStart, healthUpdateDue. -/
def Obligations.NvsWritesEnd : Prop :=
  Stated.NvsWriteBecomesDurable ∧
  Stated.NvsWriteFails ∧
  Stated.NvsTimersComplete ∧
  Stated.MarkersOpenAndClose

/-- A write of SPM_OP_CMD with an ACTION (R385, R405): a refusal gives its RESULT and source 7 before any device command; an operation
accepted is BUSY with PROGRESS 0, and waits while a consolidation runs; while BUSY = 1 the write is ignored. -/
def Sys2Proof.Stated.SpmOperationWrites : Prop :=
(∀ data image s, ∀ p ∈ spmRows data image, s.hcpFree → s.spm.opBusy = false → fld data 0 2 = p.2.1 →
    (s.onSpm (fun m => { m with opSlot := bit data 8 })).spmRefusal (p.2.2 s.spm).kind ≠ 0 →
    Completes p.1 s (fun t => t.spm.opDone ∧
      t.spm.opResult = (s.onSpm (fun m => { m with opSlot := bit data 8 })).spmRefusal (p.2.2 s.spm).kind ∧
      t.spm.opBusy = false ∧ t.spm.op = s.spm.op ∧ (s.pwr.st = .fire → bit t.irq.pend 7 = true) ∧ t.nvs = s.nvs)) ∧
  (∀ data image s, ∀ p ∈ spmRows data image, s.hcpFree → s.spm.opBusy = false → fld data 0 2 = p.2.1 → s.spm.op.isSome = true →
    (s.onSpm (fun m => { m with opSlot := bit data 8 })).spmRefusal (p.2.2 s.spm).kind = 0 →
    Completes p.1 s (fun t => t.spm.opBusy ∧ t.spm.progress = 0 ∧ t.spm.opWait = some (p.2.2 s.spm) ∧ t.spm.op = s.spm.op)) ∧
  (∀ data image s, ∀ p ∈ spmRows data image, s.hcpFree → s.spm.opBusy = false → fld data 0 2 = p.2.1 → s.spm.op = none →
    (s.onSpm (fun m => { m with opSlot := bit data 8 })).spmRefusal (p.2.2 s.spm).kind = 0 →
    Completes p.1 s (fun t => t.spm.opBusy ∧ t.spm.progress = 0 ∧ t.spm.opSlot = bit data 8 ∧
      ∃ o, t.spm.op = some o ∧ o.kind = (p.2.2 s.spm).kind ∧ o.addr = (p.2.2 s.spm).addr ∧ o.len = (p.2.2 s.spm).len)) ∧
  (∀ data image s, ∀ p ∈ spmRows data image, s.hcpFree → (s.spm.opBusy = true ∨ fld data 0 2 ≠ p.2.1) →
    Completes p.1 s (fun t => t = s.served))

/-- What an operation is refused for (R385): RESULT 1 goes before 2, 2 before 3, and a COMMIT is refused only for the slot in service. -/
def Sys2Proof.Stated.SpmRefusalOrder : Prop :=
∀ (s : State) (k : SpmKind), k = .program ∨ k = .erase →
    (meets s.spm.opAddr.toNat s.spm.opLen.toNat s.spm.window 0x8000 = true → s.spmRefusal k = 1) ∧
    (s.spmRefusal k = 2 → meets s.spm.opAddr.toNat s.spm.opLen.toNat s.spm.window 0x8000 = false) ∧
    (s.spmRefusal k = 0 → s.spm.opLen ≠ 0 ∧ s.spm.opAddr.toNat + s.spm.opLen.toNat ≤ s.spm.capacity ∧
      0x2000 ≤ s.spm.opAddr.toNat ∧ (k = .erase → s.spm.opAddr.toNat % 4096 = 0)) ∧
    (s.spmRefusal .commit = (if s.sched.loaded && s.spm.opSlot == s.sched.slot then 2 else 0))

/-- SPM_BUFFER_DATA, SERIAL_STATUS_POLL and SPM_OP_END (R385, R386, R389, R391): the buffer's bytes go to the device, or end the operation
BUS_ERROR; a device shown suspended, in an operation or the re-erase of a sector, is counted; one that has finished adds its bytes to PROGRESS; the end sets DONE, RESULT and source 6 or 7. -/
def Sys2Proof.Stated.SpmDeviceEvents : Prop :=
(∀ s r rest o d off n, s.live = true → takeFirst (fun (r : HdpRd) => match r.what with
      | .spmBuf _ _ => true
      | _ => false) s.hdp.reads = some (r, rest) → r.what = .spmBuf off n → s.spm.op = some o → o.kind = .program →
    o.bufWait = true → d ≠ [] →
    Completes (.spmBufferData d false) s (fun t => t.spm.op = some
      { o with bufWait := false, devBusy := true, suspended := false, suspending := false, runFrom := s.time.ns } ∧
      t.spm.sent = [s.spm.programTx (o.addr + o.reached) (slice d off n)])) ∧
  (∀ s r rest o d off n, s.live = true → takeFirst (fun (r : HdpRd) => match r.what with
      | .spmBuf _ _ => true
      | _ => false) s.hdp.reads = some (r, rest) → r.what = .spmBuf off n → s.spm.op = some o → o.kind = .program →
    o.bufWait = true →
    Completes (.spmBufferData d true) s (fun t => t.spm.opDone ∧ t.spm.opResult = 5 ∧ bit t.irq.pend 7 = true)) ∧
  (∀ s o, s.live = true → s.spm.leftover = none → s.spm.erasing = some o → o.suspending = true →
    Completes (.serialStatusPoll true true) s (fun t => t.spm.suspCnt = s.spm.suspCnt + 1 ∧ t.spm.op = s.spm.op ∧
      t.spm.erasing = some { o with suspended := true, suspending := false, suspAt := s.time.ns } ∧ s.sameBut [.spm] t)) ∧
  (∀ s o, s.live = true → s.spm.leftover = none → s.spm.erasing = none → s.spm.op = some o → o.devBusy = true → o.suspended = false →
    o.suspending = true →
    Completes (.serialStatusPoll true true) s (fun t => t.spm.suspCnt = s.spm.suspCnt + 1 ∧
      t.spm.op = some { o with suspended := true, suspending := false, suspAt := s.time.ns } ∧ s.sameBut [.spm] t)) ∧
  (∀ s o, s.live = true → s.spm.leftover = none → s.spm.erasing = none → s.spm.op = some o → o.devBusy = true → o.suspended = false →
    o.kind ≠ .consolidate → Completes (.serialStatusPoll false false) s (fun t =>
      t.spm.progress = (s.spm.progress + s.spm.chunk o) % 2 ^ 28 ∧
      ∃ q, t.spm.op = some q ∧ q.reached = (if o.len ≤ o.reached + s.spm.chunk o ∧ o.stage = 2 then 0 else o.reached + s.spm.chunk o))) ∧
  (∀ s o ok, s.live = true → s.spm.op = some o → o.kind ≠ .consolidate → o.stage = 9 → o.devBusy = false →
    Completes (.spmOpEnd ok) s (fun t => t.spm.opDone ∧ t.spm.opResult = (if o.failed = 0 && !ok then 4 else o.failed) ∧
      bit t.irq.pend (if (if o.failed = 0 && !ok then 4 else o.failed) = 0 then 6 else 7) = true)) ∧
  (∀ s o, s.live = true → s.spm.op = some o → o.kind ≠ .consolidate → o.devBusy = true →
    Completes (.spmOpEnd false) s (fun t => t.spm.opDone ∧ t.spm.opResult = 4 ∧ bit t.irq.pend 7 = true))

/-- SPM_SUSPEND and SPM_RESUME (R377, R389): a read that is needed suspends what runs at the device, an operation or the re-erase of a
sector, 100 µs after its start or last resume; it is resumed once no read waits or 20 µs have passed. -/
def Sys2Proof.Stated.SpmSuspendResume : Prop :=
(∀ s o, s.live = true → s.spm.device = some o → o.devBusy = true → o.suspended = false → o.suspending = false →
    s.spm.sfdp.suspend = true → s.readNeeded = true → s.passed o.runFrom 100000 = true →
    Completes .spmSuspend s (fun t => t.spm.device = some { o with suspending := true } ∧ t.spm.sent = [bareTx s.spm.sfdp.suspendOp] ∧
      t.spm.suspCnt = s.spm.suspCnt ∧ t.spm.progress = s.spm.progress ∧ s.sameBut [.spm] t)) ∧
  (∀ s o, s.live = true → s.spm.device = some o → o.suspended = true → (s.readNeeded = false ∨ s.passed o.suspAt 20000 = true) →
    Completes .spmResume s (fun t => t.spm.device = some { o with suspended := false, runFrom := s.time.ns } ∧
      t.spm.sent = [bareTx s.spm.sfdp.resumeOp] ∧ t.spm.suspCnt = s.spm.suspCnt ∧ s.sameBut [.spm] t)) ∧
  (∀ s, s.spm.device = none → Completes .spmSuspend s (fun t => t = s) ∧ Completes .spmResume s (fun t => t = s)) ∧
  (∀ s o, s.live = true → s.spm.device = some o → s.passed o.runFrom 100000 = false → Completes .spmSuspend s (fun t => t = s))

/-- SPM operations: what is refused, begun, suspended and ended. Where the command's event does not hold, nothing changes: the
model's choice, log 10. COMPLETION, for every state and operands that meet the hypotheses on them alone: `exec` answers a
next state, with the effect stated, for spmProgram, spmErase, spmCommit, spmBufferData, serialStatusPoll, spmOpEnd,
spmSuspend, spmResume. -/
def Obligations.SerialMemoryOperations : Prop :=
  Stated.SpmOperationWrites ∧
  Stated.SpmRefusalOrder ∧
  Stated.SpmDeviceEvents ∧
  Stated.SpmSuspendResume

/-- NVS_START_SCAN_END and SERIAL_DISCOVERY (R359, R367, R374, R375, R377, R379, R396): the regions are read; a cold start counts a boot,
and the step ends with SCANNED, RLY_BOOT and the listening once its health line is durable; of two valid option records the newer is
taken, and a program or erase found suspended is resumed. -/
def Sys2Proof.Stated.StartUpScans : Prop :=
(∀ s, s.inReset = false → s.sys.started = true → s.nvs.scanned = false → s.nvs.booting = false → s.sys.resume = false →
    Completes .nvsStartScanEnd s (fun t => t.nvs.scanned = false ∧ t.nvs.booting ∧ t.nvs.lines = s.nvs.lines ∧
      t.nvs.opens = s.nvs.scanRing.opens ∧ t.nvs.health.boot = s.nvs.scanRing.scanHealth.health.boot + 1 ∧
      (t.nvs.running.toList ++ t.nvs.queue).any (fun r => r.what == NvsWhat.health) = true ∧
      t.nvs.sparesLeft = 1024 - s.nvs.spares.length ∧ s.sameBut [.nvs] t)) ∧
  (∀ s r, s.sys.coldLow = false → s.nvs.running = some r → r.what = .health → s.nvs.booting = true →
    Completes (.nvsWriteDone true) s (fun t => t.nvs.scanned ∧ t.nvs.booting = false ∧ t.rly.boot = s.nvs.health.boot ∧
      t.psp.listenFrom = some s.time.ns ∧ t.psp.stored = s.nvs.health.epoch)) ∧
  (∀ s, s.inReset = false → s.sys.started = true → s.nvs.scanned = false → s.nvs.booting = false → s.sys.resume = true →
    Completes .nvsStartScanEnd s (fun t => t.nvs.scanned ∧ t.rly.boot = t.nvs.health.boot ∧ t.psp = s.psp ∧
      t.nvs.lines = s.nvs.lines)) ∧
  (∀ s f a b susp ra rb, s.live = true → s.sys.started = true → s.sys.resume = false → s.sys.discovered = false → 100000 ≤ s.now →
    optRecord a = some ra → optRecord b = some rb →
    Completes (.serialDiscovery f a b susp) s (fun t => t.sys.discovered ∧
      t.spm.opt = some (if newerSeq rb.seq.toNat ra.seq.toNat then rb else ra) ∧
      t.spm.optSector = newerSeq rb.seq.toNat ra.seq.toNat ∧ t.spm.sfdp = (if f.found then f else noSfdp) ∧
      t.spm.sent = (if susp then [bareTx f.resumeOp] else []) ∧ s.sameBut [.sys, .spm] t)) ∧
  (∀ s f a b susp, s.live = true → s.sys.started = true → s.sys.resume = false → s.sys.discovered = false → 100000 ≤ s.now →
    optRecord a = none → optRecord b = none →
    Completes (.serialDiscovery f a b susp) s (fun t => t.sys.discovered ∧ t.spm.opt = none))

/-- SLOT_SELECTION (R374, R377, R378, R379, R383, R384, R392): the device enters the working mode, an SCK_DIV of 0 acts as 1, and the window
opens; the slot of the higher generation is read first, slot A on a tie; with no
generation start-up stops with BOOT_FAIL and source 7. -/
def Sys2Proof.Stated.SlotSelectionCompletes : Prop :=
(∀ s r, s.live = true → s.nvs.scanned = true → s.sys.discovered = true → s.spm.xipReady = false → s.sys.resume = false →
    s.spm.opt = some r → s.openSectors = [] → (r.genA ≠ 0 ∨ r.genB ≠ 0) →
    Completes .slotSelection s (fun t => t.spm.xipReady ∧ t.spm.loading = some (decide (r.genA.toNat < r.genB.toNat)) ∧
      t.spm.genA = r.genA ∧ t.spm.genB = r.genB ∧ t.spm.xipBase = BitVec.ofNat 16 (fld r.xipBase 12 16) ∧ t.spm.sckDiv = max 1 r.sckDiv ∧
      (s.spm.waiting = none → t.spm.sent = t.spm.enterMode) ∧ t.sys = s.sys ∧ t.irq = s.irq)) ∧
  (∀ s, s.live = true → s.nvs.scanned = true → s.sys.discovered = true → s.spm.xipReady = false → s.sys.resume = false →
    s.spm.opt = none → Completes .slotSelection s (fun t => t.spm.xipReady ∧ t.spm.bootFail ∧ t.spm.loading = none ∧
      t.spm.mode = 0 ∧ t.spm.sckDiv = 8 ∧ t.spm.xipBase = 2 ∧ bit t.irq.pend 7 = true))

/-- IMAGE_LOAD_END (R6, R294, R374, R381, R383, R392, R419): a valid image goes into service with its tables, its schedules and parity, and the instance
ID; one that is not, or that an open serial-erase marker lies in, gives way to the other slot where that is left to try, else start-up
stops, or, after a Cold exit, goes on as a cold start from slot selection; the schedules have gone into the store as they came. -/
def Sys2Proof.Stated.ImageLoadCompletes : Prop :=
(∀ s slot img, s.live = true → s.spm.loading = some slot → s.spm.readable = true → imageOk img = true → imgGen img = s.spm.gen slot → s.openSectors = [] →
    Completes (.imageLoadEnd img) s (fun t => t.img = imgOf img ∧ t.spm.booted ∧ t.spm.loading = none ∧ t.spm.slot = slot ∧
      t.sched.loaded ∧ t.sched.slot = slot ∧ t.sched.store = storeOf img ∧
      (∀ l, l < 512 → (t.lun l).die = boundDie (imgOf img) l) ∧ t.rly.links = linksOf (imgOf img) ∧
      t.sys.instance_ = (if s.sys.straps = 0x7FF then BitVec.ofNat 11 (fld (BitVec.ofNat 16 (imgNum img 24 2)) 0 11) else s.sys.straps) ∧
      bit t.irq.pend 57 = true)) ∧
  (∀ s slot img, s.live = true → s.spm.loading = some slot → s.spm.readable = true → imageOk img = false → s.sys.resume = false →
    s.spm.gen (!slot) ≠ 0 → s.spm.tried.contains (!slot) = false →
    Completes (.imageLoadEnd img) s (fun t => t.spm.loading = some (!slot) ∧ t.img = s.img ∧ t.spm.booted = s.spm.booted ∧
      t.sched = (if sectionsOk img then { s.sched with store := storeOf img } else s.sched))) ∧
  (∀ s slot img, s.live = true → s.spm.loading = some slot → s.spm.readable = true → imageOk img = true → imgGen img = s.spm.gen slot →
    s.openSectors.any (inSlot slot) = true → s.sys.resume = false → s.spm.gen (!slot) ≠ 0 → s.spm.tried.contains (!slot) = false →
    Completes (.imageLoadEnd img) s (fun t => t.spm.loading = some (!slot) ∧ t.spm.passedOver = some img ∧ t.img = s.img ∧
      t.spm.booted = s.spm.booted)) ∧
  (∀ s slot img, s.live = true → s.spm.loading = some slot → s.spm.readable = true → imageOk img = false → s.sys.resume = true →
    s.spm.passedOver = none → Completes (.imageLoadEnd img) s (fun t => t.spm.loading = none ∧ t.spm.xipReady = false ∧
      t.sys = { s.sys with resume := false } ∧ t.spm.bootFail = s.spm.bootFail ∧ t.img = s.img)) ∧
  (∀ s slot img, s.live = true → s.spm.loading = some slot → s.spm.readable = true → imageOk img = false → s.sys.resume = false → s.spm.gen (!slot) = 0 →
    s.spm.passedOver = none →
    Completes (.imageLoadEnd img) s (fun t => t.spm.loading = none ∧ t.spm.bootFail ∧ bit t.irq.pend 7 = true ∧ t.img = s.img))

/-- Start-up: scans, slots and images. COMPLETION, for every state and operands that meet the hypotheses on them alone: `exec`
answers a next state, with the effect stated, for nvsStartScanEnd, nvsWriteDone, serialDiscovery, slotSelection,
imageLoadEnd. -/
def Obligations.StartUpLoads : Prop :=
  Stated.StartUpScans ∧
  Stated.SlotSelectionCompletes ∧
  Stated.ImageLoadCompletes

/-- SERIAL_SECTOR_REERASE, WASTER_TABLE_BUILD and CALIBRATION_RESTORE (R330, R331, R384, R386, R392, R398, R401): the sector leaves the list, and
no line of it is held; the tables
are built from the image, the grown records and the open markers; D, T and T_CAL are those of the newer valid snapshot. -/
def Sys2Proof.Stated.StartUpTablesBuilt : Prop :=
(∀ s o sec, s.live = true → s.spm.erasing = some o → o.addr = sec → o.suspended = false →
    Completes (.serialSectorReerase sec) s (fun t => t.sys.reerase = s.sys.reerase.filter (· != sec) ∧ t.nvs.lines = s.nvs.lines ∧
      t.spm.lines = s.spm.lines.filter (fun e => sectorOf (64 * e.1) != sec))) ∧
  (∀ s sec, s.spm.erasing = none → Completes (.serialSectorReerase sec) s (fun t => t = s)) ∧
  (∀ s, s.live = true → s.nvs.scanned = true → s.spm.booted = true → s.sys.wasters = false →
    (s.nvs.opens.filter (fun m => m.kind == 1)).length ≤ 4096 → (s.nvs.opens.filter (fun m => m.kind == 3)).length ≤ 256 →
    Completes .wasterTableBuild s (fun t => t.sys.wasters ∧ t.ldg.overflow = 0 ∧ t.ldg.nvRecords = s.nvs.records ∧
      t.ldg.crazed = (s.nvs.opens.filter (fun m => m.kind == 1)).map (fun m => locPlace m.loc m.page) ∧
      t.ldg.recovCrazed = t.ldg.crazed ∧ t.ldg.recovTorn = t.ldg.torn ∧
      (s.img.wasters.length ≤ 65536 → ∀ w ∈ s.img.wasters, ∃ v ∈ t.ldg.wasters, v.lun = w.lun ∧ v.plane = w.plane ∧
        v.block = w.block))) ∧
  (∀ s, s.live = true → s.nvs.scanned = true → s.spm.booted = true → s.sys.restored = false → s.nvs.snapValid = true →
    Completes .calibrationRestore s (fun t => t.sys.restored ∧ t.cal.d = s.nvs.snapTable 1 1024 ∧ t.cal.t = s.nvs.snapTable 1025 16 ∧
      t.cal.tCal = s.nvs.snapBytes 1041 16 ∧ (∀ c, (t.phyOf c).rate = (s.phyOf c).rate ∧ (t.phyOf c).calCode = (s.phyOf c).calCode) ∧
      s.sameBut [.sys, .cal, .phy] t)) ∧
  (∀ s, s.live = true → s.nvs.scanned = true → s.spm.booted = true → s.sys.restored = false → s.nvs.snapValid = false →
    Completes .calibrationRestore s (fun t => t = s.onSys (fun y => { y with restored := true })))

/-- DIE_CHECK and START_UP_READY (R161, R374, R434): where the die check's schedules come to their end (`x` is their run up to the ID, `y`
behind the features and the extended capabilities), a LUN whose eight ID bytes match under the mask is bound, any other is absent; READY
rises with the poll timer from now. -/
def Sys2Proof.Stated.StartUpEnds : Prop :=
(∀ s lun id ext k d v x0 f x1 x, s.live = true → s.sys.wasters = true → s.sys.restored = true → lun < 512 →
    (s.lun lun).checked = false → (s.lun lun).die = some k → s.img.dies[k]? = some d →
    (∀ l, lunChan l = lunChan lun → l < lun → (s.lun l).die = none ∨ (s.lun l).checked = true) →
    s.setUpRun lun d (some (sdrCycles ((s.img.rates[lunChan lun / 2]?).getD 0))) = (v, x0) → x0.draw s.freeCtr = (f, x1) →
    runSetUps v s.freeCtr (checkId d id f) x1 = some x → x.good = true → idMatches d (leBytes 8 x.readBack.toNat) = false →
    Completes (.dieCheck lun id ext) s (fun t => (t.lun lun).checked ∧ (t.lun lun).absent ∧ (t.lun lun).ext = false ∧
      t.hif = s.hif ∧ t.cal = s.cal ∧ t.settings = s.settings)) ∧
  (∀ s lun id ext k d v x0 f x1 x y, s.live = true → s.sys.wasters = true → s.sys.restored = true → lun < 512 →
    (s.lun lun).checked = false → (s.lun lun).die = some k → s.img.dies[k]? = some d →
    (∀ l, lunChan l = lunChan lun → l < lun → (s.lun l).die = none ∨ (s.lun l).checked = true) →
    s.setUpRun lun d (some (sdrCycles ((s.img.rates[lunChan lun / 2]?).getD 0))) = (v, x0) → x0.draw s.freeCtr = (f, x1) →
    runSetUps v s.freeCtr (checkId d id f) x1 = some x → x.good = true → idMatches d (leBytes 8 x.readBack.toNat) = true →
    runSetUps v s.freeCtr (checkFeatures d ext f) x = some y → y.good = true →
    Completes (.dieCheck lun id ext) s (fun t => (t.lun lun).checked ∧ (t.lun lun).absent = false ∧
      (t.lun lun).ext = (bit d.ifCaps 2 && BitVec.ofNat 8 (fld y.readBack 0 8) == d.extVal) ∧
      t.hif = s.hif ∧ t.cal = s.cal ∧ t.settings = s.settings)) ∧
  (∀ s, s.live = true → s.hif.ready = false → s.spm.booted = true → s.sys.wasters = true → s.sys.restored = true →
    s.pwr.padHeld = false → (∀ l, l < 512 → (s.lun l).die = none ∨ (s.lun l).checked = true) → s.cal.pending = 0 → s.cal.active = 0 →
    (∀ c, c < 32 → s.untrained c = false) →
    Completes .startUpReady s (fun t => t.hif.ready ∧ t.hif.pollFrom = s.time.ns ∧ t.sys = { s.sys with resume := false } ∧
      t.entries = s.entries ∧ t.settings = s.settings ∧ (s.hif.enableDue = true → bit s.hif.cfg 0 = true → s.hif.tableAll = false →
        t.hif.tableAll ∧ t.hif.tableWait = List.range 256)))

/-- Start-up: tables, die checks and READY. COMPLETION, for every state and operands that meet the hypotheses on them alone:
`exec` answers a next state, with the effect stated, for serialSectorReerase, wasterTableBuild, calibrationRestore, dieCheck,
startUpReady. -/
def Obligations.StartUpFinishes : Prop :=
  Stated.StartUpTablesBuilt ∧
  Stated.StartUpEnds

/-- TIME_ALARM_FIRE, TIME_COMPENSATION and TIME_AON_CORRECTION (R412, R417, R422, R423, R426): an armed alarm fires once, with source 15, and in
Fire restarts the idle timers; TIME_NS restarts from the AON count, and the poll timers have not run; the edge behind it corrects what is left. -/
def Sys2Proof.Stated.TimeRowsComplete : Prop :=
(∀ s, s.sys.coldLow = false → s.sys.started = true → s.time.running = true → s.time.arm = true → s.reached s.time.alarm = true →
    Completes .timeAlarmFire s (fun t => t.time = { s.time with arm := false, fired := true } ∧
      (s.pwr.st = .fire → t.irq.pend = s.irq.pend ||| (1#64 <<< 15) ∧ t.pwr = { s.pwr with idleSince := none }) ∧
      ((s.pwr.st = .soak ∨ s.pwr.st = .bank) → t.irq.late = s.irq.late ||| (1#64 <<< 15) ∧ t.pwr.exiting ∧ bit t.pwr.latched 4 = true))) ∧
  (∀ s, s.time.arm = false → Completes .timeAlarmFire s (fun t => t = s)) ∧
  (∀ s, s.pwr.exiting = true → s.pwr.ack = true → s.pwr.wakeOut = false → s.time.running = false → s.sys.coldLow = false →
    s.pwr.save = none → Completes .timeCompensation s (fun t => t.time.running ∧ t.time.kr = some s.time.aon ∧
      (s.time.target s.time.aon / 640 * 10 < 2 ^ 64 → t.time.sum = s.time.target s.time.aon) ∧ t.time.frac < 640 ∧
      t.hif.pollFrom = s.hif.pollFrom + (t.time.ns - s.time.t0) ∧
      (∀ i, (t.sq i).polled = (if (SMap.get? s.hif.sqs i).isSome then (s.sq i).polled + (t.time.ns - s.time.t0) else (s.sq i).polled)) ∧
      s.sameBut [.time, .hif] t)) ∧
  (∀ s k, s.time.running = true → s.time.kr = some k → Completes .timeAonCorrection s (fun t => t.time.kr = none ∧
      t.time.aon = s.time.aon + 1 ∧
      (s.time.sum ≤ s.time.target (k + 1) → s.time.target (k + 1) / 640 * 10 < 2 ^ 64 → t.time.sum = s.time.target (k + 1)) ∧
      (s.time.target (k + 1) < s.time.sum → t.time.ns = s.time.ns ∧ t.time.frac = s.time.frac ∧
        t.time.slew = s.time.slew - (((s.time.sum - s.time.target (k + 1)) / 64 : Nat) : Int))))

/-- WAKE_IN and PAD_RELEASE (R414, R417, R420, R436): a rising edge raises source 12 and wakes, or restarts the idle timers; PAD_RELEASE frees the pads and each pair of flash
channels with a LUN trains at its saved rate. -/
def Sys2Proof.Stated.PadsComplete : Prop :=
(∀ s, s.awake = true → Completes .wakeIn s (fun t =>
      (s.pwr.st = .fire → t.irq.pend = s.irq.pend ||| (1#64 <<< 12) ∧ t.pwr = { s.pwr with idleSince := none }) ∧
      (s.pwr.st ≠ .fire → t.irq.late = s.irq.late ||| (1#64 <<< 12) ∧ t.pwr.exiting ∧ bit t.pwr.latched 0 = true) ∧
      s.sameBut [.irq, .pwr] t)) ∧
  (∀ s data, s.hcpFree → s.pwr.padHeld = true → bit data 0 = true → Completes (.padRelease data) s (fun t =>
      t.pwr.padHeld = false ∧ t.pwr.padHold = false ∧
      (∀ k, k < 16 → (∃ c, (c = 2 * k ∨ c = 2 * k + 1) ∧ chanPers ((s.img.chans[c]?).getD 0) = 0 ∧ (s.chan c).fenced = false ∧
          ∃ i, i < 16 ∧ (dieOf s (16 * c + i)).isSome = true) →
        bit t.cal.pending k = true ∨ bit t.cal.active k = true) ∧ s.sameBut [.hcp, .pwr, .cal] t)) ∧
  (∀ s data, s.hcpFree → (s.pwr.padHeld = false ∨ bit data 0 = false) → Completes (.padRelease data) s (fun t => t = s.served))

/-- Alarm, compensation, WAKE_IN and the pads. Where the command's event does not hold, nothing changes: the model's choice, log
10. COMPLETION, for every state and operands that meet the hypotheses on them alone: `exec` answers a next state, with the
effect stated, for timeAlarmFire, timeCompensation, timeAonCorrection, wakeIn, padRelease. -/
def Obligations.TimeAndPadsComplete : Prop :=
  Stated.TimeRowsComplete ∧
  Stated.PadsComplete

/-- The pins in the resets (R62, R69, R77): from a cold reset on, every channel holds its dies safe by weak drive alone, and the serial
memory is in reset; in a warm reset every flash or host channel drives CE_N 1 and WP_N 0, every target channel drives nothing, and
SPM_RESET_N stays as it was. -/
def Sys2Proof.Stated.ResetsHoldPins : Prop :=
(∀ s ch, Completes .coldResetAssert s (fun t => t.chanPins ch = padsCold ∧
    t.spmPins = { sck := .low, csN := .high, dq := .hiZ, resetN := .low })) ∧
  (∀ s ch, s.sys.coldLow = false → s.pwr.st ≠ .cold → s.ldg.halted = false → s.hif.ready = true → s.spm.booted = true →
    s.pwr.padHold = false → Completes .warmResetAssert s (fun t =>
      t.chanPins ch = (if s.targetPers ch then padsOpen else padsSafe) ∧
      t.spmPins = { sck := .low, csN := .high, dq := .hiZ, resetN := s.spmPins.resetN })) ∧
  (∀ s, s.sys.coldLow = false → s.pwr.st ≠ .cold → s.pwr.padHold = false → (s.ldg.halted = true ∨ (s.hif.ready = false ∧ s.sys.resume = false)) →
    Completes .warmResetAssert s (fun t => t.spmPins = { sck := .low, csN := .high, dq := .hiZ, resetN := s.spmPins.resetN }))

/-- The pins of a channel in service (R148, R265, R420): the grant at the pins holds the CE_N line of its LUN low and every other high; a
fenced channel drives CE_N 1 and WP_N 0; under PAD_HOLD the pads stand as Cold left them. -/
def Sys2Proof.Stated.ServicePins : Prop :=
(∀ (s : State) ch g e, s.pwr.padHold = false → s.sys.coldLow = false → s.sys.warmLow = false → s.spm.booted = true →
    s.targetPers ch = false → (s.chan ch).fenced = false → bit s.cal.active (ch / 2) = false → (s.chan ch).grant = some g → e < 8 →
    (s.chanPins ch).wpN = .high ∧ (s.chanPins ch).ceN.getD e .hiZ = (if e = g.lun % 16 / 2 then .low else .high)) ∧
  (∀ (s : State) ch, s.pwr.padHold = false → s.sys.coldLow = false → s.spm.booted = true → s.targetPers ch = false →
    (s.chan ch).fenced = true → s.chanPins ch = padsSafe) ∧
  (∀ (s : State) ch, s.pwr.padHold = true →
    s.chanPins ch = (if bit s.pwr.heldIn ch then padsOpen else padsSafe) ∧ s.spmPins.resetN = .high ∧ s.spmPins.csN = .high)

/-- The pins in the resets, in service and under PAD_HOLD. Which pin of a service transfer moves is left out (log 94).
COMPLETION, for every state and operands that meet the hypotheses on them alone: `exec` answers a next state, with the effect
stated, for coldResetAssert, warmResetAssert. -/
def Obligations.PinsOfChannelsAndSerialMemory : Prop :=
  Stated.ResetsHoldPins ∧
  Stated.ServicePins
end

