-- ==== Sys2Proof/Laws/Leaves.lean ====
section
/-! SUPPORT. One view of the state and what leaves it as it is: folds, and the forms of a meaning. Keep, Entries, Frame and Steady
each say it of their own view. -/

namespace Sys2Proof.Machine

variable {σ α β γ : Type}

/-- Where no turn of a fold changes a view, the fold does not. -/
theorem fold_leaves (v : σ → β) {f : σ → α → σ} (k : ∀ s a, v (f s a) = v s) {s : σ} {x : β} (h : v s = x) (l : List α) :
    v (l.foldl f s) = x :=
  l.foldlRecOn f (motive := (v · = x)) h fun t e a _ => (k t a).trans e

/-- The same of a fold whose turns may fail. -/
theorem bindFold_leaves (v : σ → β) {g : α → σ → Option σ} (k : ∀ a s t, g a s = some t → v t = v s) {x : β} (l : List α)
    {o : Option σ} (h : ∀ s, o = some s → v s = x) : ∀ t, l.foldl (fun o a => o.bind (g a)) o = some t → v t = x :=
  l.foldlRecOn _ (motive := fun o => ∀ t, o = some t → v t = x) h fun _ ih a _ t e =>
    (Option.bind_eq_some_iff.mp e).elim fun u q => (k a u t q.2).trans (ih u q.1)

/-- A meaning that answers a next state shows `x` in the view `v`. -/
structure Res.leaves (v : State → β) (r : Res) (x : β) : Prop where
  out : ∀ t, r = .next t → v t = x

variable {v : State → β} {x : β}

theorem next_leaves {s : State} (h : v s = x) : Res.leaves v (.next s) x := ⟨fun _ e => Host.Outcome.next.inj e ▸ h⟩

theorem fault_leaves (f : Fault) : Res.leaves v (.fault f) x := ⟨fun _ e => by cases e⟩

theorem runRes_leaves {o : Option State} (h : ∀ t, o = some t → v t = x) : Res.leaves v (runRes o) x :=
  match o, h with
  | none, _ => fault_leaves _
  | some t, h => next_leaves (h t rfl)

theorem onlyIf_leaves {c : Bool} {f : State → State} {s : State} (h : v s = x) (k : v s = x → v (f s) = x) :
    Res.leaves v (onlyIf c f s) x := match c with
  | true => next_leaves (s := f s) (k h)
  | false => next_leaves (s := s) h

theorem ite_leaves {c : Prop} [Decidable c] {a b : γ} {w : γ → β} (h : w a = x) (k : w b = x) : w (if c then a else b) = x := by
  rw [apply_ite w, h, k, ite_self]

end Sys2Proof.Machine
end

