-- ==== Sys2Proof/Laws/Entries.lean ====
section
/-! SUPPORT. What keeps the ledger's entries (`State.entries`, Sys2Proof/Safety.lean): the allocation map and the identity of
every unit and command. `f_ids` says that `f` takes, frees and renames no entry. Here: each block's update, folds, and the forms
of a meaning. -/

namespace Sys2Proof.Machine

theorem SMap.upd_map {α β : Type} (g : α → β) (m : SMap α) (k : Nat) (f : α → α) (h : ∀ a, g (f a) = g a) :
    (SMap.upd m k f).map (fun e => (e.1, g e.2)) = m.map (fun e => (e.1, g e.2)) := by
  unfold SMap.upd
  rw [List.map_map]
  refine List.map_congr_left (fun e _ => ?_)
  simp only [Function.comp]
  split <;> simp [h]

@[simp] theorem State.onSys_ids (f) (s : State) : (State.onSys f s).entries = s.entries := rfl
@[simp] theorem State.onHcp_ids (f) (s : State) : (State.onHcp f s).entries = s.entries := rfl
@[simp] theorem State.onHif_ids (f) (s : State) : (State.onHif f s).entries = s.entries := rfl
@[simp] theorem State.onHdp_ids (f) (s : State) : (State.onHdp f s).entries = s.entries := rfl
@[simp] theorem State.onIrq_ids (f) (s : State) : (State.onIrq f s).entries = s.entries := rfl
@[simp] theorem State.onPwr_ids (f) (s : State) : (State.onPwr f s).entries = s.entries := rfl
@[simp] theorem State.onTime_ids (f) (s : State) : (State.onTime f s).entries = s.entries := rfl
@[simp] theorem State.onPool_ids (f) (s : State) : (State.onPool f s).entries = s.entries := rfl
@[simp] theorem State.onDec_ids (f) (s : State) : (State.onDec f s).entries = s.entries := rfl
@[simp] theorem State.onCal_ids (f) (s : State) : (State.onCal f s).entries = s.entries := rfl
@[simp] theorem State.onImg_ids (f) (s : State) : (State.onImg f s).entries = s.entries := rfl
@[simp] theorem State.onLuns_ids (f) (s : State) : (State.onLuns f s).entries = s.entries := rfl
@[simp] theorem State.onChe_ids (f) (s : State) : (State.onChe f s).entries = s.entries := rfl
@[simp] theorem State.onPhy_ids (f) (s : State) : (State.onPhy f s).entries = s.entries := rfl
@[simp] theorem State.onPairs_ids (f) (s : State) : (State.onPairs f s).entries = s.entries := rfl
@[simp] theorem State.onSched_ids (f) (s : State) : (State.onSched f s).entries = s.entries := rfl
@[simp] theorem State.onRly_ids (f) (s : State) : (State.onRly f s).entries = s.entries := rfl
@[simp] theorem State.onPsp_ids (f) (s : State) : (State.onPsp f s).entries = s.entries := rfl
@[simp] theorem State.onSpm_ids (f) (s : State) : (State.onSpm f s).entries = s.entries := rfl
@[simp] theorem State.onNvs_ids (f) (s : State) : (State.onNvs f s).entries = s.entries := rfl
@[simp] theorem State.onDma_ids (f) (s : State) : (State.onDma f s).entries = s.entries := rfl
@[simp] theorem State.onJtag_ids (f) (s : State) : (State.onJtag f s).entries = s.entries := rfl
@[simp] theorem State.onFreeCtr_ids (f) (s : State) : (State.onFreeCtr f s).entries = s.entries := rfl
theorem Ldg.entries_congr {a b : Ldg} (h1 : a.gens = b.gens) (h2 : a.units = b.units) (h3 : a.cmds = b.cmds) :
    a.entries = b.entries := by
  unfold Ldg.entries; rw [h1, h2, h3]
theorem State.onLdg_ids (f : Ldg → Ldg) (s : State) (h : (f s.ldg).entries = s.ldg.entries) :
    (State.onLdg f s).entries = s.entries := h
theorem State.onLdg_ids' (f : Ldg → Ldg) (s : State) (x : Entries) (h : (f s.ldg).entries = s.ldg.entries)
    (k : s.entries = x) : (State.onLdg f s).entries = x := h.trans k
@[simp] theorem State.onUnit_ids (ix : Nat) (f : LUnit → LUnit) (s : State) (h : ∀ u, (f u).ident = u.ident) :
    (s.onUnit ix f).entries = s.entries := by
  simp only [State.entries, Ldg.entries, State.onUnit, State.onLdg, SMap.upd_map LUnit.ident _ _ _ h]
theorem State.onUnit_ids' (ix : Nat) (f : LUnit → LUnit) (s : State) (x : Entries) (h : ∀ u, (f u).ident = u.ident)
    (k : s.entries = x) : (s.onUnit ix f).entries = x := (State.onUnit_ids ix f s h).trans k
@[simp] theorem State.onCmd_ids (ix : Nat) (f : Cmd → Cmd) (s : State) (h : ∀ c, (f c).ident = c.ident) :
    (s.onCmd ix f).entries = s.entries := by
  simp only [State.entries, Ldg.entries, State.onCmd, State.onLdg, SMap.upd_map Cmd.ident _ _ _ h]
theorem State.onCmd_ids' (ix : Nat) (f : Cmd → Cmd) (s : State) (x : Entries) (h : ∀ c, (f c).ident = c.ident)
    (k : s.entries = x) : (s.onCmd ix f).entries = x := (State.onCmd_ids ix f s h).trans k

theorem foldl_ids {α : Type} (f : State → α → State) (l : List α) (h : ∀ s a, (f s a).entries = s.entries) (s :
    State) :
    (l.foldl f s).entries = s.entries := fold_leaves State.entries h rfl l

theorem fold_ids {α : Type} (f : State → α → State) (l : List α) (s : State) (x : Entries) (h : s.entries = x)
    (k : ∀ s a, (f s a).entries = s.entries) : (l.foldl f s).entries = x := fold_leaves State.entries k h l

theorem fold1_ids {α β : Type} (f : State × β → α → State × β) (l : List α) (p : State × β) (x : Entries)
    (h : p.1.entries = x) (k : ∀ p a, (f p a).1.entries = p.1.entries) : (l.foldl f p).1.entries = x :=
  fold_leaves (fun p : State × β => p.1.entries) k h l

theorem split_var_ids (y : State) (x : Entries) (A : State) (h : y.entries = x) (k : y.entries = x → A.entries = x) :
    A.entries = x := k h

theorem ite_ids (c : Prop) [Decidable c] (a b : State) (x : Entries) (h : a.entries = x) (k : b.entries = x) :
    (if c then a else b).entries = x := ite_leaves (w := State.entries) h k

/-- A meaning that answers a next state leaves the entries as `x`. -/
abbrev Res.ids (r : Res) (x : Entries) : Prop := Res.leaves State.entries r x

theorem next_ids (s : State) (x : Entries) (h : s.entries = x) : Res.ids (.next s) x := next_leaves h

theorem fault_ids (f : Fault) (x : Entries) : Res.ids (.fault f) x := fault_leaves f

theorem onlyIf_ids (c : Bool) (f : State → State) (s : State) (x : Entries) (h : s.entries = x)
    (k : s.entries = x → (f s).entries = x) : Res.ids (onlyIf c f s) x := onlyIf_leaves h k

theorem hcpAccess_ids (f : State → State) (s : State) (x : Entries) (h : s.entries = x)
    (k : ∀ t, t.entries = x → (f t).entries = x) : Res.ids (hcpAccess f s) x :=
  onlyIf_ids _ _ _ _ h (fun h => k _ h)

theorem runRes_ids (o : Option State) (x : Entries) (h : ∀ t, o = some t → t.entries = x) : Res.ids (runRes o) x :=
  runRes_leaves h

theorem split_res_ids (y : State) (x : Entries) (A : Res) (h : y.entries = x) (k : y.entries = x → Res.ids A x) :
    Res.ids A x := k h

theorem bindFold_ids {α : Type} (g : α → State → Option State)
    (h : ∀ a s t, g a s = some t → t.entries = s.entries) (l : List α) (o : Option State) (x : Entries)
    (k : ∀ s, o = some s → s.entries = x) : ∀ t, l.foldl (fun o a => o.bind (g a)) o = some t → t.entries = x :=
  bindFold_leaves State.entries h l k

end Sys2Proof.Machine
end

