-- ==== Sys2Proof/Laws/EntriesOps.lean ====
section
/-! SUPPORT. The entries are kept: the shared operations, the DMA chains and the rings. -/

namespace Sys2Proof.Machine

/-! ## Ops -/

@[simp] theorem State.wake_ids (cause : Nat) (s : State) : (State.wake cause s).entries = s.entries := by
  unfold State.wake
  repeat' split
  all_goals rfl
theorem State.actionWrite_ids (c : State → Bool) (f : State → State) (s : State) (x : Entries)
    (k : (f s).entries = x) : (State.actionWrite c f s).entries = x := by
  unfold State.actionWrite
  split
  · exact (State.wake_ids _ _).trans k
  · exact k
theorem hcpAction_ids (c : State → Bool) (f : State → State) (s : State) (x : Entries) (h : s.entries = x)
    (k : ∀ t, t.entries = x → (f t).entries = x) : Res.ids (hcpAction c f s) x :=
  hcpAccess_ids _ _ _ h (fun t ht => State.actionWrite_ids _ _ _ _ (k t ht))
@[simp] theorem State.raise_ids (n : Nat) (s : State) : (State.raise n s).entries = s.entries := by
  unfold State.raise
  split <;> rfl
@[simp] theorem State.drawFree_ids (s : State) :
    s.drawFree.2.entries = s.entries := rfl
@[simp] theorem State.drawBytes_ids (n : Nat) (s : State) :
    (s.drawBytes n).2.entries = s.entries := rfl
theorem State.onEvent_ids (l : Nat) (e : Option Event) (f : State → State) (s : State) (x : Entries)
    (h : s.entries = x) (k : (f s).entries = x) : Res.ids (s.onEvent l e f) x := by
  unfold State.onEvent
  split
  · exact onlyIf_ids _ _ _ _ h fun h => (State.wake_ids _ _).trans h
  · exact onlyIf_ids _ _ _ _ h fun _ => k
@[simp] theorem State.stale_ids (s : State) : (State.stale s).entries = s.entries := rfl
@[simp] theorem State.ecc_ids (e : Ecc) (s : State) : (State.ecc e s).entries = s.entries := by
  unfold State.ecc
  split <;> rfl
@[simp] theorem State.hdpRead_ids (r : HdpRd) (s : State) : (State.hdpRead r s).entries = s.entries := rfl
@[simp] theorem State.hdpWrite_ids (w : HdpWr) (s : State) : (State.hdpWrite w s).entries = s.entries := rfl
@[simp] theorem State.refill_ids (s : State) :
    (s.refill).entries = s.entries := by
  unfold State.refill
  split <;> rfl
theorem State.popRead_ids {p : HdpRd → Bool} {s t : State} {r : HdpRd} (h : s.popRead p = some (r, t)) :
    t.entries = s.entries := by
  simp only [State.popRead, Option.map_eq_some_iff, Prod.mk.injEq] at h
  obtain ⟨a, -, -, rfl⟩ := h
  exact State.refill_ids _
theorem State.popTag_ids {tag : Nat} {p : HdpRd → Bool} {s t : State} {r : HdpRd} (h :
    s.popTag tag p = some (r, t)) : t.entries = s.entries := by
  exact State.popRead_ids h
theorem State.popWrite_ids {id : Nat} {s t : State} {w : HdpWr} (h : s.popWrite id = some (w, t)) :
    t.entries = s.entries := by
  simp only [State.popWrite, Option.map_eq_some_iff, Prod.mk.injEq] at h
  obtain ⟨a, -, -, rfl⟩ := h; rfl
@[simp] theorem State.hifError_ids (kind ring addr : Nat) (s : State) :
    (State.hifError kind ring addr s).entries = s.entries := by
  unfold State.hifError
  split <;> rfl
@[simp] theorem State.onChan_ids (c : Nat) (f : Chan → Chan) (s : State) :
    (State.onChan c f s).entries = s.entries := rfl
@[simp] theorem State.onLun_ids (l : Nat) (f : Lun → Lun) (s : State) : (State.onLun l f s).entries = s.entries := rfl
@[simp] theorem State.onPhyOf_ids (c : Nat) (f : Phy → Phy) (s : State) :
    (State.onPhyOf c f s).entries = s.entries := rfl
@[simp] theorem State.onPair_ids (k : Nat) (f : Pair → Pair) (s : State) :
    (State.onPair k f s).entries = s.entries := rfl
@[simp] theorem State.onSq_ids (i : Nat) (f : Sq → Sq) (s : State) : (State.onSq i f s).entries = s.entries := rfl
@[simp] theorem State.onCq_ids (i : Nat) (f : Cq → Cq) (s : State) : (State.onCq i f s).entries = s.entries := rfl
@[simp] theorem State.onPeck_ids (p : Nat) (f : Peck → Peck) (s : State) :
    (State.onPeck p f s).entries = s.entries := rfl

/-! ## PoolOps -/

@[simp] theorem State.considerHead_ids (c : Nat) (s : State) : (State.considerHead c s).entries = s.entries := by
  unfold State.considerHead
  repeat' split
  all_goals rfl
@[simp] theorem State.askPecks_ids (c ix k : Nat) (s : State) : (State.askPecks c ix k s).entries = s.entries := by
  unfold State.askPecks
  repeat' split
  all_goals simp
@[simp] theorem State.dropAsks_ids (c ix : Nat) (s : State) :
    (State.dropAsks c ix s).entries = s.entries := by simp [State.dropAsks]
@[simp] theorem State.release_ids (ps : List Nat) (s : State) :
    (State.release ps s).entries = s.entries := foldl_ids _ _ (fun _ _ => by simp) _
@[simp] theorem State.allocPeck_ids (ix : Nat) (u : LUnit) (sense : Bool) (p cw : Nat) (s : State) :
    (State.allocPeck ix u sense p cw s).entries = s.entries := rfl
@[simp] theorem State.notePecks_ids (c : Nat) (s : State) : (State.notePecks c s).entries = s.entries := rfl
@[simp] theorem State.givePecks_ids (ix : Nat) (ps : List Nat) (s : State) :
    (State.givePecks ix ps s).entries = s.entries := by
  unfold State.givePecks
  repeat' (first
    | with_reducible rfl | (intro _; intros) | split | (with_reducible refine State.onUnit_ids' _ _ _ _ ?_ ?_)
    | (with_reducible refine fold_ids _ _ _ _ ?_ ?_) | simp)
@[simp] theorem State.dropSense_ids (ix : Nat) (cw : Option Nat) (s : State) :
    (State.dropSense ix cw s).entries = s.entries := by simp [State.dropSense]

/-! ## NvsOps -/

@[simp] theorem State.nvsStart_ids (s : State) : (State.nvsStart s).entries = s.entries := by
  unfold State.nvsStart
  repeat' (first | rfl | split | simp)
@[simp] theorem State.nvsAsk_ids (what : NvsWhat) (line : Nat) (data : BitVec 256) (s : State) :
    (State.nvsAsk what line data s).entries = s.entries := by simp [State.nvsAsk]
@[simp] theorem State.nvsMarker_ids (unit : Option Nat) (kind loc page : Nat) (s : State) :
    (State.nvsMarker unit kind loc page s).entries = s.entries := by simp [State.nvsMarker]
@[simp] theorem State.nvsMarkerAgain_ids (ix kind loc page : Nat) (s : State) :
    (State.nvsMarkerAgain ix kind loc page s).entries = s.entries := by simp [State.nvsMarkerAgain]
@[simp] theorem State.nvsHealth_ids (f : Health → Health) (s : State) :
    (State.nvsHealth f s).entries = s.entries := by simp [State.nvsHealth]
@[simp] theorem State.growWaster_ids (ix : Option Nat) (a : BitVec 64) (cause : Nat) (s : State) :
    (State.growWaster ix a cause s).entries = s.entries := by
  unfold State.growWaster
  repeat' (first | rfl | split | simp)
@[simp] theorem State.wantSnapshot_ids (s : State) : (State.wantSnapshot s).entries = s.entries := rfl
@[simp] theorem State.autoSnapshot_ids (s : State) : (State.autoSnapshot s).entries = s.entries := by
  unfold State.autoSnapshot
  split <;> rfl

/-! ## Units -/

@[simp] theorem State.enlist_ids (ix : Nat) (again : Bool) (s : State) :
    (State.enlist ix again s).entries = s.entries := by
  unfold State.enlist
  repeat' split
  all_goals rfl
@[simp] theorem State.prepare_ids (l : Nat) (s : State) : (State.prepare l s).entries = s.entries := by
  unfold State.prepare
  repeat' (first
    | with_reducible rfl | (intro _; intros) | split | (with_reducible refine State.onUnit_ids' _ _ _ _ ?_ ?_)
    | (with_reducible refine fold_ids _ _ _ _ ?_ ?_) | simp)
@[simp] theorem State.decideSuspend_ids (l : Nat) (s : State) : (State.decideSuspend l s).entries = s.entries := by
  unfold State.decideSuspend
  repeat' (first | rfl | split | simp)
@[simp] theorem State.placeMerge_ids (l : Nat) (s : State) : (State.placeMerge l s).entries = s.entries := rfl
@[simp] theorem State.latchResume_ids (l : Nat) (s : State) : (State.latchResume l s).entries = s.entries := rfl
@[simp] theorem State.headEvent_ids (l : Nat) (s : State) :
    (State.headEvent l s).entries = s.entries := by simp [State.headEvent]
@[simp] theorem State.withdraw_ids (l ix : Nat) (s : State) : (State.withdraw l ix s).entries = s.entries := rfl
@[simp] theorem State.unlist_ids (ix : Nat) (s : State) : (State.unlist ix s).entries = s.entries := by
  unfold State.unlist
  dsimp only
  repeat' split
  all_goals simp
@[simp] theorem State.link_ids (ix : Nat) (s : State) : (State.link ix s).entries = s.entries := by
  unfold State.link
  repeat' (first | rfl | split | simp)
@[simp] theorem State.linkAgain_ids (ix : Nat) (s : State) : (State.linkAgain ix s).entries = s.entries := by
  unfold State.linkAgain
  repeat' (first | rfl | split | simp)
@[simp] theorem State.patrolEnded_ids (u : LUnit) (status : Status) (s : State) :
    (State.patrolEnded u status s).entries = s.entries := rfl
@[simp] theorem State.endUnit_ids (ix : Nat) (st : UState) (status : Status) (failCw : Nat) (s : State) :
    (State.endUnit ix st status failCw s).entries = s.entries := by
  unfold State.endUnit
  repeat' split
  all_goals simp
@[simp] theorem State.stopAfter_ids (ctx pos : Nat) (s : State) :
    (State.stopAfter ctx pos s).entries = s.entries := by
  unfold State.stopAfter
  repeat' (first
    | with_reducible rfl | (intro _; intros) | split | (with_reducible refine State.onCmd_ids' _ _ _ _ ?_ ?_)
    | (with_reducible refine fold_ids _ _ _ _ ?_ ?_) | simp)
@[simp] theorem State.finish_ids (ix : Nat) (status : Status) (failCw : Nat) (s : State) :
    (State.finish ix status failCw s).entries = s.entries := by
  unfold State.finish
  repeat' split
  all_goals simp
@[simp] theorem State.failWhole_ids (ctx : Nat) (status : Status) (s : State) :
    (State.failWhole ctx status s).entries = s.entries := by
  unfold State.failWhole
  repeat' (first
    | with_reducible rfl | (intro _; intros) | split | (with_reducible refine State.onCmd_ids' _ _ _ _ ?_ ?_)
    | (with_reducible refine fold_ids _ _ _ _ ?_ ?_) | simp)

/-! ## Chain -/

@[simp] theorem State.onChain_ids (id : ChainId) (f : Chain → Chain) (s : State) :
    (State.onChain id f s).entries = s.entries := by
  unfold State.onChain
  cases id <;> rfl
@[simp] theorem State.putOff_ids (id : ChainId) (f : Failed) (s : State) :
    (State.putOff id f s).entries = s.entries := rfl
@[simp] theorem State.loseAccess_ids (f : Failed) (s : State) : (State.loseAccess f s).entries = s.entries := rfl
theorem State.answerGone_ids (s : State) : Res.ids s.answerGone (s.entries) := by
  unfold State.answerGone
  split
  · exact onlyIf_ids _ _ _ _ rfl fun _ => State.popRead_ids (by assumption)
  · exact next_ids _ _ rfl
@[simp] theorem State.chainRead_ids (id : ChainId) (what : RdWhat) (addr size : Nat) (s : State) :
    (State.chainRead id what addr size s).entries = s.entries := by
  unfold State.chainRead
  repeat' split
  all_goals rfl
@[simp] theorem State.chainWrite_ids (id : ChainId) (what : WrWhat) (addr : Nat) (bytes : List Byte) (s : State) :
    (State.chainWrite id what addr bytes s).entries = s.entries := by
  unfold State.chainWrite
  repeat' split
  all_goals rfl
@[simp] theorem State.writeLines_ids (id : ChainId) (what : Nat → WrWhat) (addr : Nat) (bs : List Byte) (s : State) :
    (State.writeLines id what addr bs s).entries = s.entries := foldl_ids _ _ (fun _ _ => by simp) _
@[simp] theorem State.writeRun_ids (id : ChainId) (what : WrWhat) (addr : Nat) (bs : List Byte) (s : State) :
    (State.writeRun id what addr bs s).entries = s.entries := by simp [State.writeRun]
@[simp] theorem State.readSeg_ids (id : ChainId) (s : State) : (State.readSeg id s).entries = s.entries := by
  unfold State.readSeg
  repeat' split
  all_goals simp
@[simp] theorem State.readLink_ids (id : ChainId) (a : Nat) (s : State) :
    (State.readLink id a s).entries = s.entries := by
  unfold State.readLink
  repeat' split
  all_goals simp
@[simp] theorem State.writeBacks_ids (id : ChainId) (s : State) : (State.writeBacks id s).entries = s.entries := by
  unfold State.writeBacks
  repeat' (first
    | with_reducible rfl | (intro _; intros) | split | (with_reducible refine fold_ids _ _ _ _ ?_ ?_) | simp)
@[simp] theorem State.advance_ids (id : ChainId) (beyond : Bool) (s : State) :
    (State.advance id beyond s).entries = s.entries := by
  unfold State.advance
  repeat' split
  all_goals simp
@[simp] theorem State.dmaLess_ids (ix cw n : Nat) (s : State) : (State.dmaLess ix cw n s).entries = s.entries := by
  unfold State.dmaLess
  repeat' (first | rfl | split | simp)
@[simp] theorem State.dmaDones_ids (ctx : Nat) (s : State) : (State.dmaDones ctx s).entries = s.entries := by
  unfold State.dmaDones
  repeat' (first
    | with_reducible rfl | (intro _; intros) | split | (with_reducible refine fold_ids _ _ _ _ ?_ ?_) | simp)
@[simp] theorem State.pushOne_ids (id : ChainId) (s : State) (d : Deliver) :
    (State.pushOne id s d).entries = s.entries := by
  unfold State.pushOne
  repeat' (first
    | with_reducible rfl | (intro _; intros) | split | (with_reducible refine fold_ids _ _ _ _ ?_ ?_) | simp)
@[simp] theorem State.pullOne_ids (id : ChainId) (s : State) (d : Deliver) :
    (State.pullOne id s d).entries = s.entries := by
  unfold State.pullOne
  repeat' (first
    | with_reducible rfl | (intro _; intros) | split | (with_reducible refine fold_ids _ _ _ _ ?_ ?_) | simp)
@[simp] theorem State.pump_ids (id : ChainId) (s : State) :
    (State.pump id s).entries = s.entries := by
  unfold State.pump
  split
  · rfl
  · split
    · rfl
    · have key : ∀ (l : List Deliver) (c : Bool) (t : State),
          (l.foldl (if c then State.pullOne id else State.pushOne id) t).entries = t.entries := by
        intro l c t
        refine foldl_ids _ _ ?_ _
        intro a d
        cases c <;> simp
      simp only []
      split <;> simp [key]
@[simp] theorem State.deliver_ids (id : ChainId) (ix cw off len : Nat) (bytes : List Byte) (s : State) :
    (State.deliver id ix cw off len bytes s).entries = s.entries := by
  unfold State.deliver
  repeat' split
  all_goals simp
@[simp] theorem State.want_ids (id : ChainId) (ix cw off len : Nat) (s : State) :
    (State.want id ix cw off len s).entries = s.entries := by simp [State.want]
@[simp] theorem State.openChain_ids (ctx : Nat) (h : Chain) (s : State) :
    (State.openChain ctx h s).entries = s.entries := by simp [State.openChain]
@[simp] theorem State.endShort_ids (id : ChainId) (s : State) :
    (State.endShort id s).entries = s.entries := by simp [State.endShort]
@[simp] theorem State.closeChain_ids (ctx : Nat) (s : State) : (State.closeChain ctx s).entries = s.entries := by
  unfold State.closeChain
  repeat' split
  all_goals simp
@[simp] theorem State.haltChain_ids (ctx : Nat) (f : Failed) (s : State) :
    (State.haltChain ctx f s).entries = s.entries := by
  unfold State.haltChain
  repeat' (first | rfl | split | simp)
@[simp] theorem State.reissue_ids (s : State) (f : Failed) :
    (State.reissue s f).entries = s.entries := by
  unfold State.reissue
  repeat' split
  all_goals first | rfl | simp

/-! ## Rings -/

@[simp] theorem State.applyCq_ids (i : Nat) (e : BitVec 512) (s : State) :
    (State.applyCq i e s).entries = s.entries := by
  unfold State.applyCq
  split <;> rfl
@[simp] theorem State.applySq_ids (i : Nat) (e : BitVec 512) (s : State) :
    (State.applySq i e s).entries = s.entries := by
  unfold State.applySq
  split <;> rfl
@[simp] theorem State.readTable_ids (s : State) : (State.readTable s).entries = s.entries := by
  unfold State.readTable
  repeat' (first | (intro _; intros) | split | (with_reducible refine fold_ids _ _ _ _ ?_ ?_) | simp)
@[simp] theorem State.startCycle_ids (polls : List Nat) (all : Bool) (s : State) :
    (State.startCycle polls all s).entries = s.entries := by
  unfold State.startCycle
  split <;> rfl
@[simp] theorem State.startAgain_ids (s : State) : (State.startAgain s).entries = s.entries := by
  unfold State.startAgain
  split <;> simp
@[simp] theorem State.applyTable_ids (s : State) :
    (s.applyTable).entries = s.entries := by
  unfold State.applyTable
  extract_lets entry got step1 step2 s1
  have h2 : s1.entries = s.entries := by
    refine (State.onHif_ids _ _).trans ?_
    refine fold1_ids _ _ _ _ (fold1_ids _ _ _ _ rfl ?_) ?_ <;>
      (intro p a; split <;> simp)
  split
  · simpa using h2
  · simpa using h2
@[simp] theorem State.writeHifCfg_ids (data : Word) (s : State) : (State.writeHifCfg data s).entries = s.entries := by
  unfold State.writeHifCfg
  dsimp only
  split <;> simp
@[simp] theorem State.writeRingCmd_ids (data : Word) (s : State) :
    (State.writeRingCmd data s).entries = s.entries := by
  unfold State.writeRingCmd
  repeat' split
  all_goals rfl
@[simp] theorem State.ringEntryIn_ids (r : Nat) (e : Option (BitVec 512)) (s : State) :
    (State.ringEntryIn r e s).entries = s.entries := by
  unfold State.ringEntryIn
  repeat' (first | with_reducible rfl | split | simp | with_reducible exact State.popRead_ids (by assumption))
@[simp] theorem State.endCycle_ids (s : State) : (State.endCycle s).entries = s.entries := by
  unfold State.endCycle
  repeat' split
  all_goals simp
@[simp] theorem State.reOwn_ids (id : ChainId) (s : State) : (State.reOwn id s).entries = s.entries := by
  unfold State.reOwn
  repeat' split
  all_goals simp
@[simp] theorem State.reRead_ids (sqs : List Nat) (s : State) : (State.reRead sqs s).entries = s.entries := by
  unfold State.reRead
  repeat' (first
    | with_reducible rfl | (intro _; intros) | split | (with_reducible refine fold_ids _ _ _ _ ?_ ?_) | simp)
@[simp] theorem State.summaryIn_ids (bits : BitVec 256) (s : State) :
    (State.summaryIn bits s).entries = s.entries := by
  unfold State.summaryIn
  repeat' (first
    | with_reducible rfl | (intro _; intros) | split | (with_reducible refine fold_ids _ _ _ _ ?_ ?_) | simp)
@[simp] theorem State.tailsIn_ids (b : Nat) (ts : List Word) (s : State) :
    (State.tailsIn b ts s).entries = s.entries := by
  unfold State.tailsIn
  repeat' (first
    | with_reducible rfl | (intro _; intros) | split | (with_reducible refine fold_ids _ _ _ _ ?_ ?_) | simp)
@[simp] theorem State.headsIn_ids (b : Nat) (hs : List Word) (s : State) :
    (State.headsIn b hs s).entries = s.entries := by
  unfold State.headsIn
  repeat' (first
    | with_reducible rfl | (intro _; intros) | split | (with_reducible refine fold_ids _ _ _ _ ?_ ?_) | simp)
@[simp] theorem State.abandonCycle_ids (s : State) :
    (State.abandonCycle s).entries = s.entries := by simp [State.abandonCycle]
theorem execHifEnable_ids (data : Word) (s : State) : Res.ids (execHifEnable data s) s.entries := by
  unfold execHifEnable
  repeat' (first
    | with_reducible assumption | with_reducible rfl | (intro _; intros)
    | (with_reducible refine hcpAccess_ids _ _ _ ?_ ?_) | split | simp)
theorem execHifDisable_ids (data : Word) (s : State) : Res.ids (execHifDisable data s) s.entries := by
  unfold execHifDisable
  repeat' (first
    | with_reducible assumption | with_reducible rfl | (intro _; intros)
    | (with_reducible refine hcpAccess_ids _ _ _ ?_ ?_) | split | simp)
theorem execRingLoad_ids (data : Word) (s : State) : Res.ids (execRingLoad data s) s.entries := by
  unfold execRingLoad
  repeat' (first
    | with_reducible assumption | with_reducible rfl | (intro _; intros)
    | (with_reducible refine hcpAction_ids _ _ _ _ ?_ ?_) | split | simp)
theorem execRingStop_ids (data : Word) (s : State) : Res.ids (execRingStop data s) s.entries := by
  unfold execRingStop
  repeat' (first
    | with_reducible assumption | with_reducible rfl | (intro _; intros)
    | (with_reducible refine hcpAction_ids _ _ _ _ ?_ ?_) | split | simp)
theorem execRingTableData_ids (ring : Nat) (entry : BitVec 512) (s : State) :
    Res.ids (execRingTableData ring entry s) s.entries := onlyIf_ids _ _ _ _ rfl (fun _ => by simp)
theorem execRingTableReadError_ids (ring : Nat) (s : State) :
    Res.ids (execRingTableReadError ring s) s.entries := onlyIf_ids _ _ _ _ rfl (fun _ => by simp)
@[simp] theorem State.overtake_ids (p : Nat → Bool) (s : State) : (State.overtake p s).entries = s.entries := rfl
@[simp] theorem State.writePredInv_ids (v : Word) (s : State) : (State.writePredInv v s).entries = s.entries := rfl
theorem execPredInvalidate_ids (data : Word) (s : State) : Res.ids (execPredInvalidate data s) s.entries := by
  unfold execPredInvalidate
  repeat' (first
    | with_reducible assumption | with_reducible rfl | (intro _; intros)
    | (with_reducible refine hcpAction_ids _ _ _ _ ?_ ?_) | split | simp)
theorem execPredInvalidateAll_ids (data : Word) (s : State) : Res.ids (execPredInvalidateAll data s) s.entries := by
  unfold execPredInvalidateAll
  repeat' (first
    | with_reducible assumption | with_reducible rfl | (intro _; intros)
    | (with_reducible refine hcpAction_ids _ _ _ _ ?_ ?_) | split | simp)
@[simp] theorem State.clearHifFault_ids (s : State) :
    (State.clearHifFault s).entries = s.entries := foldl_ids _ _ (fun _ _ => by simp) _
theorem execHifFaultClear_ids (data : Word) (s : State) : Res.ids (execHifFaultClear data s) s.entries := by
  unfold execHifFaultClear
  repeat' (first
    | with_reducible assumption | with_reducible rfl | (intro _; intros)
    | (with_reducible refine hcpAccess_ids _ _ _ ?_ ?_) | split | simp)
theorem execKickIn_ids (s : State) : Res.ids (execKickIn s) s.entries := by
  unfold execKickIn
  repeat' (first
    | with_reducible rfl | (intro _; intros) | (with_reducible refine onlyIf_ids _ _ _ _ ?_ ?_) | split | simp)
@[simp] theorem State.pollDue_ids (sqs : List Nat) (all : Bool) (s : State) :
    (State.pollDue sqs all s).entries = s.entries := by
  unfold State.pollDue
  split <;> simp
theorem execPollTimerExpiry_ids (s : State) :
    Res.ids (execPollTimerExpiry s) s.entries := onlyIf_ids _ _ _ _ rfl (fun _ => by simp)
theorem execSqPollExpiry_ids (sq : Nat) (s : State) :
    Res.ids (execSqPollExpiry sq s) s.entries := onlyIf_ids _ _ _ _ rfl (fun _ => by simp)
theorem execSummarySwapData_ids (bits : BitVec 256) (s : State) : Res.ids (execSummarySwapData bits s) s.entries := by
  unfold execSummarySwapData
  repeat' (first
    | with_reducible rfl | (with_reducible refine next_ids _ _ ?_) | split | simp
    | with_reducible exact State.popRead_ids (by assumption))
theorem execTailBlockData_ids (block : Nat) (tails : List Word) (s : State) :
    Res.ids (execTailBlockData block tails s) s.entries := by
  unfold execTailBlockData
  repeat' (first
    | with_reducible rfl | (with_reducible refine next_ids _ _ ?_) | with_reducible exact State.answerGone_ids _
    | split | simp | with_reducible exact State.popRead_ids (by assumption))
theorem execCqHeadData_ids (block : Nat) (heads : List Word) (s : State) :
    Res.ids (execCqHeadData block heads s) s.entries := by
  unfold execCqHeadData
  repeat' (first
    | with_reducible rfl | (with_reducible refine next_ids _ _ ?_) | with_reducible exact State.answerGone_ids _
    | split | simp | with_reducible exact State.popRead_ids (by assumption))
theorem State.doorbellTag_ids (s : State) :
    s.doorbellTag.2.entries = s.entries := by
  unfold State.doorbellTag
  dsimp only
  split <;> rfl
theorem execDoorbellReadError_ids (s : State) :
    Res.ids (execDoorbellReadError s) (s.entries) := by
  unfold execDoorbellReadError
  repeat' split
  · refine next_ids _ _ ?_
    simp
    exact (State.popTag_ids (by assumption)).trans (State.doorbellTag_ids s)
  all_goals exact next_ids _ _ rfl
theorem execSqFetchRequest_ids (s : State) : Res.ids (execSqFetchRequest s) s.entries := by
  unfold execSqFetchRequest
  repeat' (first
    | with_reducible rfl | (intro _; intros) | (with_reducible refine next_ids _ _ ?_)
    | (with_reducible refine onlyIf_ids _ _ _ _ ?_ ?_) | split | simp)
theorem State.fetched_ids {s t : State} {q : Nat} {k : Word} (h : s.fetched = some (q, k, t)) :
    t.entries = s.entries := by
  unfold State.fetched at h
  split at h
  · cases h
  · simp only [Option.map_eq_some_iff, Prod.mk.injEq] at h
    obtain ⟨⟨r, u⟩, h1, -, -, rfl⟩ := h
    exact (State.onHif_ids _ _).trans (State.popRead_ids h1)
theorem execOwnMismatch_ids (entry : BitVec 512) (s : State) : Res.ids (execOwnMismatch entry s) s.entries := by
  unfold execOwnMismatch
  repeat' (first
    | with_reducible rfl | (intro _; intros) | (with_reducible refine next_ids _ _ ?_)
    | (with_reducible refine onlyIf_ids _ _ _ _ ?_ ?_) | split | simp
    | with_reducible exact (State.fetched_ids (by assumption)))
theorem execSqReadError_ids (s : State) : Res.ids (execSqReadError s) s.entries := by
  unfold execSqReadError
  repeat' (first
    | with_reducible rfl | (intro _; intros) | (with_reducible refine next_ids _ _ ?_)
    | (with_reducible refine onlyIf_ids _ _ _ _ ?_ ?_) | split | simp
    | with_reducible exact (State.fetched_ids (by assumption)))
theorem execWorkItemTransfer_ids (s : State) :
    Res.ids (execWorkItemTransfer s) s.entries := onlyIf_ids _ _ _ _ rfl (fun _ => rfl)

end Sys2Proof.Machine
end

