-- ==== Sys2Proof/Laws/EntriesPath.lean ====
section
/-! SUPPORT. The entries are kept: delivery, the command rows, the data path, replay, the arbiter, the serial memory, the engine and the set-up schedules. -/

namespace Sys2Proof.Machine

/-! ## Link -/

@[simp] theorem State.onLink_ids (b : Nat) (f : Link → Link) (s : State) :
    (State.onLink b f s).entries = s.entries := rfl
@[simp] theorem State.sendOn_ids (b ch : Nat) (f : RFrame) (isNew : Bool) (s : State) :
    (State.sendOn b ch f isNew s).entries = s.entries := by
  unfold State.sendOn
  split <;> rfl
@[simp] theorem State.fillOne_ids (b : Nat) (s : State) (ch : Nat) : (State.fillOne b s ch).entries = s.entries := by
  unfold State.fillOne
  repeat' split
  all_goals simp
@[simp] theorem State.fillChannels_ids (b : Nat) (s : State) : (State.fillChannels b s).entries = s.entries := by
  unfold State.fillChannels
  repeat' (first
    | with_reducible rfl | (intro _; intros) | split | (with_reducible refine fold_ids _ _ _ _ ?_ ?_) | simp)
@[simp] theorem State.queueFrame_ids (b : Nat) (f : RFrame) (s : State) :
    (State.queueFrame b f s).entries = s.entries := by simp [State.queueFrame]
@[simp] theorem State.sendCommand_ids (b ix : Nat) (s : State) : (State.sendCommand b ix s).entries = s.entries := by
  unfold State.sendCommand
  repeat' split
  all_goals simp
@[simp] theorem State.sendPage_ids (b ix : Nat) (u : LUnit) (l : Link) (s : State) :
    (State.sendPage b ix u l s).entries = s.entries := by
  unfold State.sendPage
  repeat' (first
    | with_reducible rfl | (intro _; intros) | split | (with_reducible refine State.onUnit_ids' _ _ _ _ ?_ ?_)
    | (with_reducible refine fold_ids _ _ _ _ ?_ ?_) | simp)
@[simp] theorem State.sendPackets_ids (b ix : Nat) (u : LUnit) (c : Cmd) (s : State) :
    (State.sendPackets b ix u c s).entries = s.entries := by
  unfold State.sendPackets
  repeat' (first
    | with_reducible rfl | (intro _; intros) | split | (with_reducible refine State.onUnit_ids' _ _ _ _ ?_ ?_)
    | (with_reducible refine fold_ids _ _ _ _ ?_ ?_) | simp)
@[simp] theorem State.sendData_ids (b ix : Nat) (s : State) : (State.sendData b ix s).entries = s.entries := by
  unfold State.sendData
  repeat' split
  all_goals simp
@[simp] theorem State.relayPump_ids (b : Nat) (s : State) : (State.relayPump b s).entries = s.entries := by
  unfold State.relayPump
  repeat' (first
    | with_reducible rfl | (intro _; intros) | split | (with_reducible refine fold_ids _ _ _ _ ?_ ?_) | simp)
@[simp] theorem State.relayQueue_ids (ix : Nat) (s : State) : (State.relayQueue ix s).entries = s.entries := by
  unfold State.relayQueue
  repeat' split
  all_goals simp
@[simp] theorem State.bindBundle_ids (ix b : Nat) (s : State) : (State.bindBundle ix b s).entries = s.entries := by
  unfold State.bindBundle
  split <;> simp
@[simp] theorem State.askCredit_ids (b : Nat) (s : State) : (State.askCredit b s).entries = s.entries := by
  unfold State.askCredit
  repeat' split
  all_goals simp
@[simp] theorem State.giveCredit_ids (b c p : Nat) (s : State) :
    (State.giveCredit b c p s).entries = s.entries := by simp [State.giveCredit]
@[simp] theorem State.packetAcked_ids (ix : Nat) (u : LUnit) (c : Cmd) (s : State) :
    (State.packetAcked ix u c s).entries = s.entries := by
  unfold State.packetAcked
  split <;> simp
@[simp] theorem State.ackedFrame_ids (b : Nat) (target : Bool) (s : State) (f : RFrame) :
    (State.ackedFrame b target s f).entries = s.entries := by
  unfold State.ackedFrame
  repeat' split
  all_goals simp
@[simp] theorem State.ackUpTo_ids (b : Nat) (a : BitVec 12) (s : State) :
    (State.ackUpTo b a s).entries = s.entries := by
  unfold State.ackUpTo
  repeat' (first
    | with_reducible rfl | (intro _; intros) | split | (with_reducible refine fold_ids _ _ _ _ ?_ ?_) | simp)
@[simp] theorem State.replayFrames_ids (b : Nat) (s : State) : (State.replayFrames b s).entries = s.entries := by
  unfold State.replayFrames
  split <;> simp

/-! ## Deliver -/

@[simp] theorem State.streamRun_ids (ctx ix : Nat) (t : Stream) (buf p : Nat) (bs : List Byte) (s : State) :
    (State.streamRun ctx ix t buf p bs s).entries = s.entries := by
  unfold State.streamRun
  dsimp only
  split <;> simp
@[simp] theorem State.onStream_ids (ctx : Nat) (f : Stream → Stream) (s : State) :
    (State.onStream ctx f s).entries = s.entries := rfl
@[simp] theorem State.streamFix_ids (ctx : Nat) (s : State) : (State.streamFix ctx s).entries = s.entries := by
  unfold State.streamFix
  repeat' (first
    | with_reducible rfl | (intro _; intros) | split | (with_reducible refine State.onUnit_ids' _ _ _ _ ?_ ?_)
    | (with_reducible refine fold1_ids _ _ _ _ ?_ ?_) | simp)
@[simp] theorem State.streamPut_ids (ctx : Nat) (s : State) : (State.streamPut ctx s).entries = s.entries := by
  unfold State.streamPut
  repeat' (first
    | with_reducible rfl | (intro _; intros) | split | (with_reducible refine State.onUnit_ids' _ _ _ _ ?_ ?_)
    | (with_reducible refine fold_ids _ _ _ _ ?_ ?_) | simp)
@[simp] theorem State.streamControl_ids (ctx : Nat) (s : State) :
    (State.streamControl ctx s).entries = s.entries := by
  unfold State.streamControl
  split <;> simp
@[simp] theorem State.streamProd_ids (ctx : Nat) (s : State) : (State.streamProd ctx s).entries = s.entries := by
  unfold State.streamProd
  repeat' (first | rfl | split | simp)
@[simp] theorem State.streamEnd_ids (ctx : Nat) (s : State) : (State.streamEnd ctx s).entries = s.entries := by
  unfold State.streamEnd
  repeat' split
  all_goals simp
@[simp] theorem State.streamSettle_ids (ctx : Nat) (s : State) : (State.streamSettle ctx s).entries = s.entries := by
  unfold State.streamSettle
  repeat' split
  all_goals simp
@[simp] theorem State.originDone_ids (ctx : Nat) (s : State) : (State.originDone ctx s).entries = s.entries := by
  unfold State.originDone
  split
  · rfl
  · split
    · rfl
    · split
      · rfl
      · extract_lets r f s1 s2
        have h1 : s1.entries = s.entries := State.onCmd_ids _ _ _ (fun _ => rfl)
        have h2 : s2.entries = s.entries := by
          show (ite _ _ _ : State).entries = _
          split
          · exact fold_ids _ _ _ _ h1 (fun t a => by split <;> simp)
          · exact h1
        clear_value s2
        repeat' split
        all_goals first
          | exact (State.onCmd_ids _ _ _ (fun _ => rfl)).trans h2
          | exact h2
          | exact (State.onLink_ids _ _ _).trans h2
          | exact (State.onCmd_ids ctx (fun c => { c with acked := true }) _ (fun _ => rfl)).trans h2
          | exact (State.queueFrame_ids _ _ _).trans ((State.onLink_ids _ _ _).trans h2)
          | exact (State.onLink_ids _ _ _).trans h2
@[simp] theorem State.calSettle_ids (ctx : Nat) (s : State) : (State.calSettle ctx s).entries = s.entries := by
  unfold State.calSettle
  repeat' split
  all_goals simp
@[simp] theorem State.settle_ids (ctx : Nat) (s : State) :
    (State.settle ctx s).entries = s.entries := by simp [State.settle]
@[simp] theorem State.giveOut_ids (ctx ix cw off : Nat) (bytes : List Byte) (last : Bool) (s : State) :
    (State.giveOut ctx ix cw off bytes last s).entries = s.entries := by
  unfold State.giveOut
  repeat' split
  all_goals simp
@[simp] theorem State.skipCws_ids (ctx ix : Nat) (cws : List Nat) (s : State) :
    (State.skipCws ctx ix cws s).entries = s.entries := by
  unfold State.skipCws
  repeat' (first
    | with_reducible rfl | (intro _; intros) | split | (with_reducible refine fold_ids _ _ _ _ ?_ ?_) | simp)
@[simp] theorem State.endUnder_ids (ix : Nat) (status : Status) (failCw : Nat) (s : State) :
    (State.endUnder ix status failCw s).entries = s.entries := by
  unfold State.endUnder
  repeat' split
  all_goals simp
@[simp] theorem State.pageEnd_ids (ix : Nat) (s : State) : (State.pageEnd ix s).entries = s.entries := by
  unfold State.pageEnd
  repeat' (first | rfl | split | simp)

/-! ## Commands -/

@[simp] theorem State.bindPredicate_ids (ctx : Nat) (s : State) :
    (State.bindPredicate ctx s).entries = s.entries := by
  unfold State.bindPredicate
  repeat' (first | rfl | split | simp)
@[simp] theorem State.beginCmd_ids (ctx : Nat) (s : State) : (State.beginCmd ctx s).entries = s.entries := by
  unfold State.beginCmd
  repeat' (first | rfl | split | simp)
@[simp] theorem State.tryLink_ids (ix : Nat) (s : State) : (State.tryLink ix s).entries = s.entries := by
  unfold State.tryLink
  repeat' split
  all_goals simp
@[simp] theorem State.progAsk_ids (ctx : Nat) (s : State) : (State.progAsk ctx s).entries = s.entries := by
  unfold State.progAsk
  repeat' split
  all_goals simp
@[simp] theorem State.startDma_ids (ix : Nat) (s : State) : (State.startDma ix s).entries = s.entries := by
  unfold State.startDma
  repeat' split
  all_goals simp
@[simp] theorem State.rawRefill_ids (ix : Nat) (s : State) : (State.rawRefill ix s).entries = s.entries := by
  unfold State.rawRefill
  repeat' (first | rfl | split | simp)
@[simp] theorem State.bindRoute_ids (ix inst : Nat) (s : State) :
    (State.bindRoute ix inst s).entries = s.entries := by
  unfold State.bindRoute
  repeat' split
  all_goals simp
@[simp] theorem State.noteSources_ids (c : Cmd) (ix : Nat) (s : State) :
    (State.noteSources c ix s).entries = s.entries := by
  unfold State.noteSources
  split <;> simp
@[simp] theorem State.beginAway_ids (ctx : Nat) (c : Cmd) (ix : Nat) (s : State) :
    (State.beginAway ctx c ix s).entries = s.entries := by
  unfold State.beginAway
  repeat' split
  all_goals simp
@[simp] theorem State.beginHere_ids (ctx : Nat) (c : Cmd) (ix : Nat) (s : State) :
    (State.beginHere ctx c ix s).entries = s.entries := by
  unfold State.beginHere
  repeat' (first | rfl | split | simp)
@[simp] theorem State.beginUnit_ids (ix : Nat) (s : State) : (State.beginUnit ix s).entries = s.entries := by
  unfold State.beginUnit
  repeat' (first | rfl | split | simp)
@[simp] theorem State.cancelUnit_ids (ix : Nat) (s : State) : (State.cancelUnit ix s).entries = s.entries := by
  unfold State.cancelUnit
  repeat' split
  all_goals simp
theorem State.cancelAll_ids (k : Nat) (s : State) :
    (s.cancelAll k).1.entries = s.entries := by
  unfold State.cancelAll
  split
  · rfl
  · rename_i c hc
    have key : ∀ (l : List (Nat × LUnit)) (a : State × Nat × Nat), (l.foldl (fun (a : State × Nat × Nat) e =>
        let s := a.1.onUnit e.1 (fun u => { u with contested := true })
        if unissued e.2 then (s.cancelUnit e.1, a.2.1 + 1, a.2.2) else (s, a.2.1, a.2.2 + 1)) a).1.entries =
          a.1.entries := by
      intro l
      induction l with
      | nil => intro a; rfl
      | cons e r ih =>
        intro a
        rw [List.foldl_cons, ih]
        simp only []
        split <;> simp
    simp only []
    split
    · exact key _ _
    · simp only [State.settle_ids, State.progAsk_ids, State.stopAfter_ids]; exact key _ _
@[simp] theorem State.predBound_ids (ctx : Nat) (s : State) : (State.predBound ctx s).entries = s.entries := by
  unfold State.predBound
  repeat' (first
    | with_reducible rfl | (intro _; intros) | split | (with_reducible refine fold_ids _ _ _ _ ?_ ?_) | simp)
@[simp] theorem State.stopTaking_ids (ctx : Nat) (s : State) : (State.stopTaking ctx s).entries = s.entries := by
  unfold State.stopTaking
  dsimp only
  split <;> simp
@[simp] theorem State.predRefused_ids (ctx : Nat) (status : Status) (s : State) :
    (State.predRefused ctx status s).entries = s.entries := by simp [State.predRefused]
theorem execPredicateData_ids (ctx : Nat) (bits : BitVec 1024) (s : State) :
    Res.ids (execPredicateData ctx bits s) s.entries := by
  unfold execPredicateData
  repeat' (first
    | with_reducible rfl | (intro _; intros) | (with_reducible refine next_ids _ _ ?_)
    | (with_reducible refine onlyIf_ids _ _ _ _ ?_ ?_) | split
    | (with_reducible refine State.onCmd_ids' _ _ _ _ ?_ ?_) | simp
    | with_reducible exact (State.popRead_ids (by assumption)).trans (by assumption))
theorem execPredicateFetchError_ids (ctx : Nat) (s : State) : Res.ids (execPredicateFetchError ctx s) s.entries := by
  unfold execPredicateFetchError
  repeat' (first
    | with_reducible rfl | (intro _; intros) | (with_reducible refine next_ids _ _ ?_)
    | (with_reducible refine onlyIf_ids _ _ _ _ ?_ ?_) | split | simp
    | with_reducible exact (State.popRead_ids (by assumption)).trans (by assumption))

/-! ## Dma -/

@[simp] theorem State.wrongShape_ids (ctx : Nat) (s : State) :
    (State.wrongShape ctx s).entries = s.entries := by simp [State.wrongShape]
@[simp] theorem State.shapeDone_ids (ctx : Nat) (s : State) : (State.shapeDone ctx s).entries = s.entries := by
  unfold State.shapeDone
  repeat' (first
    | with_reducible rfl | (intro _; intros) | split | (with_reducible refine fold_ids _ _ _ _ ?_ ?_) | simp)
@[simp] theorem State.walkSeg_ids (ctx : Nat) (g : Seg) (w : Walk) (s : State) :
    (State.walkSeg ctx g w s).entries = s.entries := by
  unfold State.walkSeg
  repeat' split
  all_goals simp
@[simp] theorem State.legacyDone_ids (s : State) : (State.legacyDone s).entries = s.entries := by
  unfold State.legacyDone
  dsimp only
  split <;> simp
@[simp] theorem State.legacyPump_ids (s : State) : (State.legacyPump s).entries = s.entries := by
  unfold State.legacyPump
  repeat' (first | rfl | split | simp)
@[simp] theorem State.openStream_ids (ctx : Nat) (g : Seg) (d : BitVec 256) (s : State) :
    (State.openStream ctx g d s).entries = s.entries := by
  unfold State.openStream
  split <;> simp
@[simp] theorem State.segIn_ids (id : ChainId) (addr : Nat) (d : BitVec 256) (s : State) :
    (State.segIn id addr d s).entries = s.entries := by
  unfold State.segIn
  repeat' (first | rfl | split | simp)
theorem execSegmentDescriptorData_ids (chain : ChainId) (desc : BitVec 256) (s : State) :
    Res.ids (execSegmentDescriptorData chain desc s) s.entries := by
  unfold execSegmentDescriptorData
  repeat' (first
    | with_reducible rfl | (intro _; intros) | (with_reducible refine onlyIf_ids _ _ _ _ ?_ ?_)
    | with_reducible exact State.answerGone_ids _ | split | simp
    | with_reducible exact (State.popRead_ids (by assumption)).trans (by assumption))
@[simp] theorem State.linkIn_ids (id : ChainId) (link : BitVec 64) (s : State) :
    (State.linkIn id link s).entries = s.entries := by
  unfold State.linkIn
  repeat' split
  all_goals simp
theorem execAppendLinkData_ids (chain : ChainId) (link : BitVec 64) (s : State) :
    Res.ids (execAppendLinkData chain link s) s.entries := by
  unfold execAppendLinkData
  repeat' (first
    | with_reducible rfl | (intro _; intros) | (with_reducible refine onlyIf_ids _ _ _ _ ?_ ?_)
    | with_reducible exact State.answerGone_ids _ | split | simp
    | with_reducible exact (State.popRead_ids (by assumption)).trans (by assumption))
@[simp] theorem State.peckFilled_ids (ix key : Nat) (c : Cmd) (s : State) :
    (State.peckFilled ix key c s).entries = s.entries := by
  unfold State.peckFilled
  split <;> rfl
@[simp] theorem State.storePart_ids (ix : Nat) (c : Cmd) (s : State) (q : Nat × Nat × List Byte) :
    (State.storePart ix c s q).entries = s.entries := by
  unfold State.storePart
  repeat' (first | split | simp)
@[simp] theorem State.storeSource_ids (ix : Nat) (c : Cmd) (off : Nat) (bs : List Byte) (s : State) :
    (State.storeSource ix c off bs s).entries = s.entries := foldl_ids _ _ (fun _ _ => by simp) _
@[simp] theorem State.sourceDone_ids (ix : Nat) (s : State) : (State.sourceDone ix s).entries = s.entries := by
  unfold State.sourceDone
  repeat' (first | rfl | split | simp)
@[simp] theorem State.sourceIn_ids (id : ChainId) (ix off len skip : Nat) (data : List Byte) (s : State) :
    (State.sourceIn id ix off len skip data s).entries = s.entries := by
  unfold State.sourceIn
  try dsimp only [State.drawFree]
  repeat' (first | (intro _; intros) | split | (with_reducible refine fold_ids _ _ _ _ ?_ ?_) | simp)
theorem State.sourceReturn_ids {id : ChainId} {n : Nat} {d : List Byte} {s t : State} {i : Nat} (h :
    s.sourceReturn id n d = some (i, t)) : t.entries = s.entries := by
  unfold State.sourceReturn at h
  obtain ⟨⟨r, u⟩, h1, h⟩ := Option.bind_eq_some_iff.mp h
  dsimp only at h
  split at h
  · simp only [Option.some.injEq, Prod.mk.injEq] at h
    obtain ⟨-, rfl⟩ := h
    refine Eq.trans ?_ (State.popTag_ids h1)
    split <;> simp
  · cases h
theorem execProgramPageLink_ids (ix : Nat) (s : State) : Res.ids (execProgramPageLink ix s) s.entries := by
  unfold execProgramPageLink
  repeat' (first
    | with_reducible assumption | with_reducible rfl | (intro _; intros) | (with_reducible refine next_ids _ _ ?_)
    | (with_reducible refine onlyIf_ids _ _ _ _ ?_ ?_) | split
    | (with_reducible refine State.onUnit_ids' _ _ _ _ ?_ ?_) | simp)
@[simp] theorem State.recordLess_ids (ix off n : Nat) (s : State) :
    (State.recordLess ix off n s).entries = s.entries := by
  unfold State.recordLess
  repeat' (first
    | with_reducible rfl | (intro _; intros) | split | (with_reducible refine fold_ids _ _ _ _ ?_ ?_) | simp)
theorem execDataWriteAck_ids (id : Nat) (s : State) : Res.ids (execDataWriteAck id s) s.entries := by
  unfold execDataWriteAck
  repeat' (first
    | with_reducible rfl | (intro _; intros) | (with_reducible refine next_ids _ _ ?_)
    | (with_reducible refine onlyIf_ids _ _ _ _ ?_ ?_) | split | simp
    | with_reducible exact State.popWrite_ids (by assumption))
@[simp] theorem State.statusAcked_ids (id : ChainId) (addr : Nat) (s : State) :
    (State.statusAcked id addr s).entries = s.entries := by
  unfold State.statusAcked
  repeat' split
  all_goals simp
theorem execSegmentWriteBackAck_ids (id : Nat) (s : State) : Res.ids (execSegmentWriteBackAck id s) s.entries := by
  unfold execSegmentWriteBackAck
  repeat' (first
    | with_reducible rfl | (intro _; intros) | (with_reducible refine next_ids _ _ ?_)
    | (with_reducible refine onlyIf_ids _ _ _ _ ?_ ?_) | split | simp
    | with_reducible exact State.popWrite_ids (by assumption))
theorem State.failing_ids {id : ChainId} {w : Bool} {n : Nat} {s t : State} {f : Failed} (h :
    s.failing id w n = some (f, t)) : t.entries = s.entries := by
  unfold State.failing at h
  split at h
  · split at h
    · rename_i h2
      split at h
      · cases h; exact State.popWrite_ids h2
      · cases h
    · cases h
  · simp only [Option.map_eq_some_iff, Prod.mk.injEq] at h
    obtain ⟨⟨r, u⟩, h1, -, rfl⟩ := h
    exact State.popTag_ids h1
theorem execChainBusError_ids (chain : ChainId) (write : Bool) (tag : Nat) (s : State) :
    Res.ids (execChainBusError chain write tag s) s.entries := by
  unfold execChainBusError
  repeat' (first
    | with_reducible rfl | (intro _; intros) | (with_reducible refine next_ids _ _ ?_)
    | (with_reducible refine onlyIf_ids _ _ _ _ ?_ ?_) | split | simp
    | with_reducible exact State.failing_ids (by assumption))
@[simp] theorem State.chainAbort_ids (s : State) : (State.chainAbort s).entries = s.entries := by
  unfold State.chainAbort
  repeat' (first
    | with_reducible rfl | (intro _; intros) | split | (with_reducible refine State.onUnit_ids' _ _ _ _ ?_ ?_)
    | (with_reducible refine State.onCmd_ids' _ _ _ _ ?_ ?_) | (with_reducible refine fold_ids _ _ _ _ ?_ ?_) | simp)
theorem execChainAbort_ids (s : State) : Res.ids (execChainAbort s) s.entries := by
  unfold execChainAbort
  repeat' (first
    | with_reducible assumption | with_reducible rfl | (intro _; intros)
    | (with_reducible refine hcpAccess_ids _ _ _ ?_ ?_) | split | simp)
@[simp] theorem State.chainDisable_ids (s : State) : (State.chainDisable s).entries = s.entries := rfl
theorem execChainDisable_ids (s : State) : Res.ids (execChainDisable s) s.entries := by
  unfold execChainDisable
  repeat' (first
    | with_reducible assumption | with_reducible rfl | (intro _; intros)
    | (with_reducible refine hcpAccess_ids _ _ _ ?_ ?_) | split | simp)
@[simp] theorem State.legacyGone_ids (s : State) : (State.legacyGone s).entries = s.entries := rfl
@[simp] theorem State.writeLegStart_ids (data : Word) (s : State) :
    (State.writeLegStart data s).entries = s.entries := by
  unfold State.writeLegStart
  repeat' (first | (intro _; intros) | split | (with_reducible refine fold_ids _ _ _ _ ?_ ?_) | simp)
theorem execLegacyStart_ids (data : Word) (s : State) : Res.ids (execLegacyStart data s) s.entries := by
  unfold execLegacyStart
  repeat' (first
    | with_reducible assumption | with_reducible rfl | (intro _; intros)
    | (with_reducible refine hcpAction_ids _ _ _ _ ?_ ?_) | split | simp)
theorem execLegacyResume_ids (data : Word) (s : State) : Res.ids (execLegacyResume data s) s.entries := by
  unfold execLegacyResume
  repeat' (first
    | with_reducible assumption | with_reducible rfl | (intro _; intros)
    | (with_reducible refine hcpAction_ids _ _ _ _ ?_ ?_) | split | simp)
theorem execLegacyAbort_ids (data : Word) (s : State) : Res.ids (execLegacyAbort data s) s.entries := by
  unfold execLegacyAbort
  repeat' (first
    | with_reducible assumption | with_reducible rfl | (intro _; intros)
    | (with_reducible refine hcpAction_ids _ _ _ _ ?_ ?_) | split | simp)
@[simp] theorem State.legacyHalt_ids (f : Failed) (s : State) : (State.legacyHalt f s).entries = s.entries := rfl
theorem execLegacyBusError_ids (write : Bool) (tag : Nat) (s : State) :
    Res.ids (execLegacyBusError write tag s) s.entries := by
  unfold execLegacyBusError
  repeat' (first
    | with_reducible rfl | (intro _; intros) | (with_reducible refine next_ids _ _ ?_)
    | (with_reducible refine onlyIf_ids _ _ _ _ ?_ ?_) | split | simp
    | with_reducible exact State.popTag_ids (by assumption) | with_reducible exact State.popWrite_ids (by assumption))
@[simp] theorem State.consIn_ids (ctx : Nat) (cons high low : BitVec 64) (s : State) :
    (State.consIn ctx cons high low s).entries = s.entries := by
  unfold State.consIn
  repeat' (first | rfl | split | simp)
theorem execConsReadData_ids (ctx : Nat) (cons high low : BitVec 64) (s : State) :
    Res.ids (execConsReadData ctx cons high low s) s.entries := by
  unfold execConsReadData
  repeat' (first
    | with_reducible rfl | (intro _; intros) | (with_reducible refine next_ids _ _ ?_)
    | (with_reducible refine onlyIf_ids _ _ _ _ ?_ ?_) | split | simp
    | with_reducible exact (State.popRead_ids (by assumption)).trans (by assumption))
theorem execHdpResponseDiscard_ids (s : State) :
    Res.ids (execHdpResponseDiscard s) s.entries := onlyIf_ids _ _ _ _ rfl (fun _ => rfl)
theorem execHdpReissue_ids (s : State) :
    Res.ids (execHdpReissue s) s.entries := onlyIf_ids _ _ _ _ rfl (fun _ => by simp)

/-! ## Replay -/

@[simp] theorem State.dropDecodes_ids (ix : Nat) (s : State) : (State.dropDecodes ix s).entries = s.entries := rfl
@[simp] theorem State.cacheTurns_ids (l : Nat) (s : State) : (State.cacheTurns l s).entries = s.entries := rfl
@[simp] theorem State.offDie_ids (ix : Nat) (s : State) : (State.offDie ix s).entries = s.entries := by
  unfold State.offDie
  split <;> simp
@[simp] theorem State.unaccount_ids (ix : Nat) (s : State) : (State.unaccount ix s).entries = s.entries := by
  unfold State.unaccount
  repeat' split
  all_goals rfl
@[simp] theorem State.markReplayed_ids (ix : Nat) (s : State) : (State.markReplayed ix s).entries = s.entries := by
  unfold State.markReplayed
  repeat' (first
    | with_reducible rfl | (intro _; intros) | (with_reducible refine Ldg.entries_congr ?_ ?_ ?_)
    | (with_reducible refine State.onLdg_ids' _ _ _ ?_ ?_) | (with_reducible refine State.onUnit_ids' _ _ _ _ ?_ ?_))
@[simp] theorem State.requeueRead_ids (ix : Nat) (s : State) :
    (State.requeueRead ix s).entries = s.entries := by simp [State.requeueRead]
@[simp] theorem State.askReset_ids (l : Nat) (s : State) : (State.askReset l s).entries = s.entries := rfl
@[simp] theorem State.requeueWrite_ids (ix : Nat) (reset : Bool) (s : State) :
    (State.requeueWrite ix reset s).entries = s.entries := by
  unfold State.requeueWrite
  repeat' split
  all_goals simp
@[simp] theorem State.joinOp_ids (l ix : Nat) (u : LUnit) (s : State) :
    (State.joinOp l ix u s).entries = s.entries := rfl
@[simp] theorem State.pollAgain_ids (ix : Nat) (s : State) : (State.pollAgain ix s).entries = s.entries := by
  unfold State.pollAgain
  split <;> simp
@[simp] theorem State.fromSources_ids (ix : Nat) (s : State) :
    (State.fromSources ix s).entries = s.entries := by simp [State.fromSources]
@[simp] theorem State.unknownEnd_ids (ix : Nat) (status : Status) (s : State) :
    (State.unknownEnd ix status s).entries = s.entries := by
  unfold State.unknownEnd
  repeat' (first
    | with_reducible rfl | (with_reducible refine Ldg.entries_congr ?_ ?_ ?_)
    | (with_reducible refine State.onLdg_ids' _ _ _ ?_ ?_) | simp)
@[simp] theorem State.replayUnit_ids (ix : Nat) (s : State) : (State.replayUnit ix s).entries = s.entries := by
  unfold State.replayUnit
  repeat' split
  all_goals simp
@[simp] theorem State.dropGrant_ids (ch : Nat) (s : State) : (State.dropGrant ch s).entries = s.entries := rfl
@[simp] theorem State.losePackets_ids (ixs : List Nat) (s : State) :
    (State.losePackets ixs s).entries = s.entries := by
  unfold State.losePackets
  repeat' (first
    | with_reducible rfl | (intro _; intros) | split | (with_reducible refine fold_ids _ _ _ _ ?_ ?_) | simp)
@[simp] theorem State.packetLands_ids (u : LUnit) (e : Expect) (flags : Byte) (len : Nat) (data : List Byte) (s :
    State) : (State.packetLands u e flags len data s).entries = s.entries := by
  unfold State.packetLands
  split <;> rfl
@[simp] theorem State.cutPacket_ids (ch : Nat) (s : State) : (State.cutPacket ch s).entries = s.entries := by
  unfold State.cutPacket
  dsimp only
  repeat' split
  all_goals simp
@[simp] theorem State.beginRelearn_ids (ctx : Nat) (fetching : Bool) (s : State) :
    (State.beginRelearn ctx fetching s).entries = s.entries := by
  unfold State.beginRelearn
  repeat' (first | rfl | split | simp)
@[simp] theorem State.trainingEnded_ids (ok : Bool) (s : State) (ctx : Nat) :
    (State.trainingEnded ok s ctx).entries = s.entries := by
  unfold State.trainingEnded
  repeat' split
  all_goals simp
@[simp] theorem State.leaveMask_ids (ch : Nat) (s : State) : (State.leaveMask ch s).entries = s.entries := by
  unfold State.leaveMask
  repeat' (first | rfl | split | simp)
@[simp] theorem State.fenceTraining_ids (ch : Nat) (s : State) : (State.fenceTraining ch s).entries = s.entries := by
  unfold State.fenceTraining
  repeat' (first | (intro _; intros) | split | (with_reducible refine fold_ids _ _ _ _ ?_ ?_) | simp)
@[simp] theorem State.fence_ids (ch : Nat) (s : State) : (State.fence ch s).entries = s.entries := by
  unfold State.fence
  repeat' (first
    | with_reducible rfl | (intro _; intros) | split | (with_reducible refine fold_ids _ _ _ _ ?_ ?_) | simp)
@[simp] theorem State.mismatch_ids (ch : Nat) (m : Mismatch) (lost : List Nat) (s : State) :
    (State.mismatch ch m lost s).entries = s.entries := by
  unfold State.mismatch
  repeat' (first | split | simp)

/-! ## Arbiter -/

theorem State.arbitrate_ids (ch n : Nat) (s : State) :
    (State.arbitrate ch n s).1.entries = s.entries := by
  induction n generalizing s with
  | zero => rfl
  | succ n ih =>
    have key : ∀ (l : List (Nat × Status)) (t : State),
        (l.foldl (fun (s : State) (q : Nat × Status) => s.endUnder q.1 q.2 0) t).entries =
          t.entries :=
      fun l t => foldl_ids _ _ (fun a q => by simp) t
    unfold State.arbitrate
    split
    · rfl
    · extract_lets l group bad s'
      split
      · rfl
      · split
        · split
          · exact key _ _
          · exact (ih _).trans (key _ _)
        · exact key _ _
@[simp] theorem State.countPasses_ids (ch won : Nat) (as : List (Nat × Ask)) (s : State) :
    (State.countPasses ch won as s).entries = s.entries := foldl_ids _ _ (fun _ _ => by split <;> simp) _

/-! ## Spm -/

@[simp] theorem State.askLine_ids (l : Nat) (pre : Bool) (s : State) :
    (State.askLine l pre s).entries = s.entries := rfl
@[simp] theorem State.xipServe_ids (s : State) : s.xipServe.entries = s.entries := by
  unfold State.xipServe
  split
  · exact Eq.refl _
  · rename_i off h
    split
    · exact Eq.refl _
    · generalize s.spm.xipByte off = a
      dsimp only
      split
      · exact Eq.refl _
      · split
        · exact (State.onSpm_ids _ _).trans (State.onHcp_ids _ _)
        · split
          · exact State.onSpm_ids _ _
          · split
            · exact State.askLine_ids _ _ _
            · exact Eq.refl _
@[simp] theorem State.prefetch_ids (s : State) : (State.prefetch s).entries = s.entries := by
  unfold State.prefetch
  repeat' split
  all_goals rfl
@[simp] theorem State.onOp_ids (f : SpmOp → SpmOp) (s : State) : (State.onOp f s).entries = s.entries := rfl
@[simp] theorem State.onDevice_ids (f : SpmOp → SpmOp) (s : State) : (State.onDevice f s).entries = s.entries := rfl
@[simp] theorem State.devStart_ids (t : SerialTx) (s : State) : (State.devStart t s).entries = s.entries := rfl
@[simp] theorem State.eraseGo_ids (s : State) : (State.eraseGo s).entries = s.entries := by
  unfold State.eraseGo
  repeat' split
  all_goals rfl
@[simp] theorem State.spmGo_ids (s : State) : (State.spmGo s).entries = s.entries := by
  unfold State.spmGo
  repeat' (first | split | simp)
@[simp] theorem State.syncCheck_ids (s : State) :
    (State.syncCheck s).entries = s.entries := foldl_ids _ _ (fun _ _ => by split <;> simp) _
@[simp] theorem State.consolidate_ids (ctx : Nat) (s : State) : (State.consolidate ctx s).entries = s.entries := by
  unfold State.consolidate
  dsimp only
  split <;> simp
@[simp] theorem State.spmNext_ids (s : State) : (State.spmNext s).entries = s.entries := by
  unfold State.spmNext
  repeat' (first
    | with_reducible rfl | (intro _; intros) | split | (with_reducible refine fold_ids _ _ _ _ ?_ ?_) | simp)
@[simp] theorem State.consolidated_ids (o : SpmOp) (s : State) :
    (State.consolidated o s).entries = s.entries := by simp [State.consolidated]
@[simp] theorem State.clearRegion_ids (o : SpmOp) (s : State) : (State.clearRegion o s).entries = s.entries := by
  unfold State.clearRegion
  repeat' (first
    | with_reducible rfl | (intro _; intros) | split | (with_reducible refine Ldg.entries_congr ?_ ?_ ?_)
    | (with_reducible refine State.onLdg_ids' _ _ _ ?_ ?_) | (with_reducible refine fold_ids _ _ _ _ ?_ ?_) | simp)
@[simp] theorem State.spmAdvance_ids (s : State) : (State.spmAdvance s).entries = s.entries := by
  unfold State.spmAdvance
  repeat' split
  all_goals simp
@[simp] theorem State.devDone_ids (s : State) : (State.devDone s).entries = s.entries := by
  unfold State.devDone
  repeat' split
  all_goals simp
@[simp] theorem State.spmEnd_ids (r : Nat) (s : State) :
    (State.spmEnd r s).entries = s.entries := by simp [State.spmEnd]
@[simp] theorem State.spmWrite_ids (data : Word) (o : Spm → SpmOp) (s : State) :
    (State.spmWrite data o s).entries = s.entries := by
  unfold State.spmWrite
  repeat' (first | split | simp)
theorem spmCmd_ids (action : Nat) (data : Word) (o : Spm → SpmOp) (s : State) :
    Res.ids (spmCmd action data o s) (s.entries) := by
  unfold spmCmd
  refine hcpAction_ids _ _ _ _ rfl (fun t ht => ?_)
  split
  · simp [ht]
  · exact ht
theorem execSpmBufferData_ids (data : List Byte) (error : Bool) (s : State) :
    Res.ids (execSpmBufferData data error s) s.entries := by
  unfold execSpmBufferData
  repeat' (first
    | with_reducible rfl | (intro _; intros) | (with_reducible refine next_ids _ _ ?_)
    | (with_reducible refine onlyIf_ids _ _ _ _ ?_ ?_) | split | simp
    | with_reducible exact (State.popRead_ids (by assumption)).trans (by assumption))
@[simp] theorem State.consolidationFails_ids (o : SpmOp) (s : State) :
    (State.consolidationFails o s).entries = s.entries := by simp [State.consolidationFails]
@[simp] theorem State.deviceSuspended_ids (s : State) : (State.deviceSuspended s).entries = s.entries := rfl
theorem execSerialStatusPoll_ids (busy suspended : Bool) (s : State) :
    Res.ids (execSerialStatusPoll busy suspended s) s.entries := by
  refine onlyIf_ids _ _ _ _ rfl (fun _ => ?_)
  repeat' split
  all_goals simp
theorem execSpmOpEnd_ids (deviceOk : Bool) (s : State) : Res.ids (execSpmOpEnd deviceOk s) s.entries := by
  unfold execSpmOpEnd
  repeat' (first
    | with_reducible assumption | with_reducible rfl | (intro _; intros) | (with_reducible refine next_ids _ _ ?_)
    | (with_reducible refine onlyIf_ids _ _ _ _ ?_ ?_) | split | simp)
theorem execSpmSuspend_ids (s : State) : Res.ids (execSpmSuspend s) s.entries := by
  unfold execSpmSuspend
  repeat' (first
    | with_reducible rfl | (intro _; intros) | (with_reducible refine next_ids _ _ ?_)
    | (with_reducible refine onlyIf_ids _ _ _ _ ?_ ?_) | split | simp)
theorem execSpmResume_ids (s : State) : Res.ids (execSpmResume s) s.entries := by
  unfold execSpmResume
  repeat' (first
    | with_reducible rfl | (intro _; intros) | (with_reducible refine next_ids _ _ ?_)
    | (with_reducible refine onlyIf_ids _ _ _ _ ?_ ?_) | split | simp)
@[simp] theorem State.xipRead_ids (off : BitVec 16) (s : State) :
    (State.xipRead off s).entries = s.entries := by simp [State.xipRead]
theorem execXipLineArrival_ids (line : List Byte) (s : State) : Res.ids (execXipLineArrival line s) s.entries := by
  unfold execXipLineArrival
  repeat' (first
    | with_reducible rfl | (intro _; intros) | (with_reducible refine next_ids _ _ ?_)
    | (with_reducible refine onlyIf_ids _ _ _ _ ?_ ?_) | split | simp)

/-! ## Engine -/

@[simp] theorem State.onGrant_ids (l : Nat) (f : Grant → Grant) (s : State) :
    (State.onGrant l f s).entries = s.entries := rfl
@[simp] theorem State.noteSetup_ids (ch ce : Nat) (acts : List PinAct) (s : State) :
    (State.noteSetup ch ce acts s).entries = s.entries := rfl
@[simp] theorem State.restoreSdr_ids (l : Nat) (s : State) : (State.restoreSdr l s).entries = s.entries := by
  unfold State.restoreSdr
  dsimp only
  split <;> simp
@[simp] theorem State.dieReset_ids (l : Nat) (b : Byte) (s : State) : (State.dieReset l b s).entries = s.entries := by
  unfold State.dieReset
  repeat' (first
    | with_reducible rfl | (intro _; intros) | split | (with_reducible refine State.onUnit_ids' _ _ _ _ ?_ ?_)
    | (with_reducible refine fold_ids _ _ _ _ ?_ ?_) | simp)
@[simp] theorem State.closeGrant_ids (l : Nat) (s : State) : (State.closeGrant l s).entries = s.entries := by
  unfold State.closeGrant
  repeat' (first | rfl | split | simp)
@[simp] theorem State.schedFault_ids (l n : Nat) (broken : Bool) (s : State) :
    (State.schedFault l n broken s).entries = s.entries := by simp [State.schedFault]
@[simp] theorem State.stepError_ids (l n : Nat) (s : State) : (State.stepError l n s).entries = s.entries := by
  unfold State.stepError
  repeat' (first | split | simp)
@[simp] theorem State.takeRun_ids (l : Nat) (g : Grant) (x : Run) (s : State) :
    (State.takeRun l g x s).entries = s.entries := by
  unfold State.takeRun
  repeat' (first
    | with_reducible rfl | (intro _; intros) | split | (with_reducible refine State.onUnit_ids' _ _ _ _ ?_ ?_)
    | (with_reducible refine fold_ids _ _ _ _ ?_ ?_) | simp)
theorem State.runGrant_ids {l : Nat} {s t : State} (h : s.runGrant l = some t) : t.entries = s.entries := by
  unfold State.runGrant at h
  split at h
  · simp only [Option.map_eq_some_iff] at h
    obtain ⟨x, -, rfl⟩ := h
    simp
  · cases h; rfl
@[simp] theorem State.issue_ids (l : Nat) (a : Ask) (members : List Nat) (cache : Option Nat) (s : State) :
    (State.issue l a members cache s).entries = s.entries := by
  unfold State.issue
  repeat' (first
    | with_reducible rfl | (intro _; intros) | split | (with_reducible refine State.onUnit_ids' _ _ _ _ ?_ ?_)
    | (with_reducible refine fold_ids _ _ _ _ ?_ ?_) | simp only [onLun_ids, onChan_ids])
@[simp] theorem State.clearAsk_ids (l : Nat) (d : DieType) (a : Ask) (s : State) :
    (State.clearAsk l d a s).entries = s.entries := by
  unfold State.clearAsk
  repeat' (first
    | with_reducible rfl | (intro _; intros) | split | (with_reducible refine State.onUnit_ids' _ _ _ _ ?_ ?_)
    | (with_reducible refine fold_ids _ _ _ _ ?_ ?_) | simp)
@[simp] theorem State.grantMismatch_ids (ch : Nat) (g : Grant) (s : State) :
    (State.grantMismatch ch g s).entries = s.entries := by
  unfold State.grantMismatch
  repeat' (first
    | with_reducible rfl | (intro _; intros) | split | (with_reducible refine fold_ids _ _ _ _ ?_ ?_) | simp)
theorem State.grant_ids {ch l : Nat} {d : DieType} {a : Ask} {m : List Nat} {io : GrantIo} {s t : State} (h :
    State.grant ch l d a m io s = some t) : t.entries = s.entries := by
  unfold State.grant at h
  dsimp only at h
  refine (State.runGrant_ids h).trans ?_
  simp only [State.headEvent_ids, State.grantMismatch_ids, State.onLun_ids, State.issue_ids,
    State.clearAsk_ids, State.onChan_ids, State.onSched_ids, State.countPasses_ids]
theorem execArbiterDecision_ids (ch : Nat) (io : GrantIo) (s : State) :
    Res.ids (execArbiterDecision ch io s) (s.entries) := by
  have k := (State.arbitrate_ids ch ((s.ecc io.ecc).ldg.units.length + 1) (s.ecc io.ecc)).trans
    (State.ecc_ids _ _)
  unfold execArbiterDecision
  split
  · extract_lets s1
    split
    · exact next_ids _ _ (State.ecc_ids _ _)
    · split
      rename_i t won h
      rw [h] at k
      split
      · exact next_ids _ _ k
      · split
        · exact runRes_ids _ _ (fun _ h => (State.grant_ids h).trans k)
        · exact next_ids _ _ k
  · exact next_ids _ _ rfl
@[simp] theorem State.started_ids (l : Nat) (d : DieType) (cached : Bool) (s : State) (ix : Nat) :
    (State.started l d cached s ix).entries = s.entries := by
  unfold State.started
  repeat' split
  all_goals simp
@[simp] theorem State.dropStale_ids (l : Nat) (s : State) : (State.dropStale l s).entries = s.entries := by
  unfold State.dropStale
  repeat' (first
    | with_reducible rfl | (intro _; intros) | split | (with_reducible refine fold_ids _ _ _ _ ?_ ?_) | simp)
theorem execArrayStartPinEnd_ids (ch : Nat) (status : List (BitVec 64)) (s : State) :
    Res.ids (execArrayStartPinEnd ch status s) s.entries := by
  unfold execArrayStartPinEnd
  repeat' (first
    | with_reducible rfl | (intro _; intros) | (with_reducible refine next_ids _ _ ?_)
    | (with_reducible refine runRes_ids _ _ ?_) | split | (with_reducible refine fold_ids _ _ _ _ ?_ ?_) | simp
    | with_reducible refine (State.runGrant_ids (by assumption)).trans ?_)
@[simp] theorem State.offOp_ids (l ix : Nat) (s : State) :
    (State.offOp l ix s).entries = s.entries := by simp [State.offOp]
@[simp] theorem State.opPass_ids (l ix : Nat) (s : State) : (State.opPass l ix s).entries = s.entries := by
  unfold State.opPass
  repeat' split
  all_goals simp
@[simp] theorem State.opFail_ids (l ix : Nat) (s : State) : (State.opFail l ix s).entries = s.entries := by
  unfold State.opFail
  repeat' split
  all_goals simp
@[simp] theorem State.opUnknown_ids (l ix : Nat) (s : State) : (State.opUnknown l ix s).entries = s.entries := by
  unfold State.opUnknown
  repeat' split
  all_goals simp
@[simp] theorem State.suspended_ids (l : Nat) (d : DieType) (s : State) :
    (State.suspended l d s).entries = s.entries := by
  unfold State.suspended
  dsimp only
  split <;> simp
@[simp] theorem State.polled_ids (l ix : Nat) (d : DieType) (result : Nat) (s : State) :
    (State.polled l ix d result s).entries = s.entries := by
  unfold State.polled
  repeat' (first
    | with_reducible rfl | (intro _; intros) | split | (with_reducible refine State.onUnit_ids' _ _ _ _ ?_ ?_) | simp)
@[simp] theorem State.suspendEnd_ids (l : Nat) (d : DieType) (result : Nat) (s : State) :
    (State.suspendEnd l d result s).entries = s.entries := by
  unfold State.suspendEnd
  split <;> simp
@[simp] theorem State.resumed_ids (l : Nat) (d : DieType) (s : State) :
    (State.resumed l d s).entries = s.entries := by
  unfold State.resumed
  repeat' (first
    | with_reducible rfl | (intro _; intros) | split | (with_reducible refine State.onUnit_ids' _ _ _ _ ?_ ?_)
    | (with_reducible refine fold_ids _ _ _ _ ?_ ?_) | simp)
@[simp] theorem State.dataEnd_ids (l : Nat) (d : DieType) (g : Grant) (result : Nat) (s : State) :
    (State.dataEnd l d g result s).entries = s.entries := by
  unfold State.dataEnd
  repeat' (first | split | simp)
@[simp] theorem State.dataInAborted_ids (l : Nat) (g : Grant) (s : State) :
    (State.dataInAborted l g s).entries = s.entries := foldl_ids _ _ (fun _ _ => by simp) _
@[simp] theorem State.schedEnd_ids (l : Nat) (d : DieType) (g : Grant) (result : Nat) (st : BitVec 64) (s : State) :
    (State.schedEnd l d g result st s).entries = s.entries := by
  unfold State.schedEnd
  repeat' (first
    | with_reducible rfl | (intro _; intros) | split | (with_reducible refine State.onUnit_ids' _ _ _ _ ?_ ?_)
    | (with_reducible refine fold_ids _ _ _ _ ?_ ?_) | simp)
theorem execScheduleEnd_ids (ch : Nat) (s : State) : Res.ids (execScheduleEnd ch s) s.entries := by
  unfold execScheduleEnd
  repeat' (first
    | with_reducible rfl | (intro _; intros) | (with_reducible refine next_ids _ _ ?_)
    | (with_reducible refine onlyIf_ids _ _ _ _ ?_ ?_) | split | simp)
theorem execGrantRelease_ids (ch : Nat) (s : State) : Res.ids (execGrantRelease ch s) s.entries := by
  unfold execGrantRelease
  repeat' (first
    | with_reducible rfl | (intro _; intros) | (with_reducible refine next_ids _ _ ?_)
    | (with_reducible refine onlyIf_ids _ _ _ _ ?_ ?_) | split | simp)
theorem execGrantLimitExceeded_ids (ch : Nat) (s : State) : Res.ids (execGrantLimitExceeded ch s) s.entries := by
  unfold execGrantLimitExceeded
  repeat' (first
    | with_reducible rfl | (intro _; intros) | (with_reducible refine next_ids _ _ ?_)
    | (with_reducible refine onlyIf_ids _ _ _ _ ?_ ?_) | split | simp)
theorem State.resumeGrants_ids {n : Nat} {ls : List Nat} {s t : State} (h : State.resumeGrants n ls s = some t) :
    t.entries = s.entries := by
  exact bindFold_ids _ (fun l s t h => by
    split at h
    · split at h
      · exact State.runGrant_ids h
      · cases h; rfl
    · cases h; rfl) ls (some s) _ (fun _ h => by cases h; rfl) t h
theorem execStepReloadDone_ids (step : Nat) (content : BitVec 160) (s : State) :
    Res.ids (execStepReloadDone step content s) s.entries := by
  unfold execStepReloadDone
  repeat' (first
    | with_reducible rfl | (intro _; intros) | (with_reducible refine next_ids _ _ ?_)
    | (with_reducible refine runRes_ids _ _ ?_) | split | (with_reducible refine fold_ids _ _ _ _ ?_ ?_) | simp
    | with_reducible refine (State.resumeGrants_ids (by assumption)).trans ?_)
theorem execUrgencyPromotion_ids (ix : Nat) (gen : BitVec 16) (s : State) :
    Res.ids (execUrgencyPromotion ix gen s) s.entries := by
  unfold execUrgencyPromotion
  repeat' (first
    | with_reducible assumption | with_reducible rfl | (intro _; intros)
    | (with_reducible refine onlyIf_ids _ _ _ _ ?_ ?_) | split
    | (with_reducible refine State.onUnit_ids' _ _ _ _ ?_ ?_) | simp)
theorem State.eventActs_ids (e : Option Event) (f : State → State) (s : State)
    (h : (f s).entries = s.entries) : (State.eventActs e f s).entries = s.entries := by
  unfold State.eventActs
  split
  · exact State.stale_ids _
  · exact h
theorem execReadyPollDue_ids (lun : Nat) (s : State) : Res.ids (execReadyPollDue lun s) (s.entries) :=
  State.onEvent_ids _ _ _ _ _ rfl ((State.eventActs_ids _ _ _ (by simp)).trans
    (State.onLun_ids _ _ _))
theorem execRunTimeExpiry_ids (lun : Nat) (s : State) : Res.ids (execRunTimeExpiry lun s) (s.entries) :=
  State.onEvent_ids _ _ _ _ _ rfl ((State.eventActs_ids _ _ _ (by simp)).trans
    (State.onLun_ids _ _ _))
theorem execSuspendWindowExpiry_ids (lun : Nat) (s : State) : Res.ids (execSuspendWindowExpiry lun s) (s.entries) :=
  State.onEvent_ids _ _ _ _ _ rfl ((State.eventActs_ids _ _ _ (by simp)).trans
    (State.onLun_ids _ _ _))
theorem execMergeWindowExpiry_ids (lun : Nat) (s : State) : Res.ids (execMergeWindowExpiry lun s) (s.entries) :=
  State.onEvent_ids _ _ _ _ _ rfl ((State.eventActs_ids _ _ _ (by simp)).trans
    (State.onLun_ids _ _ _))
theorem State.resumeStarved_ids {l : Nat} {s t : State} (h : s.resumeStarved l = some t) : t.entries = s.entries := by
  unfold State.resumeStarved at h
  split at h
  · split at h
    · exact State.runGrant_ids h
    · cases h; rfl
  · cases h; rfl
theorem execSourceDataReturn_ids (chain : ChainId) (tag : Nat) (data : List Byte) (s : State) :
    Res.ids (execSourceDataReturn chain tag data s) (s.entries) := by
  unfold execSourceDataReturn
  repeat' split
  · exact next_ids _ _ rfl
  · exact next_ids _ _ (State.popTag_ids (by assumption))
  · exact next_ids _ _ rfl
  · exact runRes_ids _ _ fun t ht => (State.resumeStarved_ids ht).trans (State.sourceReturn_ids (by assumption))
  · exact next_ids _ _ (State.sourceReturn_ids (by assumption))

/-! ## Setup -/

@[simp] theorem State.addSetup_ids (ch ce : Nat) (acts : List PinAct) (s : State) :
    (State.addSetup ch ce acts s).entries = s.entries := rfl
@[simp] theorem State.setUpDone_ids (l : Nat) (x : Run) (s : State) :
    (State.setUpDone l x s).entries = s.entries := by
  unfold State.setUpDone
  repeat' (first | (intro _; intros) | split | (with_reducible refine fold_ids _ _ _ _ ?_ ?_) | simp)
theorem State.runSetUp_ids {l : Nat} {d : DieType} {sdr : Option Nat} {ps : List SetUp} {s t : State} (h :
    s.runSetUp l d sdr ps = some t) : t.entries = s.entries := by
  unfold State.runSetUp at h
  split at h
  · cases h; rfl
  · dsimp only at h
    obtain ⟨x, -, rfl⟩ := Option.map_eq_some_iff.mp h
    simp

end Sys2Proof.Machine
end

