-- ==== Sys2Proof/Laws/EntriesUnits.lean ====
section
/-! SUPPORT. The entries are kept: recovery, intake, decoding, learning, the relay and the PSP. -/

namespace Sys2Proof.Machine

/-! ## Ladder -/

@[simp] theorem State.sourceRead_ids (ix : Nat) (s : State) :
    (State.sourceRead ix s).entries = s.entries := by simp [State.sourceRead]
@[simp] theorem State.readEnd_ids (ix : Nat) (s : State) : (State.readEnd ix s).entries = s.entries := by
  unfold State.readEnd
  repeat' split
  all_goals simp
@[simp] theorem State.cwFails_ids (ix cw : Nat) (st : Status) (s : State) :
    (State.cwFails ix cw st s).entries = s.entries := by
  unfold State.cwFails
  split <;> simp
@[simp] theorem State.climb_ids (ix : Nat) (s : State) : (State.climb ix s).entries = s.entries := by
  unfold State.climb
  repeat' (first | rfl | split | simp)
@[simp] theorem State.askSense_ids (ix : Nat) (s : State) : (State.askSense ix s).entries = s.entries := by
  unfold State.askSense
  split <;> rfl
@[simp] theorem State.stepDone_ids (ix : Nat) (s : State) : (State.stepDone ix s).entries = s.entries := by
  unfold State.stepDone
  repeat' (first
    | with_reducible rfl | (intro _; intros) | split | (with_reducible refine State.onUnit_ids' _ _ _ _ ?_ ?_)
    | (with_reducible refine fold_ids _ _ _ _ ?_ ?_) | simp)
@[simp] theorem State.unhold_ids (s : State) (ix : Nat) : (State.unhold s ix).entries = s.entries := by
  unfold State.unhold
  repeat' split
  all_goals simp
@[simp] theorem State.unholdAll_ids (ctx : Nat) (s : State) : (State.unholdAll ctx s).entries = s.entries := by
  unfold State.unholdAll
  repeat' (first
    | with_reducible rfl | (intro _; intros) | split | (with_reducible refine fold_ids _ _ _ _ ?_ ?_) | simp)
@[simp] theorem State.chainResume_ids (s : State) : (State.chainResume s).entries = s.entries := by
  unfold State.chainResume
  repeat' (first
    | with_reducible rfl | (intro _; intros) | split | (with_reducible refine fold_ids _ _ _ _ ?_ ?_) | simp)
theorem execChainResume_ids (s : State) : Res.ids (execChainResume s) s.entries := by
  unfold execChainResume
  repeat' (first
    | with_reducible assumption | with_reducible rfl | (intro _; intros)
    | (with_reducible refine hcpAccess_ids _ _ _ ?_ ?_) | split | simp)
theorem execRefireBackoffExpiry_ids (lun : Nat) (s : State) : Res.ids (execRefireBackoffExpiry lun s) (s.entries) :=
  State.onEvent_ids _ _ _ _ _ rfl ((State.eventActs_ids _ _ _ (foldl_ids _ _ (fun _ _ => by simp) _)).trans
    (State.onLun_ids _ _ _))
@[simp] theorem State.toLane_ids (ix cw : Nat) (soft : Bool) (s : State) :
    (State.toLane ix cw soft s).entries = s.entries := by
  unfold State.toLane
  split <;> simp
@[simp] theorem State.takeSample_ids (ix : Nat) (s : State) : (State.takeSample ix s).entries = s.entries := by
  unfold State.takeSample
  repeat' (first | rfl | split | simp)

/-! ## Intake -/

@[simp] theorem State.allArrived_ids (ix : Nat) (s : State) : (State.allArrived ix s).entries = s.entries := by
  unfold State.allArrived
  repeat' (first
    | with_reducible rfl | (intro _; intros) | split | (with_reducible refine State.onUnit_ids' _ _ _ _ ?_ ?_)
    | (with_reducible refine fold_ids _ _ _ _ ?_ ?_) | simp)
@[simp] theorem State.senseArrived_ids (ix : Nat) (s : State) : (State.senseArrived ix s).entries = s.entries := by
  unfold State.senseArrived
  repeat' (first
    | with_reducible rfl | (intro _; intros) | split | (with_reducible refine State.onUnit_ids' _ _ _ _ ?_ ?_)
    | (with_reducible refine fold_ids _ _ _ _ ?_ ?_) | simp)
@[simp] theorem State.codewordIn_ids (ix r zeros : Nat) (s : State) :
    (State.codewordIn ix r zeros s).entries = s.entries := by
  unfold State.codewordIn
  repeat' (first | rfl | split | simp)
@[simp] theorem State.sherdOutcome_ids (ix : Nat) (st : Status) (payload : List Byte) (s : State) :
    (State.sherdOutcome ix st payload s).entries = s.entries := by
  unfold State.sherdOutcome
  repeat' split
  all_goals simp
@[simp] theorem State.sherdLost_ids (ix : Nat) (s : State) :
    (State.sherdLost ix s).entries = s.entries := by simp [State.sherdLost]
@[simp] theorem State.sherdIn_ids (ix zeros : Nat) (bytes : List Byte) (s : State) :
    (State.sherdIn ix zeros bytes s).entries = s.entries := by
  unfold State.sherdIn
  repeat' (first | rfl | split | simp)
@[simp] theorem State.rawIn_ids (ix n : Nat) (bytes : List Byte) (s : State) :
    (State.rawIn ix n bytes s).entries = s.entries := by
  unfold State.rawIn
  repeat' split
  all_goals simp
@[simp] theorem State.cutEgress_ids (ch : Nat) (s : State) : (State.cutEgress ch s).entries = s.entries := by
  unfold State.cutEgress
  repeat' (first | rfl | split | simp)
theorem execPacketComplete_ids (ch : Nat) (bytes : List Byte) (short : Bool) (mismatch : Option Mismatch) (s :
    State) : Res.ids (execPacketComplete ch bytes short mismatch s) s.entries := by
  unfold execPacketComplete
  repeat' (first
    | with_reducible rfl | (intro _; intros) | (with_reducible refine next_ids _ _ ?_)
    | (with_reducible refine onlyIf_ids _ _ _ _ ?_ ?_) | split | simp)
theorem execFlushTakesEffect_ids (ch : Nat) (egress : Bool) (s : State) :
    Res.ids (execFlushTakesEffect ch egress s) s.entries := by
  unfold execFlushTakesEffect
  repeat' (first
    | with_reducible rfl | (intro _; intros) | (with_reducible refine onlyIf_ids _ _ _ _ ?_ ?_) | split | simp)
@[simp] theorem State.writeFlush_ids (data : Word) (s : State) : (State.writeFlush data s).entries = s.entries := by
  unfold State.writeFlush
  repeat' (first | rfl | split | simp)
theorem execPoolFlushIngress_ids (data : Word) (s : State) : Res.ids (execPoolFlushIngress data s) s.entries := by
  unfold execPoolFlushIngress
  repeat' (first
    | with_reducible assumption | with_reducible rfl | (intro _; intros)
    | (with_reducible refine hcpAction_ids _ _ _ _ ?_ ?_) | split | simp)
theorem execPoolFlushEgress_ids (data : Word) (s : State) : Res.ids (execPoolFlushEgress data s) s.entries := by
  unfold execPoolFlushEgress
  repeat' (first
    | with_reducible assumption | with_reducible rfl | (intro _; intros)
    | (with_reducible refine hcpAction_ids _ _ _ _ ?_ ?_) | split | simp)
@[simp] theorem State.serve_ids (c : Nat) (r : AllocReq) (pecks : List Nat) (s : State) :
    (State.serve c r pecks s).entries = s.entries := by
  unfold State.serve
  repeat' (first | (intro _; intros) | split | (with_reducible refine fold_ids _ _ _ _ ?_ ?_) | simp)
theorem execPeckAllocationGrant_ids (ch : Option Nat) (pecks : List Nat) (s : State) :
    Res.ids (execPeckAllocationGrant ch pecks s) s.entries := by
  unfold execPeckAllocationGrant
  repeat' (first
    | with_reducible rfl | (intro _; intros) | (with_reducible refine next_ids _ _ ?_)
    | (with_reducible refine onlyIf_ids _ _ _ _ ?_ ?_) | split | (with_reducible refine fold_ids _ _ _ _ ?_ ?_) | simp)
theorem execFoldAdmission_ids (lun : Nat) (pecks : List Nat) (s : State) :
    Res.ids (execFoldAdmission lun pecks s) s.entries := by
  unfold execFoldAdmission
  repeat' (first
    | with_reducible rfl | (intro _; intros) | (with_reducible refine next_ids _ _ ?_)
    | (with_reducible refine onlyIf_ids _ _ _ _ ?_ ?_) | split | simp)

/-! ## Decoders -/

theorem execDecodeStart_ids (kind : LaneKind) (s : State) : Res.ids (execDecodeStart kind s) s.entries := by
  unfold execDecodeStart
  repeat' (first
    | with_reducible rfl | (intro _; intros) | (with_reducible refine next_ids _ _ ?_)
    | (with_reducible refine onlyIf_ids _ _ _ _ ?_ ?_) | split | simp)
@[simp] theorem State.freeLane_ids (lane : Nat) (s : State) : (State.freeLane lane s).entries = s.entries := rfl
@[simp] theorem State.orphans_ids (s : State) : (State.orphans s).entries = s.entries := by
  unfold State.orphans
  repeat' (first
    | with_reducible rfl | (intro _; intros) | split | (with_reducible refine fold_ids _ _ _ _ ?_ ?_) | simp)
@[simp] theorem State.decoderFault_ids (kind : LaneKind) (lane : Nat) (i : DecItem) (cause : DecCause) (s : State) :
    (State.decoderFault kind lane i cause s).entries = s.entries := by simp [State.decoderFault]
theorem execSpareLaneInService_ids (lane : Nat) (s : State) :
    Res.ids (execSpareLaneInService lane s) s.entries := onlyIf_ids _ _ _ _ rfl (fun _ => rfl)
@[simp] theorem State.cwPasses_ids (ix cw n : Nat) (data : List Byte) (s : State) :
    (State.cwPasses ix cw n data s).entries = s.entries := by
  unfold State.cwPasses
  dsimp only
  repeat' split
  all_goals simp
@[simp] theorem State.addIters_ids (ix : Nat) (gen : BitVec 16) (n : Nat) (s : State) :
    (State.addIters ix gen n s).entries = s.entries := by simp [State.addIters]
@[simp] theorem State.cwLimit_ids (ix cw n : Nat) (s : State) : (State.cwLimit ix cw n s).entries = s.entries := by
  unfold State.cwLimit
  repeat' split
  all_goals rfl
@[simp] theorem State.hardEnd_ids (lane : Nat) (i : DecItem) (cfg llr : Word) (s : State) :
    (State.hardEnd lane i cfg llr s).entries = s.entries := by
  unfold State.hardEnd
  repeat' (first | rfl | split | simp)
theorem execHardDecodeEnd_ids (kind : LaneKind) (lane : Nat) (fault : Option DecCause) (s : State) :
    Res.ids (execHardDecodeEnd kind lane fault s) s.entries := by
  unfold execHardDecodeEnd
  repeat' (first
    | with_reducible rfl | (intro _; intros) | (with_reducible refine next_ids _ _ ?_)
    | (with_reducible refine onlyIf_ids _ _ _ _ ?_ ?_) | split | simp)
@[simp] theorem State.softEnd_ids (lane : Nat) (i : DecItem) (cfg llr : Word) (s : State) :
    (State.softEnd lane i cfg llr s).entries = s.entries := by
  unfold State.softEnd
  repeat' (first | rfl | split | simp)
theorem execSoftDecodeEnd_ids (lane : Nat) (fault : Option DecCause) (s : State) :
    Res.ids (execSoftDecodeEnd lane fault s) s.entries := by
  unfold execSoftDecodeEnd
  repeat' (first
    | with_reducible rfl | (intro _; intros) | (with_reducible refine next_ids _ _ ?_)
    | (with_reducible refine onlyIf_ids _ _ _ _ ?_ ?_) | split | simp)
@[simp] theorem State.sherdEnd_ids (lane : Nat) (i : DecItem) (s : State) :
    (State.sherdEnd lane i s).entries = s.entries := by
  unfold State.sherdEnd
  try dsimp only [State.drawFree]
  repeat' (first | split | (simp; done))
theorem execSherdDecodeEnd_ids (lane : Nat) (fault : Option DecCause) (s : State) :
    Res.ids (execSherdDecodeEnd lane fault s) s.entries := by
  unfold execSherdDecodeEnd
  repeat' (first
    | with_reducible rfl | (intro _; intros) | (with_reducible refine next_ids _ _ ?_)
    | (with_reducible refine onlyIf_ids _ _ _ _ ?_ ?_) | split | simp)
@[simp] theorem State.decideScan_ids (ix : Nat) (u : LUnit) (c : Cmd) (st : Status) (s : State) :
    (State.decideScan ix u c st s).entries = s.entries := by
  unfold State.decideScan
  dsimp only
  repeat' split
  all_goals simp
theorem execPredicateDecision_ids (ix : Nat) (gen : BitVec 16) (s : State) :
    Res.ids (execPredicateDecision ix gen s) s.entries := by
  unfold execPredicateDecision
  repeat' (first
    | with_reducible rfl | (intro _; intros) | (with_reducible refine next_ids _ _ ?_)
    | (with_reducible refine onlyIf_ids _ _ _ _ ?_ ?_) | split | simp)

/-! ## Cal -/

@[simp] theorem State.relearnConverged_ids (l : Nat) (s : State) :
    (State.relearnConverged l s).entries = s.entries := by simp [State.relearnConverged]
@[simp] theorem State.relearnTimedOut_ids (l : Nat) (r : Relearn) (s : State) :
    (State.relearnTimedOut l r s).entries = s.entries := rfl
@[simp] theorem State.relearnSample_ids (p : Sample) (e : Int) (r : Relearn) (s : State) :
    (State.relearnSample p e r s).entries = s.entries := by
  unfold State.relearnSample
  repeat' (first | split | simp)
@[simp] theorem State.calConverged_ids (ctx : Nat) (s : State) : (State.calConverged ctx s).entries = s.entries := by
  unfold State.calConverged
  repeat' (first
    | with_reducible rfl | (intro _; intros) | split | (with_reducible refine State.onCmd_ids' _ _ _ _ ?_ ?_)
    | (with_reducible refine fold_ids _ _ _ _ ?_ ?_) | simp)
@[simp] theorem State.internalSample_ids (ctx : Nat) (p : Sample) (e : Int) (s : State) :
    (State.internalSample ctx p e s).entries = s.entries := by
  unfold State.internalSample
  repeat' (first | rfl | split | simp)
@[simp] theorem State.applySample_ids (p : Sample) (s : State) :
    (s.applySample p).entries = s.entries := by
  unfold State.applySample
  extract_lets e s1 tracked
  have h1 : s1.entries = s.entries := State.onCal_ids _ _
  have h2 : ∀ t, (tracked t).entries = t.entries := fun t =>
    State.onCal_ids _ _
  repeat' split
  all_goals simp [h1, h2]
theorem execSampleApply_ids (s : State) : Res.ids (execSampleApply s) s.entries := by
  unfold execSampleApply
  repeat' (first
    | with_reducible rfl | (intro _; intros) | (with_reducible refine next_ids _ _ ?_)
    | (with_reducible refine onlyIf_ids _ _ _ _ ?_ ?_) | split | simp)
theorem execTemperatureReadDue_ids (lun : Nat) (s : State) : Res.ids (execTemperatureReadDue lun s) s.entries := by
  unfold execTemperatureReadDue
  repeat' (first
    | with_reducible rfl | (with_reducible refine next_ids _ _ ?_)
    | (with_reducible refine State.onEvent_ids _ _ _ _ _ ?_ ?_) | split | simp)
@[simp] theorem State.urgentCheck_ids (l : Nat) (s : State) : (State.urgentCheck l s).entries = s.entries := by
  unfold State.urgentCheck
  dsimp only
  split <;> simp
@[simp] theorem State.crossing_ids (l : Nat) (hot : Bool) (s : State) :
    (State.crossing l hot s).entries = s.entries := by simp [State.crossing]
theorem execTemperatureReading_ids (lun : Nat) (t : Int) (s : State) :
    Res.ids (execTemperatureReading lun t s) s.entries := by
  unfold execTemperatureReading
  repeat' (first
    | with_reducible rfl | (intro _; intros) | (with_reducible refine onlyIf_ids _ _ _ _ ?_ ?_) | split | simp)
theorem execRelearnTimeout_ids (lun : Nat) (s : State) : Res.ids (execRelearnTimeout lun s) s.entries := by
  unfold execRelearnTimeout
  repeat' (first
    | with_reducible rfl | (intro _; intros) | (with_reducible refine next_ids _ _ ?_)
    | (with_reducible refine onlyIf_ids _ _ _ _ ?_ ?_) | split | simp)
@[simp] theorem State.askTraining_ids (k : Nat) (s : State) : (State.askTraining k s).entries = s.entries := by
  unfold State.askTraining
  split <;> rfl
theorem execThmDieTSample_ids (code : BitVec 10) (s : State) : Res.ids (execThmDieTSample code s) s.entries := by
  unfold execThmDieTSample
  repeat' (first
    | with_reducible rfl | (intro _; intros) | (with_reducible refine onlyIf_ids _ _ _ _ ?_ ?_) | split
    | (with_reducible refine fold_ids _ _ _ _ ?_ ?_) | simp)
@[simp] theorem State.joinTraining_ids (ctx : Nat) (s : State) : (State.joinTraining ctx s).entries = s.entries := by
  unfold State.joinTraining
  repeat' (first | rfl | split | simp)
@[simp] theorem State.beginCalibrate_ids (ctx : Nat) (fetching : Bool) (s : State) :
    (State.beginCalibrate ctx fetching s).entries = s.entries := by
  unfold State.beginCalibrate
  repeat' split
  all_goals simp
@[simp] theorem State.beginRemote_ids (ctx : Nat) (s : State) :
    (State.beginRemote ctx s).entries = s.entries := by simp [State.beginRemote]
@[simp] theorem State.onPatrol_ids (l : Nat) (f : Patrol → Patrol) (s : State) :
    (State.onPatrol l f s).entries = s.entries := rfl
@[simp] theorem State.setPeriod_ids (l : Nat) (n : Nat) (s : State) :
    (State.setPeriod l n s).entries = s.entries := by
  unfold State.setPeriod
  repeat' (first | split | simp)
theorem execPatrolAccrual_ids (lun : Nat) (s : State) : Res.ids (execPatrolAccrual lun s) s.entries := by
  unfold execPatrolAccrual
  repeat' (first
    | with_reducible rfl | (with_reducible refine next_ids _ _ ?_)
    | (with_reducible refine State.onEvent_ids _ _ _ _ _ ?_ ?_) | split | simp)

/-! ## Cq -/

@[simp] theorem State.writeCqe_ids (ctx : Nat) (c : Cmd) (s : State) :
    (State.writeCqe ctx c s).entries = s.entries := by
  unfold State.writeCqe
  repeat' (first
    | with_reducible rfl | (intro _; intros) | split | (with_reducible refine State.onUnit_ids' _ _ _ _ ?_ ?_)
    | (with_reducible refine State.onCmd_ids' _ _ _ _ ?_ ?_) | (with_reducible refine fold_ids _ _ _ _ ?_ ?_) | simp)
theorem execCqWrite_ids (ctx : Nat) (s : State) : Res.ids (execCqWrite ctx s) s.entries := by
  unfold execCqWrite
  repeat' (first
    | with_reducible rfl | (intro _; intros) | (with_reducible refine next_ids _ _ ?_)
    | (with_reducible refine onlyIf_ids _ _ _ _ ?_ ?_) | split | simp)
theorem execCqWriteAck_ids (cq : Nat) (s : State) : Res.ids (execCqWriteAck cq s) s.entries := by
  unfold execCqWriteAck
  repeat' (first
    | with_reducible rfl | (intro _; intros) | (with_reducible refine next_ids _ _ ?_)
    | (with_reducible refine onlyIf_ids _ _ _ _ ?_ ?_) | split
    | (with_reducible refine State.onCmd_ids' _ _ _ _ ?_ ?_) | simp
    | with_reducible exact State.popWrite_ids (by assumption))
theorem execCqWriteError_ids (cq : Nat) (s : State) : Res.ids (execCqWriteError cq s) s.entries := by
  unfold execCqWriteError
  repeat' (first
    | with_reducible rfl | (intro _; intros) | (with_reducible refine next_ids _ _ ?_)
    | (with_reducible refine onlyIf_ids _ _ _ _ ?_ ?_) | split | simp
    | with_reducible exact State.popWrite_ids (by assumption))

/-! ## Relay -/

@[simp] theorem State.openLink_ids (b : Nat) (s : State) : (State.openLink b s).entries = s.entries := by
  unfold State.openLink
  repeat' split
  all_goals simp
@[simp] theorem State.linkTrained_ids (ch : Nat) (s : State) : (State.linkTrained ch s).entries = s.entries := by
  unfold State.linkTrained
  repeat' split
  all_goals simp
@[simp] theorem State.linkEvent_ids (b : Nat) (s : State) : (State.linkEvent b s).entries = s.entries := by
  unfold State.linkEvent
  dsimp only
  split <;> simp
@[simp] theorem State.park_ids (ix : Nat) (s : State) : (State.park ix s).entries = s.entries := by
  unfold State.park
  repeat' (first
    | with_reducible rfl | (intro _; intros) | split | (with_reducible refine State.onUnit_ids' _ _ _ _ ?_ ?_))
@[simp] theorem State.retract_ids (ctx ix : Nat) (s : State) : (State.retract ctx ix s).entries = s.entries := by
  unfold State.retract
  repeat' split
  all_goals simp
@[simp] theorem State.discardData_ids (ix : Nat) (o : Origin) (s : State) :
    (State.discardData ix o s).entries = s.entries := by
  unfold State.discardData
  repeat' (first | (intro _; intros) | split | (with_reducible refine fold_ids _ _ _ _ ?_ ?_) | simp)
@[simp] theorem State.loseData_ids (s : State) (ctx ix loss : Nat) :
    (State.loseData s ctx ix loss).entries = s.entries := by
  unfold State.loseData
  dsimp only
  split <;> simp
@[simp] theorem State.ownerSafe_ids (s : State) (ctx : Nat) : (State.ownerSafe s ctx).entries = s.entries := by
  unfold State.ownerSafe
  repeat' split
  all_goals simp
@[simp] theorem State.linkDown_ids (b : Nat) (s : State) : (State.linkDown b s).entries = s.entries := by
  unfold State.linkDown
  repeat' (first
    | with_reducible rfl | (intro _; intros) | split | (with_reducible refine fold_ids _ _ _ _ ?_ ?_) | simp)
@[simp] theorem State.relayLost_ids (s : State) (ix : Nat) :
    (State.relayLost s ix).entries = s.entries := by simp [State.relayLost]
@[simp] theorem State.loseUnits_ids (b : Nat) (s : State) :
    (State.loseUnits b s).entries = s.entries := foldl_ids _ _ (fun _ _ => by simp) _
@[simp] theorem State.dropSession_ids (b : Nat) (s : State) : (State.dropSession b s).entries = s.entries := by
  unfold State.dropSession
  repeat' (first
    | with_reducible rfl | (intro _; intros) | split | (with_reducible refine State.onCmd_ids' _ _ _ _ ?_ ?_)
    | (with_reducible refine fold_ids _ _ _ _ ?_ ?_) | simp)
@[simp] theorem State.sendLog_ids (b : Nat) (s : State) : (State.sendLog b s).entries = s.entries := by
  unfold State.sendLog
  repeat' split
  all_goals rfl
@[simp] theorem State.unpark_ids (s : State) (ix : Nat) : (State.unpark s ix).entries = s.entries := by
  unfold State.unpark
  repeat' (first | rfl | split | simp)
@[simp] theorem State.linkUp_ids (b : Nat) (f : RFrame) (s : State) : (State.linkUp b f s).entries = s.entries := by
  unfold State.linkUp
  repeat' (first
    | with_reducible rfl | (intro _; intros) | split | (with_reducible refine fold_ids _ _ _ _ ?_ ?_) | simp)
@[simp] theorem State.rxGood_ids (b ch : Nat) (f : RFrame) (s : State) :
    (State.rxGood b ch f s).entries = s.entries := by
  unfold State.rxGood
  repeat' (first
    | with_reducible rfl | (intro _; intros) | split | (with_reducible refine fold_ids _ _ _ _ ?_ ?_) | simp)
@[simp] theorem State.fillPeck_ids (p ix : Nat) (u : LUnit) (f : RFrame) (s : State) :
    (State.fillPeck p ix u f s).entries = s.entries := rfl
@[simp] theorem State.rawRoom_ids (ix : Nat) (u : LUnit) (s : State) :
    (State.rawRoom ix u s).entries = s.entries := by
  unfold State.rawRoom
  repeat' split
  all_goals simp
@[simp] theorem State.ownerData_ids (b : Nat) (f : RFrame) (held : Option Nat) (s : State) :
    (State.ownerData b f held s).entries = s.entries := by
  unfold State.ownerData
  repeat' (first | rfl | split | simp)
@[simp] theorem State.upstreamData_ids (f : RFrame) (s : State) : (State.upstreamData f s).entries = s.entries := by
  unfold State.upstreamData
  repeat' split
  all_goals simp
@[simp] theorem State.sendAgain_ids (ix : Nat) (s : State) :
    (State.sendAgain ix s).entries = s.entries := by simp [State.sendAgain]
@[simp] theorem State.upstreamDone_ids (f : RFrame) (s : State) : (State.upstreamDone f s).entries = s.entries := by
  unfold State.upstreamDone
  dsimp only
  repeat' split
  all_goals simp
@[simp] theorem State.holdAhead_ids (b : Nat) (f : RFrame) (s : State) :
    (State.holdAhead b f s).entries = s.entries := by
  unfold State.holdAhead
  repeat' (first | rfl | split | simp)
@[simp] theorem State.leaveService_ids (ch : Nat) (l : Link) (s : State) :
    (State.leaveService ch l s).entries = s.entries := by
  unfold State.leaveService
  split <;> simp
@[simp] theorem State.badFrame_ids (b ch : Nat) (l : Link) (s : State) :
    (State.badFrame b ch l s).entries = s.entries := by
  unfold State.badFrame
  dsimp only
  split <;> simp
theorem relayRx_ids (ch typ : Nat) (f : RFrame) (go : Nat → Link → State → State) (s : State)
    (h : ∀ b l t, (go b l t).entries = t.entries) : Res.ids (relayRx ch typ f go s) (s.entries) := by
  unfold relayRx
  split
  · exact next_ids _ _ rfl
  · split
    · exact next_ids _ _ rfl
    · refine onlyIf_ids _ _ _ _ rfl fun _ => ?_
      repeat' split
      · exact h _ _ _
      · exact State.badFrame_ids _ _ _ _
      · rfl
theorem State.resumeAll_ids {s t : State} (h : s.resumeAll = some t) : t.entries = s.entries := by
  exact bindFold_ids (fun l s => s.resumeStarved l) (fun _ _ _ h => State.resumeStarved_ids h) _ (some s) _
    (fun _ h => by cases h; rfl) t h
theorem thenResume_ids (r : Res) (x : Entries) (h : Res.ids r x) :
    Res.ids (thenResume r) x := by
  unfold thenResume
  split
  · split
    · exact runRes_ids _ _ (fun t ht => (State.resumeAll_ids ht).trans (h.out _ rfl))
    · exact h
  · exact h
theorem execRelayCreditFrame_ids (ch : Nat) (f : RFrame) (s : State) :
    Res.ids (execRelayCreditFrame ch f s) s.entries := relayRx_ids _ _ _ _ _ (fun _ _ _ => by simp)
theorem execRelayHeartbeatFrame_ids (ch : Nat) (f : RFrame) (s : State) :
    Res.ids (execRelayHeartbeatFrame ch f s) s.entries := relayRx_ids _ _ _ _ _ (fun _ _ _ => by simp)
theorem execRelayHelloFrame_ids (ch : Nat) (f : RFrame) (s : State) :
    Res.ids (execRelayHelloFrame ch f s) s.entries := by
  unfold execRelayHelloFrame
  repeat' (first | (intro _; intros) | (with_reducible refine relayRx_ids _ _ _ _ _ ?_) | split | simp)
theorem execRelayTrainFrame_ids (ch : Nat) (f : RFrame) (s : State) :
    Res.ids (execRelayTrainFrame ch f s) s.entries := by
  unfold execRelayTrainFrame
  repeat' (first | (intro _; intros) | (with_reducible refine relayRx_ids _ _ _ _ _ ?_) | split | simp)
theorem execRelayBadFrame_ids (ch : Nat) (s : State) : Res.ids (execRelayBadFrame ch s) s.entries := by
  unfold execRelayBadFrame
  repeat' (first
    | with_reducible rfl | (intro _; intros) | (with_reducible refine next_ids _ _ ?_)
    | (with_reducible refine onlyIf_ids _ _ _ _ ?_ ?_) | split | simp)
theorem execRelayReadIdPoll_ids (ch : Nat) (id : List Byte) (s : State) :
    Res.ids (execRelayReadIdPoll ch id s) s.entries := by
  unfold execRelayReadIdPoll
  repeat' (first
    | with_reducible rfl | (intro _; intros) | (with_reducible refine next_ids _ _ ?_)
    | (with_reducible refine onlyIf_ids _ _ _ _ ?_ ?_) | split | simp)
theorem execTargetReadId_ids (ch : Nat) (s : State) : Res.ids (execTargetReadId ch s) s.entries := by
  unfold execTargetReadId
  repeat' (first
    | with_reducible rfl | (intro _; intros) | (with_reducible refine next_ids _ _ ?_)
    | (with_reducible refine onlyIf_ids _ _ _ _ ?_ ?_) | split | simp)
@[simp] theorem State.startPull_ids (b ch : Nat) (s : State) : (State.startPull b ch s).entries = s.entries := rfl
theorem execRelayPullDue_ids (ch : Nat) (rbLow : Bool) (s : State) :
    Res.ids (execRelayPullDue ch rbLow s) s.entries := by
  unfold execRelayPullDue
  repeat' (first
    | with_reducible rfl | (intro _; intros) | (with_reducible refine next_ids _ _ ?_)
    | (with_reducible refine onlyIf_ids _ _ _ _ ?_ ?_) | split | simp)
theorem execTargetPull_ids (ch : Nat) (s : State) : Res.ids (execTargetPull ch s) s.entries := by
  unfold execTargetPull
  repeat' (first
    | with_reducible rfl | (intro _; intros) | (with_reducible refine next_ids _ _ ?_)
    | (with_reducible refine onlyIf_ids _ _ _ _ ?_ ?_) | split | simp)
theorem execRelayTransferEnd_ids (ch : Nat) (rbLow : Bool) (s : State) :
    Res.ids (execRelayTransferEnd ch rbLow s) s.entries := by
  unfold execRelayTransferEnd
  repeat' (first
    | with_reducible rfl | (intro _; intros) | (with_reducible refine next_ids _ _ ?_)
    | (with_reducible refine onlyIf_ids _ _ _ _ ?_ ?_) | split | simp)
theorem execRelayHeartbeatDue_ids (ch : Nat) (s : State) : Res.ids (execRelayHeartbeatDue ch s) s.entries := by
  unfold execRelayHeartbeatDue
  repeat' (first
    | with_reducible rfl | (intro _; intros) | (with_reducible refine next_ids _ _ ?_)
    | (with_reducible refine onlyIf_ids _ _ _ _ ?_ ?_) | split | simp)
theorem execRelayRetryTimeout_ids (ch : Nat) (s : State) : Res.ids (execRelayRetryTimeout ch s) s.entries := by
  unfold execRelayRetryTimeout
  repeat' (first
    | with_reducible rfl | (intro _; intros) | (with_reducible refine next_ids _ _ ?_)
    | (with_reducible refine onlyIf_ids _ _ _ _ ?_ ?_) | split | simp)
theorem execRelayChannelSilent_ids (ch : Nat) (s : State) : Res.ids (execRelayChannelSilent ch s) s.entries := by
  unfold execRelayChannelSilent
  repeat' (first
    | with_reducible rfl | (intro _; intros) | (with_reducible refine next_ids _ _ ?_)
    | (with_reducible refine onlyIf_ids _ _ _ _ ?_ ?_) | split | simp)
theorem execRelayLinkDown_ids (ch : Nat) (s : State) : Res.ids (execRelayLinkDown ch s) s.entries := by
  unfold execRelayLinkDown
  repeat' (first
    | with_reducible rfl | (intro _; intros) | (with_reducible refine next_ids _ _ ?_)
    | (with_reducible refine onlyIf_ids _ _ _ _ ?_ ?_) | split | simp)
theorem execTrainHoldExpiry_ids (ch : Nat) (s : State) : Res.ids (execTrainHoldExpiry ch s) s.entries := by
  unfold execTrainHoldExpiry
  try dsimp only [State.drawFree]
  repeat' (first
    | with_reducible rfl | (intro _; intros) | (with_reducible refine next_ids _ _ ?_)
    | (with_reducible refine onlyIf_ids _ _ _ _ ?_ ?_) | split | simp)
theorem execRelayHoldExpiry_ids (ch : Nat) (s : State) : Res.ids (execRelayHoldExpiry ch s) s.entries := by
  unfold execRelayHoldExpiry
  repeat' (first
    | with_reducible rfl | (intro _; intros) | (with_reducible refine next_ids _ _ ?_)
    | (with_reducible refine onlyIf_ids _ _ _ _ ?_ ?_) | split | simp)

/-! ## Train -/

@[simp] theorem State.setInterface_ids (k c e : Nat) (s : State) :
    (State.setInterface k c e s).entries = s.entries := rfl
@[simp] theorem State.calibrateZq_ids (k c e : Nat) (s : State) :
    (State.calibrateZq k c e s).entries = s.entries := by
  unfold State.calibrateZq
  split <;> rfl
theorem State.driveVref_ids {ch l n : Nat} {s t : State} (h : s.driveVref ch l n = some t) :
    t.entries = s.entries := by
  unfold State.driveVref at h
  split at h
  · exact State.runSetUp_ids h
  · cases h; rfl
theorem State.trainCe_ids {ch rate : Nat} {first : Bool} {v : BitVec 6} {e l : Nat} {s t : State} (h :
    s.trainCe ch rate first v e l = some t) : t.entries = s.entries := by
  unfold State.trainCe at h
  dsimp only at h
  obtain ⟨a, h1, rfl⟩ := Option.map_eq_some_iff.mp h
  obtain ⟨b, hb, h1⟩ := Option.bind_eq_some_iff.mp h1
  have hl : b.entries = s.entries := by
    split at hb
    · refine bindFold_ids (fun n s => (State.driveVref ch l n s).map (State.addSetup ch e [.wrTrain])) (fun n s t h => ?_)
        ((List.range 64).filter (fun i => i % sweepStride rate == 0))
        (some (s.addSetup ch e [.rdTrain])) _ (fun u hu => ?_) b ?_
      · obtain ⟨u, hu, rfl⟩ := Option.map_eq_some_iff.mp h
        exact (State.addSetup_ids _ _ _ _).trans (State.driveVref_ids hu)
      · cases hu
        exact State.addSetup_ids _ _ _ _
      · rw [← hb]
        congr 1
        funext o n
        cases o <;> rfl
    · cases hb; rfl
  have ha := (State.driveVref_ids h1).trans hl
  repeat' split
  all_goals simp [ha]
theorem State.trainPins_ids {ch rate : Nat} {v : BitVec 6} {s t : State} (h : s.trainPins ch rate v = some t) :
    t.entries = s.entries := by
  unfold State.trainPins at h
  split at h
  · cases h; rfl
  · obtain ⟨u, hu, rfl⟩ := Option.map_eq_some_iff.mp h
    have e := bindFold_ids (fun (q : Nat × Nat) t => State.trainCe ch rate (some q.1 == (s.countedCes ch).head?) v q.1 q.2 t)
      (fun _ _ _ h => State.trainCe_ids h) _ (some s) _ (fun _ h => by cases h; rfl) u hu
    split
    · exact (State.addSetup_ids _ _ _ _).trans e
    · exact e
theorem State.eachCounted_ids (k : Nat) (f : Nat → Nat → State → State) (s : State)
    (h : ∀ c e s, (f c e s).entries = s.entries) : (s.eachCounted k f).entries = s.entries :=
  foldl_ids _ _ (fun s c => foldl_ids _ _ (fun s e => h c e s) s) s
@[simp] theorem State.setUpPair_ids (k : Nat) (s : State) :
    (State.setUpPair k s).entries = s.entries := by
  unfold State.setUpPair
  refine (State.eachCounted_ids _ _ _ (fun _ _ _ => State.calibrateZq_ids _ _ _ _)).trans
    ((State.eachCounted_ids _ _ _ (fun _ _ _ => State.setInterface_ids _ _ _ _)).trans ?_)
  split
  · rfl
  · exact (foldl_ids _ _ (fun _ _ => State.onLun_ids _ _ _) _).trans (State.onPair_ids _ _ _)
@[simp] theorem State.beginTraining_ids (k : Nat) (s : State) : (State.beginTraining k s).entries = s.entries := by
  unfold State.beginTraining
  dsimp only
  split <;> simp
theorem execStartTraining_ids (pair : Nat) (s : State) :
    Res.ids (execStartTraining pair s) s.entries := onlyIf_ids _ _ _ _ rfl (fun _ => by simp)
theorem execTrainingStart_ids (pair : Nat) (s : State) : Res.ids (execTrainingStart pair s) s.entries := by
  unfold execTrainingStart
  repeat' (first
    | with_reducible assumption | with_reducible rfl | (intro _; intros)
    | (with_reducible refine onlyIf_ids _ _ _ _ ?_ ?_) | split | simp)
theorem State.pairPins_ids {k : Nat} {lo hi : Sweep} {s t : State} (h : s.pairPins k lo hi = some t) :
    t.entries = s.entries := by
  unfold State.pairPins at h
  exact bindFold_ids (fun c t => t.trainPins c (s.pair k).rate (s.trained c (s.pair k).rate (sweepOf c lo hi)).1.wrVref)
    (fun _ _ _ h => State.trainPins_ids h) _ (some s) _ (fun _ h => by cases h; rfl) t h
theorem State.sequenceRun_ids (k : Nat) (lo hi : Sweep) (f : State → State)
    (s : State) (h : ∀ t, (f t).entries = t.entries) : Res.ids (State.sequenceRun k lo hi f s) (s.entries) :=
  runRes_ids _ _ (fun t ht => by
    obtain ⟨u, hu, rfl⟩ := Option.map_eq_some_iff.mp ht
    have hu := State.pairPins_ids hu
    split
    · exact (h u).trans hu
    · exact hu)
@[simp] theorem State.trainingPassed_ids (k : Nat) (lo hi : Sweep) (s : State) :
    (State.trainingPassed k lo hi s).entries = s.entries := by
  unfold State.trainingPassed
  repeat' (first | with_reducible rfl | (intro _; intros) | (with_reducible refine fold_ids _ _ _ _ ?_ ?_) | simp)
theorem execTrainingComplete_ids (pair : Nat) (lo hi : Sweep) (s : State) :
    Res.ids (execTrainingComplete pair lo hi s) (s.entries) := by
  unfold execTrainingComplete
  split
  · exact State.sequenceRun_ids _ _ _ _ _ (fun _ => by simp)
  · exact next_ids _ _ rfl
@[simp] theorem State.trainFailed_ids (k cause : Nat) (bad : List Nat) (s : State) :
    (State.trainFailed k cause bad s).entries = s.entries := by
  unfold State.trainFailed
  repeat' (first | (intro _; intros) | split | (with_reducible refine fold_ids _ _ _ _ ?_ ?_) | simp)
theorem execTrainingFail_ids (pair : Nat) (lo hi : Sweep) (s : State) :
    Res.ids (execTrainingFail pair lo hi s) (s.entries) := by
  unfold execTrainingFail
  dsimp only
  split
  · exact State.sequenceRun_ids _ _ _ _ _ (fun _ => by simp)
  · exact next_ids _ _ rfl
theorem execTrainingTimeout_ids (pair : Nat) (s : State) :
    Res.ids (execTrainingTimeout pair s) s.entries := onlyIf_ids _ _ _ _ rfl (fun _ => by simp)
@[simp] theorem State.targetReturns_ids (ch : Nat) (s : State) : (State.targetReturns ch s).entries = s.entries := by
  unfold State.targetReturns
  split <;> rfl
theorem execTargetTrainingCommand_ids (ch : Nat) (sweep : Sweep) (s : State) :
    Res.ids (execTargetTrainingCommand ch sweep s) s.entries := by
  unfold execTargetTrainingCommand
  repeat' (first
    | with_reducible rfl | (intro _; intros) | (with_reducible refine onlyIf_ids _ _ _ _ ?_ ?_) | split | simp)

/-! ## Psp -/

@[simp] theorem State.pspEvent_ids (was : Bool) (f : Psp → Psp) (s : State) :
    (State.pspEvent was f s).entries = s.entries := by
  unfold State.pspEvent
  dsimp only
  repeat' split
  all_goals simp
@[simp] theorem State.pspSource_ids (s : State) : (State.pspSource s).entries = s.entries := by
  unfold State.pspSource
  dsimp only
  split <;> simp
@[simp] theorem State.takeEpoch_ids (e : Word) (s : State) :
    (State.takeEpoch e s).entries = s.entries := by simp [State.takeEpoch]
@[simp] theorem State.pspHear_ids (f : PFrame) (s : State) : (State.pspHear f s).entries = s.entries := by
  unfold State.pspHear
  repeat' (first | rfl | split | simp)
theorem execPspMemberDue_ids (s : State) :
    Res.ids (execPspMemberDue s) s.entries := onlyIf_ids _ _ _ _ rfl (fun _ => by simp)
theorem execPspTimeDue_ids (s : State) : Res.ids (execPspTimeDue s) s.entries := onlyIf_ids _ _ _ _ rfl (fun _ => rfl)
theorem execPspMemberFrame_ids (f : PFrame) (s : State) :
    Res.ids (execPspMemberFrame f s) s.entries := onlyIf_ids _ _ _ _ rfl (fun _ => by simp)
theorem execPspTimeFrame_ids (f : PFrame) (local_ : Ns) (s : State) :
    Res.ids (execPspTimeFrame f local_ s) s.entries := by
  refine onlyIf_ids _ _ _ _ rfl (fun _ => ?_)
  dsimp only
  split <;> simp
theorem execPspBadFrame_ids (s : State) :
    Res.ids (execPspBadFrame s) s.entries := onlyIf_ids _ _ _ _ rfl (fun _ => rfl)
theorem execPspMemberTimeout_ids (id : Nat) (s : State) : Res.ids (execPspMemberTimeout id s) s.entries := by
  unfold execPspMemberTimeout
  repeat' (first
    | with_reducible rfl | (intro _; intros) | (with_reducible refine next_ids _ _ ?_)
    | (with_reducible refine onlyIf_ids _ _ _ _ ?_ ?_) | split | simp)
theorem execPspListenEnd_ids (s : State) : Res.ids (execPspListenEnd s) s.entries := by
  unfold execPspListenEnd
  repeat' (first
    | with_reducible rfl | (intro _; intros) | (with_reducible refine next_ids _ _ ?_)
    | (with_reducible refine onlyIf_ids _ _ _ _ ?_ ?_) | split | simp)
theorem execPspSyncLapse_ids (s : State) :
    Res.ids (execPspSyncLapse s) s.entries := onlyIf_ids _ _ _ _ rfl (fun _ => rfl)

end Sys2Proof.Machine
end

