-- ==== Sys2Proof/Laws/EntriesPlatform.lean ====
section
/-! SUPPORT. The entries are kept: NVS, start-up, resets, the sleep states, the host control port and JTAG. -/

namespace Sys2Proof.Machine

/-! ## Nvs -/

@[simp] theorem State.markUnit_ids (unit : Option Nat) (kind : Nat) (s : State) :
    (State.markUnit unit kind s).entries = s.entries := by
  unfold State.markUnit
  repeat' split
  all_goals simp
theorem Ldg.erased_ids (loc : Nat) (l : Ldg) : (l.erased loc).entries = l.entries := by
  exact Ldg.entries_congr rfl rfl rfl
@[simp] theorem State.markDurable_ids (unit : Option Nat) (kind : Nat) (r : NvsReq) (s : State) :
    (State.markDurable unit kind r s).entries = s.entries := by
  unfold State.markDurable
  dsimp only
  rw [State.markUnit_ids]
  split
  · exact (State.onLdg_ids _ _ (Ldg.erased_ids _ _)).trans (State.onNvs_ids _ _)
  · exact State.onNvs_ids _ _
@[simp] theorem State.snapDurable_ids (k : Nat) (r : NvsReq) (s : State) :
    (State.snapDurable k r s).entries = s.entries := by
  unfold State.snapDurable
  repeat' (first
    | with_reducible rfl | (intro _; intros) | split | (with_reducible refine State.onCmd_ids' _ _ _ _ ?_ ?_)
    | (with_reducible refine fold_ids _ _ _ _ ?_ ?_) | simp)
@[simp] theorem State.disturb_ids (r : NvsReq) (s : State) : (State.disturb r s).entries = s.entries := by
  unfold State.disturb
  try dsimp only [State.drawFree]
  repeat' (first
    | with_reducible rfl | (intro _; intros) | split | (with_reducible refine fold_ids _ _ _ _ ?_ ?_) | simp
    | (simp; done))
@[simp] theorem State.scanEnds_ids (s : State) : (State.scanEnds s).entries = s.entries := by
  unfold State.scanEnds
  split <;> rfl
@[simp] theorem State.nvsDurable_ids (r : NvsReq) (s : State) : (State.nvsDurable r s).entries = s.entries := by
  unfold State.nvsDurable
  repeat' (first | rfl | split | simp)
@[simp] theorem State.nvsFailed_ids (r : NvsReq) (s : State) : (State.nvsFailed r s).entries = s.entries := by
  unfold State.nvsFailed
  repeat' (first | split | simp)
theorem execNvsWriteDone_ids (verified : Bool) (s : State) : Res.ids (execNvsWriteDone verified s) s.entries := by
  unfold execNvsWriteDone
  repeat' (first
    | with_reducible rfl | (intro _; intros) | (with_reducible refine next_ids _ _ ?_)
    | (with_reducible refine onlyIf_ids _ _ _ _ ?_ ?_) | split | simp)
theorem execNvsRetryDue_ids (s : State) :
    Res.ids (execNvsRetryDue s) s.entries := onlyIf_ids _ _ _ _ rfl (fun _ => by simp)
theorem execSnapshotStart_ids (s : State) :
    Res.ids (execSnapshotStart s) s.entries := onlyIf_ids _ _ _ _ rfl (fun _ => by simp)
theorem execHealthUpdateDue_ids (s : State) : Res.ids (execHealthUpdateDue s) s.entries := by
  unfold execHealthUpdateDue
  refine onlyIf_ids _ _ _ _ (Eq.refl _) (fun _ => ?_)
  rw [State.nvsHealth_ids, State.onNvs_ids]

/-! ## Startup -/

theorem execNvsStartScanEnd_ids (s : State) : Res.ids (execNvsStartScanEnd s) s.entries := by
  refine onlyIf_ids _ _ _ _ rfl (fun _ => ?_)
  dsimp only
  split <;> simp
theorem execSerialDiscovery_ids (sfdp : Sfdp) (opt0 opt1 : List Byte) (suspended : Bool) (s : State) :
    Res.ids (execSerialDiscovery sfdp opt0 opt1 suspended s) s.entries := onlyIf_ids _ _ _ _ rfl (fun _ => rfl)
@[simp] theorem State.askReerase_ids (secs : List Nat) (s : State) :
    (State.askReerase secs s).entries = s.entries := foldl_ids _ _ (fun _ _ => by simp) _
@[simp] theorem State.bootFails_ids (s : State) : (State.bootFails s).entries = s.entries := by simp [State.bootFails]
@[simp] theorem State.chooseRecord_ids (s : State) : (State.chooseRecord s).entries = s.entries := by
  unfold State.chooseRecord
  repeat' (first | rfl | split | simp)
theorem execSlotSelection_ids (s : State) : Res.ids (execSlotSelection s) s.entries := by
  refine onlyIf_ids _ _ _ _ rfl (fun _ => ?_)
  dsimp only
  split <;> simp
@[simp] theorem State.setPers_ids (s : State) :
    (State.setPers s).entries = s.entries := foldl_ids _ _ (fun _ _ => by simp) _
@[simp] theorem State.loadStore_ids (slot : Bool) (m : SparseBytes) (s : State) :
    (State.loadStore slot m s).entries = s.entries := by simp [State.loadStore]
@[simp] theorem State.loadTimers_ids (m : SparseBytes) (s : State) : (State.loadTimers m s).entries = s.entries := by
  unfold State.loadTimers
  split
  · exact Eq.refl _
  · simp only [State.onTime_ids, State.onPwr_ids]
@[simp] theorem State.loadIdentity_ids (slot : Bool) (m : SparseBytes) (s : State) :
    (State.loadIdentity slot m s).entries = s.entries := by
  unfold State.loadIdentity
  simp only [State.onSys_ids, State.onSpm_ids]
@[simp] theorem State.loadImage_ids (slot : Bool) (m : SparseBytes) (s : State) :
    (State.loadImage slot m s).entries = s.entries := by
  unfold State.loadImage
  rw [State.onSpm_ids, State.loadIdentity_ids, State.loadTimers_ids, State.loadStore_ids, State.onRly_ids, State.setPers_ids]
  exact (foldl_ids _ _ (fun _ _ => State.onLun_ids _ _ _) _).trans (State.onImg_ids _ _)
@[simp] theorem State.slotFails_ids (s : State) : (State.slotFails s).entries = s.entries := by
  unfold State.slotFails
  split <;> simp
@[simp] theorem State.takeSlot_ids (slot : Bool) (image : SparseBytes) (s : State) :
    (State.takeSlot slot image s).entries = s.entries := by
  unfold State.takeSlot
  dsimp only
  split <;> simp
theorem execImageLoadEnd_ids (image : SparseBytes) (s : State) : Res.ids (execImageLoadEnd image s) s.entries := by
  unfold execImageLoadEnd
  repeat' (first
    | with_reducible rfl | (intro _; intros) | (with_reducible refine next_ids _ _ ?_)
    | (with_reducible refine onlyIf_ids _ _ _ _ ?_ ?_) | split | simp)
theorem execSerialSectorReerase_ids (sector : Nat) (s : State) :
    Res.ids (execSerialSectorReerase sector s) s.entries := onlyIf_ids _ _ _ _ rfl (fun _ => by simp)
theorem execWasterTableBuild_ids (s : State) : Res.ids (execWasterTableBuild s) s.entries := by
  unfold execWasterTableBuild
  repeat' (first
    | with_reducible assumption | with_reducible rfl | (intro _; intros)
    | (with_reducible refine onlyIf_ids _ _ _ _ ?_ ?_) | (with_reducible refine Ldg.entries_congr ?_ ?_ ?_)
    | (with_reducible refine State.onLdg_ids' _ _ _ ?_ ?_) | (with_reducible refine fold_ids _ _ _ _ ?_ ?_) | simp)
theorem execCalibrationRestore_ids (s : State) : Res.ids (execCalibrationRestore s) s.entries := by
  unfold execCalibrationRestore
  repeat' (first
    | with_reducible rfl | (intro _; intros) | (with_reducible refine onlyIf_ids _ _ _ _ ?_ ?_) | split
    | (with_reducible refine fold_ids _ _ _ _ ?_ ?_) | simp)
@[simp] theorem State.checkDone_ids (lun : Nat) (good ext : Bool) (s : State) :
    (State.checkDone lun good ext s).entries = s.entries := rfl
theorem execDieCheck_ids (lun : Nat) (id : List Byte) (ext : Byte) (s : State) :
    Res.ids (execDieCheck lun id ext s) (s.entries) := by
  unfold execDieCheck
  split
  · exact next_ids _ _ rfl
  · extract_lets before base
    split
    · split
      split
      refine runRes_ids _ _ (fun t h => ?_)
      obtain ⟨x, -, h⟩ := Option.bind_eq_some_iff.mp h
      dsimp only at h
      obtain ⟨y, -, rfl⟩ := Option.map_eq_some_iff.mp h
      split <;> simp
    · exact next_ids _ _ rfl
@[simp] theorem State.placeTemps_ids (s : State) : (State.placeTemps s).entries = s.entries := by
  unfold State.placeTemps
  repeat' (first
    | with_reducible rfl | (intro _; intros) | split | (with_reducible refine fold_ids _ _ _ _ ?_ ?_) | simp)
@[simp] theorem State.placePatrol_ids (l : Nat) (s : State) : (State.placePatrol l s).entries = s.entries := by
  unfold State.placePatrol
  split <;> rfl
@[simp] theorem State.becomeReady_ids (s : State) : (State.becomeReady s).entries = s.entries := by
  unfold State.becomeReady
  repeat' (first | (intro _; intros) | split | (with_reducible refine fold_ids _ _ _ _ ?_ ?_) | simp)
theorem execStartUpReady_ids (s : State) :
    Res.ids (execStartUpReady s) s.entries := onlyIf_ids _ _ _ _ rfl (fun _ => by simp)

/-! ## Resets -/

@[simp] theorem State.cutHcp_ids (s : State) : (State.cutHcp s).entries = s.entries := by
  unfold State.cutHcp
  split <;> rfl
@[simp] theorem State.beginStart_ids (straps : BitVec 11) (s : State) :
    (State.beginStart straps s).entries = s.entries := by simp [State.beginStart]
theorem execColdStart_ids (straps : BitVec 11) (s : State) :
    Res.ids (execColdStart straps s) s.entries := onlyIf_ids _ _ _ _ rfl (fun _ => by simp)
theorem execAonReset_ids (s : State) : Res.ids (execAonReset s) s.entries := next_ids _ _ rfl
@[simp] theorem State.warmHdp_ids (s : State) : (State.warmHdp s).entries = s.entries := rfl
@[simp] theorem State.restartDma_ids (ix : Nat) (s : State) : (State.restartDma ix s).entries = s.entries := by
  unfold State.restartDma
  repeat' split
  all_goals simp
@[simp] theorem State.warmDma_ids (s : State) : (State.warmDma s).entries = s.entries := by
  unfold State.warmDma
  dsimp only
  split <;> simp
@[simp] theorem State.cutGrant_ids (s : State) (g : Grant) : (State.cutGrant s g).entries = s.entries := by
  unfold State.cutGrant
  split <;> rfl
@[simp] theorem State.warmGrants_ids (s : State) : (State.warmGrants s).entries = s.entries := by
  unfold State.warmGrants
  repeat' (first | with_reducible rfl | (intro _; intros) | (with_reducible refine fold_ids _ _ _ _ ?_ ?_) | simp)
@[simp] theorem State.warmPool_ids (s : State) : (State.warmPool s).entries = s.entries := rfl
@[simp] theorem State.resetTrainees_ids (k : Nat) (s : State) : (State.resetTrainees k s).entries = s.entries := by
  unfold State.resetTrainees
  repeat' (first | with_reducible rfl | (intro _; intros) | (with_reducible refine fold_ids _ _ _ _ ?_ ?_) | simp)
@[simp] theorem State.warmCal_ids (s : State) :
    (State.warmCal s).entries = s.entries := foldl_ids _ _ (fun _ _ => by simp) _
@[simp] theorem State.warmAssert_ids (s : State) : (State.warmAssert s).entries = s.entries := by
  unfold State.warmAssert
  refine (State.onLdg_ids (fun l => { l with replaying := true }) _ (Ldg.entries_congr rfl rfl rfl)).trans ?_
  rw [State.onSpm_ids, State.onRly_ids, State.onHif_ids, State.onIrq_ids, State.onSys_ids, State.warmPool_ids,
    State.warmGrants_ids, State.warmCal_ids, State.warmDma_ids, State.warmHdp_ids]
  exact fold_ids _ _ _ _ (State.cutHcp_ids _) (fun t a => State.restartDma_ids _ _)
@[simp] theorem State.warmSpm_ids (suspended : Bool) (s : State) :
    (State.warmSpm suspended s).entries = s.entries := by
  unfold State.warmSpm
  repeat' (first | split | simp)
@[simp] theorem State.walkBegins_ids (s : State) : s.walkBegins.entries = s.entries := by
  refine State.onLdg_ids _ _ ?_
  simp only [Ldg.entries, List.map_map]
  congr 1
  refine List.map_congr_left (fun e _ => ?_)
  have h : ∀ (c : Bool) (a b : LUnit), a.ident = e.2.ident → b.ident = e.2.ident →
      (if c then a else b).ident = e.2.ident := fun c a b ha hb => by cases c <;> simp [ha, hb]
  exact congrArg (Prod.mk e.1) (h _ _ _ rfl rfl)
@[simp] theorem State.replayWalk_ids (s : State) : (State.replayWalk s).entries = s.entries := by
  unfold State.replayWalk
  repeat' (first
    | with_reducible rfl | (intro _; intros) | split | (with_reducible refine State.onUnit_ids' _ _ _ _ ?_ ?_)
    | (with_reducible refine fold_ids _ _ _ _ ?_ ?_) | simp)
@[simp] theorem State.warmStart_ids (ecc : Ecc) (suspended : Bool) (s : State) :
    (State.warmStart ecc suspended s).entries = s.entries := by
  unfold State.warmStart
  repeat' (first
    | with_reducible rfl | (intro _; intros) | split | (with_reducible refine Ldg.entries_congr ?_ ?_ ?_)
    | (with_reducible refine State.onLdg_ids' _ _ _ ?_ ?_) | (with_reducible refine fold_ids _ _ _ _ ?_ ?_) | simp)
theorem execWarmResetDeassert_ids (ecc : Ecc) (suspended : Bool) (s : State) :
    Res.ids (execWarmResetDeassert ecc suspended s) s.entries := by
  refine onlyIf_ids _ _ _ _ rfl (fun _ => ?_)
  repeat' split
  all_goals simp

/-! ## Power -/

@[simp] theorem State.aonEdge_ids (s : State) : (State.aonEdge s).entries = s.entries := rfl
@[simp] theorem State.noteIdle_ids (s : State) : (State.noteIdle s).entries = s.entries := rfl
@[simp] theorem State.noteTick_ids (before : Ns) (s : State) : (State.noteTick before s).entries = s.entries := rfl
@[simp] theorem State.tick_ids (s : State) : s.tick.entries = s.entries := by
  unfold State.tick
  split
  · exact State.aonEdge_ids s
  · extract_lets b s1 p s2
    have h1 : s1.entries = s.entries := by
      show (ite _ _ _ : State).entries = _
      split
      · exact State.onTime_ids _ _
      · exact Eq.refl _
    rw [State.noteIdle_ids, State.noteTick_ids]
    show (ite _ _ _ : State).entries = _
    split
    · rw [State.onTime_ids, h1]
    · rw [State.onTime_ids, State.aonEdge_ids, h1]
theorem execPaceWindowEnd_ids (crossings : Nat) (s : State) : Res.ids (execPaceWindowEnd crossings s) s.entries := by
  unfold execPaceWindowEnd
  repeat' (first
    | with_reducible rfl | (intro _; intros) | (with_reducible refine onlyIf_ids _ _ _ _ ?_ ?_) | split | simp
    | (simp; done))
theorem execTimeAlarmFire_ids (s : State) :
    Res.ids (execTimeAlarmFire s) s.entries := onlyIf_ids _ _ _ _ rfl (fun _ => by simp)
theorem execTimeCompensation_ids (s : State) :
    Res.ids (execTimeCompensation s) s.entries := onlyIf_ids _ _ _ _ rfl (fun _ => rfl)
theorem execTimeAonCorrection_ids (s : State) :
    Res.ids (execTimeAonCorrection s) s.entries := onlyIf_ids _ _ _ _ rfl (fun _ => rfl)
@[simp] theorem State.sleepAborted_ids (unit : Nat) (s : State) :
    (State.sleepAborted unit s).entries = s.entries := rfl
theorem execSoakEntry_ids (wakeDuringPrepare : Bool) (refuses : Option Nat) (s : State) :
    Res.ids (execSoakEntry wakeDuringPrepare refuses s) s.entries := by
  refine onlyIf_ids _ _ _ _ rfl (fun _ => ?_)
  repeat' split
  all_goals simp
theorem execBankEntry_ids (s : State) : Res.ids (execBankEntry s) s.entries := onlyIf_ids _ _ _ _ rfl (fun _ => rfl)
theorem execEmberEntry_ids (s : State) : Res.ids (execEmberEntry s) s.entries := onlyIf_ids _ _ _ _ rfl (fun _ => rfl)
theorem execWakeEvent_ids (cause : Wake) (s : State) :
    Res.ids (execWakeEvent cause s) s.entries := onlyIf_ids _ _ _ _ rfl (fun _ => by split <;> simp)
theorem execWakeIn_ids (s : State) : Res.ids (execWakeIn s) s.entries := onlyIf_ids _ _ _ _ rfl (fun _ => by simp)
theorem execWatcherWake_ids (cause : Wake) (s : State) :
    Res.ids (execWatcherWake cause s) s.entries := onlyIf_ids _ _ _ _ rfl (fun _ => rfl)
theorem execPwrAckRise_ids (s : State) : Res.ids (execPwrAckRise s) s.entries := onlyIf_ids _ _ _ _ rfl (fun _ => rfl)
@[simp] theorem State.exitEnds_ids (s : State) : (State.exitEnds s).entries = s.entries := by
  unfold State.exitEnds
  repeat' (first | split | simp)
@[simp] theorem State.padRelease_ids (s : State) : (State.padRelease s).entries = s.entries := by
  unfold State.padRelease
  repeat' (first
    | with_reducible rfl | (intro _; intros) | split | (with_reducible refine fold_ids _ _ _ _ ?_ ?_) | simp)
theorem execPadRelease_ids (data : Word) (s : State) : Res.ids (execPadRelease data s) s.entries := by
  unfold execPadRelease
  repeat' (first
    | with_reducible assumption | with_reducible rfl | (intro _; intros)
    | (with_reducible refine hcpAccess_ids _ _ _ ?_ ?_) | split | simp)

/-! ## Hcp -/

@[simp] theorem State.writeHif_ids (o : Nat) (v : Word) (s : State) :
    (s.writeHif o v).entries = s.entries := by
  unfold State.writeHif
  try dsimp only
  repeat' (with_reducible refine ite_ids _ _ _ _ ?_ ?_)
  all_goals first
    | with_reducible rfl
    | (simp; done)
    | (refine State.actionWrite_ids _ _ _ _ ?_; simp; done)
    | (split <;> simp)
    | (try dsimp only; repeat' (with_reducible refine ite_ids _ _ _ _ ?_ ?_)
       all_goals first | with_reducible rfl | (simp; done) | (split <;> simp))
@[simp] theorem State.writeIrq_ids (o : Nat) (v : Word) (s : State) : (State.writeIrq o v s).entries = s.entries := by
  unfold State.writeIrq
  repeat' split
  all_goals rfl
@[simp] theorem State.writePwr_ids (o : Nat) (v : Word) (s : State) : (State.writePwr o v s).entries = s.entries := by
  unfold State.writePwr
  repeat' split
  all_goals simp
@[simp] theorem State.writeTime_ids (o : Nat) (v : Word) (s : State) :
    (State.writeTime o v s).entries = s.entries := rfl
@[simp] theorem State.writeLdg_ids (o : Nat) (v : Word) (s : State) : (State.writeLdg o v s).entries = s.entries := by
  unfold State.writeLdg
  repeat' split
  all_goals rfl
@[simp] theorem State.writePool_ids (o : Nat) (v : Word) (s : State) :
    (State.writePool o v s).entries = s.entries := by
  unfold State.writePool
  repeat' (first | with_reducible rfl | (with_reducible refine State.actionWrite_ids _ _ _ _ ?_) | split | simp)
@[simp] theorem State.writeDec_ids (o : Nat) (v : Word) (s : State) :
    (State.writeDec o v s).entries = s.entries := rfl
@[simp] theorem State.writeCal_ids (o : Nat) (v : Word) (s : State) :
    (s.writeCal o v).entries = s.entries := by
  unfold State.writeCal
  try dsimp only
  repeat' (with_reducible refine ite_ids _ _ _ _ ?_ ?_)
  all_goals first
    | with_reducible rfl
    | (simp; done)
    | (refine State.actionWrite_ids _ _ _ _ ?_; simp; done)
    | (split <;> simp)
    | (try dsimp only; repeat' (with_reducible refine ite_ids _ _ _ _ ?_ ?_)
       all_goals first | with_reducible rfl | (simp; done) | (split <;> simp))
@[simp] theorem State.writeChe_ids (c o : Nat) (v : Word) (s : State) :
    (State.writeChe c o v s).entries = s.entries := by
  unfold State.writeChe
  split <;> rfl
@[simp] theorem State.writeSched_ids (o : Nat) (v : Word) (s : State) :
    (State.writeSched o v s).entries = s.entries := rfl
@[simp] theorem State.writeRly_ids (o : Nat) (v : Word) (s : State) :
    (State.writeRly o v s).entries = s.entries := rfl
@[simp] theorem State.commitFree_ids (v : Word) (s : State) :
    (State.commitFree v s).entries = s.entries := by simp [State.commitFree]
@[simp] theorem State.writeOpCmd_ids (v : Word) (s : State) : (State.writeOpCmd v s).entries = s.entries := by
  unfold State.writeOpCmd
  repeat' split
  all_goals simp
@[simp] theorem State.writeSpm_ids (o : Nat) (v : Word) (s : State) : (State.writeSpm o v s).entries = s.entries := by
  unfold State.writeSpm
  repeat' (first | with_reducible rfl | (with_reducible refine State.actionWrite_ids _ _ _ _ ?_) | split | simp)
@[simp] theorem State.writeNvs_ids (o : Nat) (v : Word) (s : State) :
    (State.writeNvs o v s).entries = s.entries := rfl
@[simp] theorem State.writePsp_ids (o : Nat) (v : Word) (s : State) :
    (State.writePsp o v s).entries = s.entries := rfl
@[simp] theorem State.onLeg_ids (f : Legacy → Legacy) (s : State) : (State.onLeg f s).entries = s.entries := rfl
@[simp] theorem State.writeDma_ids (o : Nat) (v : Word) (s : State) : (State.writeDma o v s).entries = s.entries := by
  unfold State.writeDma
  repeat' (first | with_reducible rfl | (with_reducible refine State.actionWrite_ids _ _ _ _ ?_) | split | simp)
@[simp] theorem State.writeReg_ids (o : Nat) (v : Word) (s : State) : (s.writeReg o v).entries = s.entries := by
  unfold State.writeReg
  repeat' (with_reducible refine ite_ids _ _ _ _ ?_ ?_)
  · exact State.writeHif_ids _ _ _
  · exact State.writeIrq_ids _ _ _
  · exact State.writePwr_ids _ _ _
  · exact State.writeTime_ids _ _ _
  · simp only [State.writeLdg_ids]
  · exact State.writePool_ids _ _ _
  · exact State.writeDec_ids _ _ _
  · exact State.writeCal_ids _ _ _
  · exact State.writeChe_ids _ _ _ _
  · rfl
  · exact State.writeSched_ids _ _ _
  · exact State.writeRly_ids _ _ _
  · exact State.writeSpm_ids _ _ _
  · exact State.writeNvs_ids _ _ _
  · exact State.writePsp_ids _ _ _
  · exact State.writeDma_ids _ _ _
  · rfl
@[simp] theorem State.readEffect_ids (o : Nat) (s : State) :
    (s.readEffect o).entries = s.entries := by
  unfold State.readEffect
  try dsimp only
  repeat' (with_reducible refine ite_ids _ _ _ _ ?_ ?_)
  all_goals first
    | with_reducible rfl
    | exact State.onLdg_ids _ _ (Ldg.entries_congr rfl rfl rfl)
    | (simp; done)
    | (refine State.actionWrite_ids _ _ _ _ ?_; simp; done)
    | (split <;> simp)
    | (try dsimp only; repeat' (with_reducible refine ite_ids _ _ _ _ ?_ ?_)
       all_goals first | with_reducible rfl | (simp; done) | (split <;> simp))
@[simp] theorem State.readAccess_ids (o : Nat) (s : State) :
    (State.readAccess o s).entries = s.entries := by simp [State.readAccess]
@[simp] theorem State.windowWrite_ids (s : State) : (State.windowWrite s).entries = s.entries := rfl
@[simp] theorem State.serveNow_ids (write : Bool) (off : BitVec 16) (v : Word) (s : State) :
    (State.serveNow write off v s).entries = s.entries := by
  unfold State.serveNow
  repeat' split
  all_goals simp
theorem execHcpAccessInReset_ids (_write : Bool) (_off : BitVec 16) (_data : Word) (s : State) :
    Res.ids (execHcpAccessInReset _write _off _data s) s.entries := onlyIf_ids _ _ _ _ rfl (fun _ => rfl)
theorem execHcpAccessInSleep_ids (_write : Bool) (_off : BitVec 16) (_data : Word) (s : State) :
    Res.ids (execHcpAccessInSleep _write _off _data s) s.entries := onlyIf_ids _ _ _ _ rfl (fun _ => rfl)
theorem execHcpAccessInBank_ids (write : Bool) (off : BitVec 16) (data : Word) (s : State) :
    Res.ids (execHcpAccessInBank write off data s) s.entries := onlyIf_ids _ _ _ _ rfl (fun _ => by simp)
theorem execRegisterWrite_ids (off : BitVec 16) (data : Word) (s : State) :
    Res.ids (execRegisterWrite off data s) s.entries := by
  unfold execRegisterWrite
  repeat' (first
    | with_reducible assumption | with_reducible rfl | (intro _; intros)
    | (with_reducible refine hcpAccess_ids _ _ _ ?_ ?_) | split | simp)
theorem execRcRegisterRead_ids (off : BitVec 16) (s : State) : Res.ids (execRcRegisterRead off s) s.entries := by
  unfold execRcRegisterRead
  repeat' (first
    | with_reducible assumption | with_reducible rfl | (intro _; intros)
    | (with_reducible refine hcpAccess_ids _ _ _ ?_ ?_) | split | simp)
theorem execTimeCaptureRead_ids (aon : Bool) (s : State) :
    Res.ids (execTimeCaptureRead aon s) s.entries := hcpAccess_ids _ _ _ rfl (fun _ h => by simp [h])
theorem execXipRead_ids (off : BitVec 16) (s : State) : Res.ids (execXipRead off s) s.entries := by
  unfold execXipRead
  repeat' (first
    | with_reducible assumption | with_reducible rfl | (intro _; intros)
    | (with_reducible refine hcpAccess_ids _ _ _ ?_ ?_) | split | simp)
theorem execXipWrite_ids (off : BitVec 16) (_data : Word) (s : State) :
    Res.ids (execXipWrite off _data s) s.entries := by
  unfold execXipWrite
  repeat' (first
    | with_reducible assumption | with_reducible rfl | (intro _; intros)
    | (with_reducible refine hcpAccess_ids _ _ _ ?_ ?_) | split | simp)
theorem execXipBaseWrite_ids (data : Word) (s : State) :
    Res.ids (execXipBaseWrite data s) s.entries := hcpAccess_ids _ _ _ rfl (fun _ h => by simp [h])
theorem execSpmProgram_ids (data : Word) (s : State) : Res.ids (execSpmProgram data s) s.entries := spmCmd_ids _ _ _ _
theorem execSpmErase_ids (data : Word) (s : State) : Res.ids (execSpmErase data s) s.entries := spmCmd_ids _ _ _ _
theorem execSpmCommit_ids (data : Word) (image : SparseBytes) (s : State) :
    Res.ids (execSpmCommit data image s) s.entries := spmCmd_ids _ _ _ _
theorem execIrqSrcClr_ids (data : Word) (s : State) :
    Res.ids (execIrqSrcClr data s) s.entries := hcpAccess_ids _ _ _ rfl (fun _ h => by simp [h])
theorem execIrqPendWrite_ids (hi : Bool) (data : Word) (s : State) :
    Res.ids (execIrqPendWrite hi data s) s.entries := hcpAccess_ids _ _ _ rfl (fun _ h => by simp [h])
theorem execIrqMaskWrite_ids (n : Nat) (hi : Bool) (data : Word) (s : State) :
    Res.ids (execIrqMaskWrite n hi data s) s.entries := hcpAccess_ids _ _ _ rfl (fun _ h => by simp [h])
theorem execWakeEnWrite_ids (data : Word) (s : State) :
    Res.ids (execWakeEnWrite data s) s.entries := hcpAccess_ids _ _ _ rfl (fun _ h => by simp [h])
@[simp] theorem State.serveWithheld_ids (s : State) : (State.serveWithheld s).entries = s.entries := by
  unfold State.serveWithheld
  split <;> simp
theorem execSleepExitComplete_ids (s : State) :
    Res.ids (execSleepExitComplete s) s.entries := onlyIf_ids _ _ _ _ rfl (fun _ => by simp)

/-! ## Jtag -/

theorem execJtagReset_ids (s : State) : Res.ids (execJtagReset s) s.entries := next_ids _ _ rfl
theorem execJtagBypass_ids (tdi : Bool) (s : State) : Res.ids (execJtagBypass tdi s) s.entries := next_ids _ _ rfl
theorem execJtagIdcode_ids (s : State) : Res.ids (execJtagIdcode s) s.entries := next_ids _ _ rfl
theorem execJtagSamplePreload_ids (pins preload : List Bool) (s : State) :
    Res.ids (execJtagSamplePreload pins preload s) s.entries := next_ids _ _ rfl
theorem execJtagExtest_ids (pins shift : List Bool) (s : State) :
    Res.ids (execJtagExtest pins shift s) s.entries := next_ids _ _ rfl

end Sys2Proof.Machine
end

