-- ==== Sys2Proof/Laws/Frame.lean ====
section
/-! SUPPORT. What an operation leaves alone, block by block: `f_frame` says that outside the blocks of its mask (`State.outside`,
Sys2Proof/Safety.lean) `f` changes nothing. Here: one lemma for each block's update, for folds and for the forms of a meaning. -/

namespace Sys2Proof.Machine

theorem testBit_or_of_covers {A B : Nat} (h : B ||| A = B) {i : Nat} (k : A.testBit i = true) :
    B.testBit i = true := by
  rw [← h, Nat.testBit_or, k, Bool.or_true]

theorem ite_set_aside {α : Type} {A B : Nat} (h : B ||| A = B) (i : Nat) {x a b : α}
    (e : (if A.testBit i then x else a) = if A.testBit i then x else b) :
    (if B.testBit i then x else a) = if B.testBit i then x else b := by
  by_cases k : A.testBit i = true
  · rw [if_pos (testBit_or_of_covers h k), if_pos (testBit_or_of_covers h k)]
  · rw [if_neg k, if_neg k] at e
    rw [e]

theorem State.outside_mono {A B : Nat} {s t : State} (h : B ||| A = B) (e : t.outside A = s.outside A) :
    t.outside B = s.outside B := by
  simp only [State.outside, State.mk.injEq] at e ⊢
  repeat' (first | refine ⟨ite_set_aside h _ (by simp only [e]), ?_⟩ | exact ite_set_aside h _ (by simp only [e]))
@[simp] theorem State.onSys_frame (f) (s : State) {B : Nat} (h : B ||| 0x1 = B) :
    (State.onSys f s).outside B = s.outside B :=
  State.outside_mono h rfl
@[simp] theorem State.onHcp_frame (f) (s : State) {B : Nat} (h : B ||| 0x2 = B) :
    (State.onHcp f s).outside B = s.outside B :=
  State.outside_mono h rfl
@[simp] theorem State.onHif_frame (f) (s : State) {B : Nat} (h : B ||| 0x4 = B) :
    (State.onHif f s).outside B = s.outside B :=
  State.outside_mono h rfl
@[simp] theorem State.onHdp_frame (f) (s : State) {B : Nat} (h : B ||| 0x8 = B) :
    (State.onHdp f s).outside B = s.outside B :=
  State.outside_mono h rfl
@[simp] theorem State.onIrq_frame (f) (s : State) {B : Nat} (h : B ||| 0x10 = B) :
    (State.onIrq f s).outside B = s.outside B :=
  State.outside_mono h rfl
@[simp] theorem State.onPwr_frame (f) (s : State) {B : Nat} (h : B ||| 0x20 = B) :
    (State.onPwr f s).outside B = s.outside B :=
  State.outside_mono h rfl
@[simp] theorem State.onTime_frame (f) (s : State) {B : Nat} (h : B ||| 0x40 = B) :
    (State.onTime f s).outside B = s.outside B :=
  State.outside_mono h rfl
@[simp] theorem State.onLdg_frame (f) (s : State) {B : Nat} (h : B ||| 0x80 = B) :
    (State.onLdg f s).outside B = s.outside B :=
  State.outside_mono h rfl
@[simp] theorem State.onPool_frame (f) (s : State) {B : Nat} (h : B ||| 0x100 = B) :
    (State.onPool f s).outside B = s.outside B :=
  State.outside_mono h rfl
@[simp] theorem State.onDec_frame (f) (s : State) {B : Nat} (h : B ||| 0x200 = B) :
    (State.onDec f s).outside B = s.outside B :=
  State.outside_mono h rfl
@[simp] theorem State.onCal_frame (f) (s : State) {B : Nat} (h : B ||| 0x400 = B) :
    (State.onCal f s).outside B = s.outside B :=
  State.outside_mono h rfl
@[simp] theorem State.onImg_frame (f) (s : State) {B : Nat} (h : B ||| 0x800 = B) :
    (State.onImg f s).outside B = s.outside B :=
  State.outside_mono h rfl
@[simp] theorem State.onLuns_frame (f) (s : State) {B : Nat} (h : B ||| 0x1000 = B) :
    (State.onLuns f s).outside B = s.outside B :=
  State.outside_mono h rfl
@[simp] theorem State.onChe_frame (f) (s : State) {B : Nat} (h : B ||| 0x2000 = B) :
    (State.onChe f s).outside B = s.outside B :=
  State.outside_mono h rfl
@[simp] theorem State.onPhy_frame (f) (s : State) {B : Nat} (h : B ||| 0x4000 = B) :
    (State.onPhy f s).outside B = s.outside B :=
  State.outside_mono h rfl
@[simp] theorem State.onPairs_frame (f) (s : State) {B : Nat} (h : B ||| 0x8000 = B) :
    (State.onPairs f s).outside B = s.outside B :=
  State.outside_mono h rfl
@[simp] theorem State.onSched_frame (f) (s : State) {B : Nat} (h : B ||| 0x10000 = B) :
    (State.onSched f s).outside B = s.outside B :=
  State.outside_mono h rfl
@[simp] theorem State.onRly_frame (f) (s : State) {B : Nat} (h : B ||| 0x20000 = B) :
    (State.onRly f s).outside B = s.outside B :=
  State.outside_mono h rfl
@[simp] theorem State.onPsp_frame (f) (s : State) {B : Nat} (h : B ||| 0x40000 = B) :
    (State.onPsp f s).outside B = s.outside B :=
  State.outside_mono h rfl
@[simp] theorem State.onSpm_frame (f) (s : State) {B : Nat} (h : B ||| 0x80000 = B) :
    (State.onSpm f s).outside B = s.outside B :=
  State.outside_mono h rfl
@[simp] theorem State.onNvs_frame (f) (s : State) {B : Nat} (h : B ||| 0x100000 = B) :
    (State.onNvs f s).outside B = s.outside B :=
  State.outside_mono h rfl
@[simp] theorem State.onDma_frame (f) (s : State) {B : Nat} (h : B ||| 0x200000 = B) :
    (State.onDma f s).outside B = s.outside B :=
  State.outside_mono h rfl
@[simp] theorem State.onJtag_frame (f) (s : State) {B : Nat} (h : B ||| 0x400000 = B) :
    (State.onJtag f s).outside B = s.outside B :=
  State.outside_mono h rfl
@[simp] theorem State.onFreeCtr_frame (f) (s : State) {B : Nat} (h : B ||| 0x800000 = B) :
    (State.onFreeCtr f s).outside B = s.outside B :=
  State.outside_mono h rfl

theorem foldl_frame {α : Type} {B : Nat} (f : State → α → State) (l : List α) (h :
    ∀ s a, (f s a).outside B = s.outside B) (s : State) :
    (l.foldl f s).outside B = s.outside B := fold_leaves (State.outside B) h rfl l

theorem fold_frame {α : Type} {B : Nat} (f : State → α → State) (l : List α) (s : State) (x : State) (h :
    s.outside B = x)
    (k : ∀ s a, (f s a).outside B = s.outside B) : (l.foldl f s).outside B = x := fold_leaves (State.outside B) k h l

theorem fold1_frame {α β : Type} {B : Nat} (f : State × β → α → State × β) (l : List α) (p : State × β) (x : State)
    (h : p.1.outside B = x) (k : ∀ p a, (f p a).1.outside B = p.1.outside B) : (l.foldl f p).1.outside B = x :=
  fold_leaves (fun p : State × β => p.1.outside B) k h l

theorem split_var_frame {B : Nat} (y x A : State) (h : y.outside B = x) (k : y.outside B = x → A.outside B = x) :
    A.outside B = x := k h

theorem ite_frame {B : Nat} (c : Prop) [Decidable c] (a b : State) (x : State) (h : a.outside B = x) (k :
    b.outside B = x) :
    (if c then a else b).outside B = x := ite_leaves (w := (State.outside B)) h k

/-- A meaning that answers a next state leaves everything outside the mask as in `x`. -/
abbrev Res.frames (B : Nat) (r : Res) (x : State) : Prop := Res.leaves (State.outside B) r (x)

theorem next_frame {B : Nat} (s : State) (x : State) (h : s.outside B = x) : Res.frames B (.next s) x := next_leaves h

theorem fault_frame {B : Nat} (f : Fault) (x : State) : Res.frames B (.fault f) x := fault_leaves f

theorem onlyIf_frame {B : Nat} (c : Bool) (f : State → State) (s : State) (x : State) (h : s.outside B = x)
    (k : s.outside B = x → (f s).outside B = x) : Res.frames B (onlyIf c f s) x := onlyIf_leaves h k

theorem hcpAccess_frame {B : Nat} (hB : B ||| 0x2 = B) (f : State → State) (s x : State) (h : s.outside B = x)
    (k : ∀ t, t.outside B = x → (f t).outside B = x) : Res.frames B (hcpAccess f s) x :=
  onlyIf_frame _ _ _ _ h (fun h => k _ ((State.onHcp_frame _ _ hB).trans h))

theorem runRes_frame {B : Nat} (o : Option State) (x : State) (h : ∀ t, o = some t → t.outside B = x) :
    Res.frames B (runRes o) x :=
  runRes_leaves h

theorem split_res_frame {B : Nat} (y x : State) (A : Res) (h : y.outside B = x) (k :
    y.outside B = x → Res.frames B A x) :
    Res.frames B A x := k h

theorem bindFold_frame {α : Type} {B : Nat} (g : α → State → Option State)
    (h : ∀ a s t, g a s = some t → t.outside B = s.outside B) (l : List α) (o : Option State) (x : State)
    (k : ∀ s, o = some s → s.outside B = x) : ∀ t, l.foldl (fun o a => o.bind (g a)) o = some t → t.outside B = x :=
  bindFold_leaves (State.outside B) h l k

end Sys2Proof.Machine
end

