-- ==== Sys2Proof/Laws/FrameOps.lean ====
section
/-! SUPPORT. Block frames: the shared operations, the DMA chains and the rings. -/

namespace Sys2Proof.Machine

/-! ## Ops -/

@[simp] theorem State.wake_frame (cause : Nat) (s : State) {B : Nat} (hB : B ||| 0x20 = B) :
    (State.wake cause s).outside B = s.outside B := State.outside_mono hB (by
  unfold State.wake
  repeat' split
  all_goals rfl)
theorem State.actionWrite_frame {B : Nat} (hB : B ||| 0x20 = B) (c : State → Bool) (f : State → State) (s x : State)
    (k : (f s).outside B = x) : (State.actionWrite c f s).outside B = x := by
  unfold State.actionWrite
  split
  · exact (State.wake_frame _ _ hB).trans k
  · exact k
theorem hcpAction_frame {B : Nat} (hB : B ||| 0x22 = B) (c : State → Bool) (f : State → State) (s x : State) (h :
    s.outside B = x)
    (k : ∀ t, t.outside B = x → (f t).outside B = x) : Res.frames B (hcpAction c f s) x :=
  have h5 : B ||| 0x20 = B := (congrArg (· ||| 0x20) hB).symm.trans ((Nat.or_assoc B 0x22 0x20).trans hB)
  have h1 : B ||| 0x2 = B := (congrArg (· ||| 0x2) hB).symm.trans ((Nat.or_assoc B 0x22 0x2).trans hB)
  hcpAccess_frame h1 _ _ _ h (fun t ht => State.actionWrite_frame h5 _ _ _ _ (k t ht))
@[simp] theorem State.raise_frame (n : Nat) (s : State) {B : Nat} (hB : B ||| 0x10 = B) :
    (State.raise n s).outside B = s.outside B := State.outside_mono hB (by
  unfold State.raise
  split <;> rfl)
@[simp] theorem State.drawFree_frame (s : State) {B : Nat} (h : B ||| 0x800000 = B) :
    s.drawFree.2.outside B = s.outside B := State.outside_mono h rfl
@[simp] theorem State.drawBytes_frame (n : Nat) (s : State) {B : Nat} (h : B ||| 0x800000 = B) :
    (s.drawBytes n).2.outside B = s.outside B := State.outside_mono h rfl
theorem State.onEvent_frame {B : Nat} (hB : B ||| 0x20 = B) (l : Nat) (e : Option Event) (f : State → State) (s x :
    State)
    (h : s.outside B = x) (k : (f s).outside B = x) : Res.frames B (s.onEvent l e f) x := by
  unfold State.onEvent
  split
  · exact onlyIf_frame _ _ _ _ h fun h => (State.wake_frame _ _ hB).trans h
  · exact onlyIf_frame _ _ _ _ h fun _ => k
@[simp] theorem State.onUnit_frame (ix : Nat) (f : LUnit → LUnit) (s : State) {B : Nat} (hB : B ||| 0x80 = B) :
    (State.onUnit ix f s).outside B = s.outside B := State.outside_mono hB rfl
@[simp] theorem State.onCmd_frame (ctx : Nat) (f : Cmd → Cmd) (s : State) {B : Nat} (hB : B ||| 0x80 = B) :
    (State.onCmd ctx f s).outside B = s.outside B := State.outside_mono hB rfl
@[simp] theorem State.bumpGen_frame (ix : Nat) (s : State) {B : Nat} (hB : B ||| 0x80 = B) :
    (State.bumpGen ix s).outside B = s.outside B := State.outside_mono hB rfl
@[simp] theorem State.stale_frame (s : State) {B : Nat} (hB : B ||| 0x80 = B) :
    (State.stale s).outside B = s.outside B := State.outside_mono hB rfl
@[simp] theorem State.ecc_frame (e : Ecc) (s : State) {B : Nat} (hB : B ||| 0x90 = B) :
    (State.ecc e s).outside B = s.outside B := State.outside_mono hB (by
  unfold State.ecc
  split <;> rfl)
@[simp] theorem State.hdpRead_frame (r : HdpRd) (s : State) {B : Nat} (hB : B ||| 0x8 = B) :
    (State.hdpRead r s).outside B = s.outside B := State.outside_mono hB rfl
@[simp] theorem State.hdpWrite_frame (w : HdpWr) (s : State) {B : Nat} (hB : B ||| 0x8 = B) :
    (State.hdpWrite w s).outside B = s.outside B := State.outside_mono hB rfl
@[simp] theorem State.refill_frame (s : State) {B : Nat} (hB : B ||| 0x8 = B) :
    (s.refill).outside B = s.outside B := State.outside_mono hB (by
  unfold State.refill
  split <;> rfl)
theorem State.popRead_frame {p : HdpRd → Bool} {s t : State} {r : HdpRd} (h : s.popRead p = some (r, t)) {B : Nat}
    (hB : B ||| 0x8 = B) : t.outside B = s.outside B := State.outside_mono hB (by
  simp only [State.popRead, Option.map_eq_some_iff, Prod.mk.injEq] at h
  obtain ⟨a, -, -, rfl⟩ := h
  exact State.refill_frame _ (by decide))
theorem State.popTag_frame {tag : Nat} {p : HdpRd → Bool} {s t : State} {r : HdpRd} (h :
    s.popTag tag p = some (r, t)) {B : Nat}
    (hB : B ||| 0x8 = B) : t.outside B = s.outside B := State.outside_mono hB (by
  exact State.popRead_frame h (by decide))
theorem State.popWrite_frame {id : Nat} {s t : State} {w : HdpWr} (h : s.popWrite id = some (w, t)) {B : Nat}
    (hB : B ||| 0x8 = B) : t.outside B = s.outside B := State.outside_mono hB (by
  simp only [State.popWrite, Option.map_eq_some_iff, Prod.mk.injEq] at h
  obtain ⟨a, -, -, rfl⟩ := h; rfl)
@[simp] theorem State.hifError_frame (kind ring addr : Nat) (s : State) {B : Nat} (hB : B ||| 0x14 = B) :
    (State.hifError kind ring addr s).outside B = s.outside B := State.outside_mono hB (by
  unfold State.hifError
  split <;> rfl)
@[simp] theorem State.onChan_frame (c : Nat) (f : Chan → Chan) (s : State) {B : Nat} (hB : B ||| 0x2000 = B) :
    (State.onChan c f s).outside B = s.outside B := State.outside_mono hB rfl
@[simp] theorem State.onLun_frame (l : Nat) (f : Lun → Lun) (s : State) {B : Nat} (hB : B ||| 0x1000 = B) :
    (State.onLun l f s).outside B = s.outside B := State.outside_mono hB rfl
@[simp] theorem State.onPhyOf_frame (c : Nat) (f : Phy → Phy) (s : State) {B : Nat} (hB : B ||| 0x4000 = B) :
    (State.onPhyOf c f s).outside B = s.outside B := State.outside_mono hB rfl
@[simp] theorem State.onPair_frame (k : Nat) (f : Pair → Pair) (s : State) {B : Nat} (hB : B ||| 0x8000 = B) :
    (State.onPair k f s).outside B = s.outside B := State.outside_mono hB rfl
@[simp] theorem State.onSq_frame (i : Nat) (f : Sq → Sq) (s : State) {B : Nat} (hB : B ||| 0x4 = B) :
    (State.onSq i f s).outside B = s.outside B := State.outside_mono hB rfl
@[simp] theorem State.onCq_frame (i : Nat) (f : Cq → Cq) (s : State) {B : Nat} (hB : B ||| 0x4 = B) :
    (State.onCq i f s).outside B = s.outside B := State.outside_mono hB rfl
@[simp] theorem State.onPeck_frame (p : Nat) (f : Peck → Peck) (s : State) {B : Nat} (hB : B ||| 0x100 = B) :
    (State.onPeck p f s).outside B = s.outside B := State.outside_mono hB rfl

/-! ## PoolOps -/

@[simp] theorem State.considerHead_frame (c : Nat) (s : State) {B : Nat} (hB : B ||| 0x100 = B) :
    (State.considerHead c s).outside B = s.outside B := State.outside_mono hB (by
  unfold State.considerHead
  repeat' split
  all_goals rfl)
@[simp] theorem State.askPecks_frame (c ix k : Nat) (s : State) {B : Nat} (hB : B ||| 0x180 = B) :
    (State.askPecks c ix k s).outside B = s.outside B := State.outside_mono hB (by
  unfold State.askPecks
  repeat' split
  all_goals simp (disch := decide))
@[simp] theorem State.dropAsks_frame (c ix : Nat) (s : State) {B : Nat} (hB : B ||| 0x180 = B) :
    (State.dropAsks c ix s).outside B = s.outside B := State.outside_mono hB (by simp (disch := decide)
    [State.dropAsks])
@[simp] theorem State.release_frame (ps : List Nat) (s : State) {B : Nat} (hB : B ||| 0x100 = B) :
    (State.release ps s).outside B = s.outside B := State.outside_mono hB (foldl_frame _ _ (fun _ _ => by simp (disch
    := decide)) _)
@[simp] theorem State.allocPeck_frame (ix : Nat) (u : LUnit) (sense : Bool) (p cw : Nat) (s : State) {B : Nat} (hB :
    B ||| 0x100 = B) : (State.allocPeck ix u sense p cw s).outside B = s.outside B := State.outside_mono hB rfl
@[simp] theorem State.notePecks_frame (c : Nat) (s : State) {B : Nat} (hB : B ||| 0x100 = B) :
    (State.notePecks c s).outside B = s.outside B := State.outside_mono hB rfl
@[simp] theorem State.givePecks_frame (ix : Nat) (ps : List Nat) (s : State) {B : Nat} (hB : B ||| 0x180 = B) :
    (State.givePecks ix ps s).outside B = s.outside B := State.outside_mono hB (by
  unfold State.givePecks
  repeat' (first
    | with_reducible rfl | (intro _; intros) | split | (with_reducible refine fold_frame _ _ _ _ ?_ ?_)
    | simp (disch := decide)))
@[simp] theorem State.dropSense_frame (ix : Nat) (cw : Option Nat) (s : State) {B : Nat} (hB : B ||| 0x100 = B) :
    (State.dropSense ix cw s).outside B = s.outside B := State.outside_mono hB (by simp (disch := decide)
    [State.dropSense])

/-! ## NvsOps -/

@[simp] theorem State.nvsStart_frame (s : State) {B : Nat} (hB : B ||| 0x100000 = B) :
    (State.nvsStart s).outside B = s.outside B := State.outside_mono hB (by
  unfold State.nvsStart
  repeat' (first | rfl | split | simp (disch := decide)))
@[simp] theorem State.nvsAsk_frame (what : NvsWhat) (line : Nat) (data : BitVec 256) (s : State) {B : Nat} (hB :
    B ||| 0x100000 = B) : (State.nvsAsk what line data s).outside B = s.outside B := State.outside_mono hB (by simp
    (disch := decide) [State.nvsAsk])
@[simp] theorem State.nvsMarker_frame (unit : Option Nat) (kind loc page : Nat) (s : State) {B : Nat} (hB :
    B ||| 0x100000 = B) : (State.nvsMarker unit kind loc page s).outside B = s.outside B := State.outside_mono hB (by
    simp (disch := decide) [State.nvsMarker])
@[simp] theorem State.nvsMarkerAgain_frame (ix kind loc page : Nat) (s : State) {B : Nat} (hB : B ||| 0x100000 = B) :
    (State.nvsMarkerAgain ix kind loc page s).outside B = s.outside B := State.outside_mono hB (by simp (disch :=
    decide) [State.nvsMarkerAgain])
@[simp] theorem State.nvsHealth_frame (f : Health → Health) (s : State) {B : Nat} (hB : B ||| 0x100000 = B) :
    (State.nvsHealth f s).outside B = s.outside B := State.outside_mono hB (by simp (disch := decide)
    [State.nvsHealth])
@[simp] theorem State.growWaster_frame (ix : Option Nat) (a : BitVec 64) (cause : Nat) (s : State) {B : Nat} (hB :
    B ||| 0x100090 = B) : (State.growWaster ix a cause s).outside B = s.outside B := State.outside_mono hB (by
  unfold State.growWaster
  repeat' (first | rfl | split | simp (disch := decide)))
@[simp] theorem State.wantSnapshot_frame (s : State) {B : Nat} (hB : B ||| 0x100000 = B) :
    (State.wantSnapshot s).outside B = s.outside B := State.outside_mono hB rfl
@[simp] theorem State.autoSnapshot_frame (s : State) {B : Nat} (hB : B ||| 0x100000 = B) :
    (State.autoSnapshot s).outside B = s.outside B := State.outside_mono hB (by
  unfold State.autoSnapshot
  split <;> rfl)

/-! ## Units -/

@[simp] theorem State.enlist_frame (ix : Nat) (again : Bool) (s : State) {B : Nat} (hB : B ||| 0x1000 = B) :
    (State.enlist ix again s).outside B = s.outside B := State.outside_mono hB (by
  unfold State.enlist
  repeat' split
  all_goals rfl)
@[simp] theorem State.prepare_frame (l : Nat) (s : State) {B : Nat} (hB : B ||| 0x100080 = B) :
    (State.prepare l s).outside B = s.outside B := State.outside_mono hB (by
  unfold State.prepare
  repeat' (first
    | with_reducible rfl | (intro _; intros) | split | (with_reducible refine fold_frame _ _ _ _ ?_ ?_)
    | simp (disch := decide)))
@[simp] theorem State.decideSuspend_frame (l : Nat) (s : State) {B : Nat} (hB : B ||| 0x1000 = B) :
    (State.decideSuspend l s).outside B = s.outside B := State.outside_mono hB (by
  unfold State.decideSuspend
  repeat' (first | rfl | split | simp (disch := decide)))
@[simp] theorem State.placeMerge_frame (l : Nat) (s : State) {B : Nat} (hB : B ||| 0x1000 = B) :
    (State.placeMerge l s).outside B = s.outside B := State.outside_mono hB rfl
@[simp] theorem State.latchResume_frame (l : Nat) (s : State) {B : Nat} (hB : B ||| 0x1000 = B) :
    (State.latchResume l s).outside B = s.outside B := State.outside_mono hB rfl
@[simp] theorem State.headEvent_frame (l : Nat) (s : State) {B : Nat} (hB : B ||| 0x101080 = B) :
    (State.headEvent l s).outside B = s.outside B := State.outside_mono hB (by simp (disch := decide)
    [State.headEvent])
@[simp] theorem State.withdraw_frame (l ix : Nat) (s : State) {B : Nat} (hB : B ||| 0x2000 = B) :
    (State.withdraw l ix s).outside B = s.outside B := State.outside_mono hB rfl
@[simp] theorem State.unlist_frame (ix : Nat) (s : State) {B : Nat} (hB : B ||| 0x103080 = B) :
    (State.unlist ix s).outside B = s.outside B := State.outside_mono hB (by
  unfold State.unlist
  repeat' (first | rfl | split | simp (disch := decide)))
@[simp] theorem State.link_frame (ix : Nat) (s : State) {B : Nat} (hB : B ||| 0x101080 = B) :
    (State.link ix s).outside B = s.outside B := State.outside_mono hB (by
  unfold State.link
  repeat' (first | rfl | split | simp (disch := decide)))
@[simp] theorem State.linkAgain_frame (ix : Nat) (s : State) {B : Nat} (hB : B ||| 0x101080 = B) :
    (State.linkAgain ix s).outside B = s.outside B := State.outside_mono hB (by
  unfold State.linkAgain
  dsimp only
  split <;> simp (disch := decide))
@[simp] theorem State.patrolEnded_frame (u : LUnit) (status : Status) (s : State) {B : Nat} (hB : B ||| 0x400 = B) :
    (State.patrolEnded u status s).outside B = s.outside B := State.outside_mono hB rfl
@[simp] theorem State.endUnit_frame (ix : Nat) (st : UState) (status : Status) (failCw : Nat) (s : State) {B :
    Nat} (hB : B ||| 0x103580 = B) : (State.endUnit ix st status failCw s).outside B = s.outside B :=
    State.outside_mono hB (by
  unfold State.endUnit
  repeat' split
  all_goals simp (disch := decide))
@[simp] theorem State.stopAfter_frame (ctx pos : Nat) (s : State) {B : Nat} (hB : B ||| 0x103580 = B) :
    (State.stopAfter ctx pos s).outside B = s.outside B := State.outside_mono hB (by
  unfold State.stopAfter
  repeat' (first
    | with_reducible rfl | (intro _; intros) | split | (with_reducible refine fold_frame _ _ _ _ ?_ ?_)
    | simp (disch := decide)))
@[simp] theorem State.finish_frame (ix : Nat) (status : Status) (failCw : Nat) (s : State) {B : Nat} (hB :
    B ||| 0x103580 = B) : (State.finish ix status failCw s).outside B = s.outside B := State.outside_mono hB (by
  unfold State.finish
  repeat' split
  all_goals simp (disch := decide))
@[simp] theorem State.failWhole_frame (ctx : Nat) (status : Status) (s : State) {B : Nat} (hB : B ||| 0x103580 = B) :
    (State.failWhole ctx status s).outside B = s.outside B := State.outside_mono hB (by
  unfold State.failWhole
  repeat' (first
    | with_reducible rfl | (intro _; intros) | split | (with_reducible refine fold_frame _ _ _ _ ?_ ?_)
    | simp (disch := decide)))
@[simp] theorem State.takeUnit_frame (ix : Nat) (kind : UKind) (ctx : Option Nat) (pos : Nat) (addr :
    BitVec 64) (sel : BitVec 4) (s : State) {B : Nat} (hB : B ||| 0x80 = B) : (State.takeUnit ix kind ctx pos addr
    sel s).outside B = s.outside B := State.outside_mono hB (by
  unfold State.takeUnit
  split <;> simp (disch := decide))

/-! ## Chain -/

@[simp] theorem State.onChain_frame (id : ChainId) (f : Chain → Chain) (s : State) {B : Nat} (hB :
    B ||| 0x200000 = B) :
    (State.onChain id f s).outside B = s.outside B := State.outside_mono hB (by
  unfold State.onChain
  cases id <;> rfl)
@[simp] theorem State.putOff_frame (id : ChainId) (f : Failed) (s : State) {B : Nat} (hB : B ||| 0x200000 = B) :
    (State.putOff id f s).outside B = s.outside B := State.outside_mono hB rfl
@[simp] theorem State.loseAccess_frame (f : Failed) (s : State) {B : Nat} (hB : B ||| 0x200000 = B) :
    (State.loseAccess f s).outside B = s.outside B := State.outside_mono hB rfl
theorem State.answerGone_frame (s : State) {B : Nat} (hB : B ||| 0x8 = B) :
    Res.frames B s.answerGone (s.outside B) := by
  unfold State.answerGone
  split
  · exact onlyIf_frame _ _ _ _ rfl fun _ => State.popRead_frame (by assumption) hB
  · exact next_frame _ _ rfl
@[simp] theorem State.chainRead_frame (id : ChainId) (what : RdWhat) (addr size : Nat) (s : State) {B : Nat} (hB :
    B ||| 0x200008 = B) : (State.chainRead id what addr size s).outside B = s.outside B := State.outside_mono hB (by
  unfold State.chainRead
  repeat' split
  all_goals rfl)
@[simp] theorem State.chainWrite_frame (id : ChainId) (what : WrWhat) (addr : Nat) (bytes : List Byte) (s :
    State) {B : Nat} (hB : B ||| 0x200008 = B) : (State.chainWrite id what addr bytes s).outside B = s.outside B :=
    State.outside_mono hB (by
  unfold State.chainWrite
  repeat' split
  all_goals rfl)
@[simp] theorem State.writeLines_frame (id : ChainId) (what : Nat → WrWhat) (addr : Nat) (bs : List Byte) (s :
    State) {B : Nat} (hB : B ||| 0x200008 = B) : (State.writeLines id what addr bs s).outside B = s.outside B :=
    State.outside_mono hB (foldl_frame _ _ (fun _ _ => by simp (disch := decide)) _)
@[simp] theorem State.writeRun_frame (id : ChainId) (what : WrWhat) (addr : Nat) (bs : List Byte) (s : State) {B :
    Nat} (hB : B ||| 0x200008 = B) : (State.writeRun id what addr bs s).outside B = s.outside B := State.outside_mono
    hB (by simp (disch := decide) [State.writeRun])
@[simp] theorem State.readSeg_frame (id : ChainId) (s : State) {B : Nat} (hB : B ||| 0x200008 = B) :
    (State.readSeg id s).outside B = s.outside B := State.outside_mono hB (by
  unfold State.readSeg
  repeat' split
  all_goals simp (disch := decide))
@[simp] theorem State.readLink_frame (id : ChainId) (a : Nat) (s : State) {B : Nat} (hB : B ||| 0x200008 = B) :
    (State.readLink id a s).outside B = s.outside B := State.outside_mono hB (by
  unfold State.readLink
  repeat' split
  all_goals simp (disch := decide))
@[simp] theorem State.writeBacks_frame (id : ChainId) (s : State) {B : Nat} (hB : B ||| 0x200008 = B) :
    (State.writeBacks id s).outside B = s.outside B := State.outside_mono hB (by
  unfold State.writeBacks
  repeat' (first
    | with_reducible rfl | (intro _; intros) | split | (with_reducible refine fold_frame _ _ _ _ ?_ ?_)
    | simp (disch := decide)))
@[simp] theorem State.advance_frame (id : ChainId) (beyond : Bool) (s : State) {B : Nat} (hB : B ||| 0x200008 = B) :
    (State.advance id beyond s).outside B = s.outside B := State.outside_mono hB (by
  unfold State.advance
  repeat' split
  all_goals simp (disch := decide))
@[simp] theorem State.dmaLess_frame (ix cw n : Nat) (s : State) {B : Nat} (hB : B ||| 0x180 = B) :
    (State.dmaLess ix cw n s).outside B = s.outside B := State.outside_mono hB (by
  unfold State.dmaLess
  repeat' (first | rfl | split | simp (disch := decide)))
@[simp] theorem State.dmaDones_frame (ctx : Nat) (s : State) {B : Nat} (hB : B ||| 0x103580 = B) :
    (State.dmaDones ctx s).outside B = s.outside B := State.outside_mono hB (by
  unfold State.dmaDones
  repeat' (first
    | with_reducible rfl | (intro _; intros) | split | (with_reducible refine fold_frame _ _ _ _ ?_ ?_)
    | simp (disch := decide)))
@[simp] theorem State.pushOne_frame (id : ChainId) (s : State) (d : Deliver) {B : Nat} (hB : B ||| 0x200188 = B) :
    (State.pushOne id s d).outside B = s.outside B := State.outside_mono hB (by
  unfold State.pushOne
  repeat' (first
    | with_reducible rfl | (intro _; intros) | split | (with_reducible refine fold_frame _ _ _ _ ?_ ?_)
    | simp (disch := decide)))
@[simp] theorem State.pullOne_frame (id : ChainId) (s : State) (d : Deliver) {B : Nat} (hB : B ||| 0x200188 = B) :
    (State.pullOne id s d).outside B = s.outside B := State.outside_mono hB (by
  unfold State.pullOne
  repeat' (first
    | with_reducible rfl | (intro _; intros) | split | (with_reducible refine fold_frame _ _ _ _ ?_ ?_)
    | simp (disch := decide)))
@[simp] theorem State.pump_frame (id : ChainId) (s : State) {B : Nat} (hB : B ||| 0x303588 = B) :
    (State.pump id s).outside B = s.outside B := State.outside_mono hB (by
  unfold State.pump
  split
  · rfl
  · split
    · rfl
    · have key : ∀ (l : List Deliver) (c : Bool) (t : State),
          (l.foldl (if c then State.pullOne id else State.pushOne id) t).outside 0x303588 = t.outside 0x303588 := by
        intro l c t
        refine foldl_frame _ _ ?_ _
        intro a d
        cases c <;> simp (disch := decide)
      simp only []
      split <;> simp (disch := decide) [key])
@[simp] theorem State.deliver_frame (id : ChainId) (ix cw off len : Nat) (bytes : List Byte) (s : State) {B :
    Nat} (hB : B ||| 0x303588 = B) : (State.deliver id ix cw off len bytes s).outside B = s.outside B :=
    State.outside_mono hB (by
  unfold State.deliver
  repeat' split
  all_goals simp (disch := decide))
@[simp] theorem State.want_frame (id : ChainId) (ix cw off len : Nat) (s : State) {B : Nat} (hB :
    B ||| 0x303588 = B) : (State.want id ix cw off len s).outside B = s.outside B := State.outside_mono hB (by simp
    (disch := decide) [State.want])
@[simp] theorem State.openChain_frame (ctx : Nat) (h : Chain) (s : State) {B : Nat} (hB : B ||| 0x200008 = B) :
    (State.openChain ctx h s).outside B = s.outside B := State.outside_mono hB (by simp (disch := decide)
    [State.openChain])
@[simp] theorem State.endShort_frame (id : ChainId) (s : State) {B : Nat} (hB : B ||| 0x303588 = B) :
    (State.endShort id s).outside B = s.outside B := State.outside_mono hB (by simp (disch := decide)
    [State.endShort])
@[simp] theorem State.closeChain_frame (ctx : Nat) (s : State) {B : Nat} (hB : B ||| 0x200008 = B) :
    (State.closeChain ctx s).outside B = s.outside B := State.outside_mono hB (by
  unfold State.closeChain
  repeat' split
  all_goals simp (disch := decide))
@[simp] theorem State.haltChain_frame (ctx : Nat) (f : Failed) (s : State) {B : Nat} (hB : B ||| 0x200010 = B) :
    (State.haltChain ctx f s).outside B = s.outside B := State.outside_mono hB (by
  unfold State.haltChain
  repeat' (first | rfl | split | simp (disch := decide)))
@[simp] theorem State.reissue_frame (s : State) (f : Failed) {B : Nat} (hB : B ||| 0x200008 = B) :
    (State.reissue s f).outside B = s.outside B := State.outside_mono hB (by
  unfold State.reissue
  repeat' split
  all_goals first | rfl | simp (disch := decide))

/-! ## Rings -/

@[simp] theorem State.applyCq_frame (i : Nat) (e : BitVec 512) (s : State) {B : Nat} (hB : B ||| 0x4 = B) :
    (State.applyCq i e s).outside B = s.outside B := State.outside_mono hB (by
  unfold State.applyCq
  split <;> rfl)
@[simp] theorem State.applySq_frame (i : Nat) (e : BitVec 512) (s : State) {B : Nat} (hB : B ||| 0x4 = B) :
    (State.applySq i e s).outside B = s.outside B := State.outside_mono hB (by
  unfold State.applySq
  split <;> rfl)
@[simp] theorem State.readTable_frame (s : State) {B : Nat} (hB : B ||| 0xc = B) :
    (State.readTable s).outside B = s.outside B := State.outside_mono hB (by
  unfold State.readTable
  repeat' (first
    | (intro _; intros) | split | (with_reducible refine fold_frame _ _ _ _ ?_ ?_) | simp (disch := decide)))
@[simp] theorem State.startCycle_frame (polls : List Nat) (all : Bool) (s : State) {B : Nat} (hB : B ||| 0xc = B) :
    (State.startCycle polls all s).outside B = s.outside B := State.outside_mono hB (by
  unfold State.startCycle
  split <;> rfl)
@[simp] theorem State.startAgain_frame (s : State) {B : Nat} (hB : B ||| 0xc = B) :
    (State.startAgain s).outside B = s.outside B := State.outside_mono hB (by
  unfold State.startAgain
  split <;> simp (disch := decide))
@[simp] theorem State.applyTable_frame (s : State) {B : Nat} (hB : B ||| 0xc = B) :
    (s.applyTable).outside B = s.outside B := State.outside_mono hB (by
  unfold State.applyTable
  extract_lets entry got step1 step2 s1
  have h2 : s1.outside 0xc = s.outside 0xc := by
    refine (State.onHif_frame _ _ (by decide)).trans ?_
    refine fold1_frame _ _ _ _ (fold1_frame _ _ _ _ rfl ?_) ?_ <;>
      (intro p a; split <;> simp (disch := decide))
  split
  · simpa (disch := decide) using h2
  · simpa (disch := decide) using h2)
@[simp] theorem State.writeHifCfg_frame (data : Word) (s : State) {B : Nat} (hB : B ||| 0xc = B) :
    (State.writeHifCfg data s).outside B = s.outside B := State.outside_mono hB (by
  unfold State.writeHifCfg
  dsimp only
  split <;> simp (disch := decide))
@[simp] theorem State.writeRingCmd_frame (data : Word) (s : State) {B : Nat} (hB : B ||| 0xc = B) :
    (State.writeRingCmd data s).outside B = s.outside B := State.outside_mono hB (by
  unfold State.writeRingCmd
  repeat' split
  all_goals rfl)
@[simp] theorem State.ringEntryIn_frame (r : Nat) (e : Option (BitVec 512)) (s : State) {B : Nat} (hB :
    B ||| 0x1c = B) : (State.ringEntryIn r e s).outside B = s.outside B := State.outside_mono hB (by
  unfold State.ringEntryIn
  repeat' (first
    | with_reducible rfl | split | simp (disch := decide)
    | with_reducible exact State.popRead_frame (by assumption) (by decide)))
@[simp] theorem State.endCycle_frame (s : State) {B : Nat} (hB : B ||| 0xc = B) :
    (State.endCycle s).outside B = s.outside B := State.outside_mono hB (by
  unfold State.endCycle
  repeat' split
  all_goals simp (disch := decide))
@[simp] theorem State.reOwn_frame (id : ChainId) (s : State) {B : Nat} (hB : B ||| 0x200008 = B) :
    (State.reOwn id s).outside B = s.outside B := State.outside_mono hB (by
  unfold State.reOwn
  repeat' split
  all_goals simp (disch := decide))
@[simp] theorem State.reRead_frame (sqs : List Nat) (s : State) {B : Nat} (hB : B ||| 0x200008 = B) :
    (State.reRead sqs s).outside B = s.outside B := State.outside_mono hB (by
  unfold State.reRead
  repeat' (first
    | with_reducible rfl | (intro _; intros) | split | (with_reducible refine fold_frame _ _ _ _ ?_ ?_)
    | simp (disch := decide)))
@[simp] theorem State.summaryIn_frame (bits : BitVec 256) (s : State) {B : Nat} (hB : B ||| 0x20000c = B) :
    (State.summaryIn bits s).outside B = s.outside B := State.outside_mono hB (by
  unfold State.summaryIn
  repeat' (first
    | with_reducible rfl | (intro _; intros) | split | (with_reducible refine fold_frame _ _ _ _ ?_ ?_)
    | simp (disch := decide)))
@[simp] theorem State.tailsIn_frame (b : Nat) (ts : List Word) (s : State) {B : Nat} (hB : B ||| 0xc = B) :
    (State.tailsIn b ts s).outside B = s.outside B := State.outside_mono hB (by
  unfold State.tailsIn
  repeat' (first
    | with_reducible rfl | (intro _; intros) | split | (with_reducible refine fold_frame _ _ _ _ ?_ ?_)
    | simp (disch := decide)))
@[simp] theorem State.headsIn_frame (b : Nat) (hs : List Word) (s : State) {B : Nat} (hB : B ||| 0xc = B) :
    (State.headsIn b hs s).outside B = s.outside B := State.outside_mono hB (by
  unfold State.headsIn
  repeat' (first
    | with_reducible rfl | (intro _; intros) | split | (with_reducible refine fold_frame _ _ _ _ ?_ ?_)
    | simp (disch := decide)))
@[simp] theorem State.abandonCycle_frame (s : State) {B : Nat} (hB : B ||| 0xc = B) :
    (State.abandonCycle s).outside B = s.outside B := State.outside_mono hB (by simp (disch := decide)
    [State.abandonCycle])
theorem execHifEnable_frame (data : Word) (s : State) : Res.frames 0xe (execHifEnable data s) (s.outside 0xe) := by
  unfold execHifEnable
  repeat' (first
    | with_reducible assumption | with_reducible rfl | (intro _; intros)
    | (with_reducible refine hcpAccess_frame (by decide) _ _ _ ?_ ?_) | split | simp (disch := decide))
theorem execHifDisable_frame (data : Word) (s : State) : Res.frames 0xe (execHifDisable data s) (s.outside 0xe) := by
  unfold execHifDisable
  repeat' (first
    | with_reducible assumption | with_reducible rfl | (intro _; intros)
    | (with_reducible refine hcpAccess_frame (by decide) _ _ _ ?_ ?_) | split | simp (disch := decide))
theorem execRingLoad_frame (data : Word) (s : State) : Res.frames 0x2e (execRingLoad data s) (s.outside 0x2e) := by
  unfold execRingLoad
  repeat' (first
    | with_reducible assumption | with_reducible rfl | (intro _; intros)
    | (with_reducible refine hcpAction_frame (by decide) _ _ _ _ ?_ ?_) | split | simp (disch := decide))
theorem execRingStop_frame (data : Word) (s : State) : Res.frames 0x2e (execRingStop data s) (s.outside 0x2e) := by
  unfold execRingStop
  repeat' (first
    | with_reducible assumption | with_reducible rfl | (intro _; intros)
    | (with_reducible refine hcpAction_frame (by decide) _ _ _ _ ?_ ?_) | split | simp (disch := decide))
theorem execRingTableData_frame (ring : Nat) (entry : BitVec 512) (s : State) :
    Res.frames 0x1c (execRingTableData ring entry s) (s.outside 0x1c) := onlyIf_frame _ _ _ _ rfl (fun _ => by simp
    (disch := decide))
theorem execRingTableReadError_frame (ring : Nat) (s : State) :
    Res.frames 0x1c (execRingTableReadError ring s) (s.outside 0x1c) := onlyIf_frame _ _ _ _ rfl (fun _ => by simp
    (disch := decide))
@[simp] theorem State.overtake_frame (p : Nat → Bool) (s : State) {B : Nat} (hB : B ||| 0x4 = B) :
    (State.overtake p s).outside B = s.outside B := State.outside_mono hB rfl
@[simp] theorem State.writePredInv_frame (v : Word) (s : State) {B : Nat} (hB : B ||| 0x4 = B) :
    (State.writePredInv v s).outside B = s.outside B := State.outside_mono hB rfl
theorem execPredInvalidate_frame (data : Word) (s : State) :
    Res.frames 0x26 (execPredInvalidate data s) (s.outside 0x26) := by
  unfold execPredInvalidate
  repeat' (first
    | with_reducible assumption | with_reducible rfl | (intro _; intros)
    | (with_reducible refine hcpAction_frame (by decide) _ _ _ _ ?_ ?_) | split | simp (disch := decide))
theorem execPredInvalidateAll_frame (data : Word) (s : State) :
    Res.frames 0x26 (execPredInvalidateAll data s) (s.outside 0x26) := by
  unfold execPredInvalidateAll
  repeat' (first
    | with_reducible assumption | with_reducible rfl | (intro _; intros)
    | (with_reducible refine hcpAction_frame (by decide) _ _ _ _ ?_ ?_) | split | simp (disch := decide))
@[simp] theorem State.clearHifFault_frame (s : State) {B : Nat} (hB : B ||| 0xc = B) :
    (State.clearHifFault s).outside B = s.outside B := State.outside_mono hB (foldl_frame _ _ (fun _ _ => by simp
    (disch := decide)) _)
theorem execHifFaultClear_frame (data : Word) (s : State) :
    Res.frames 0xe (execHifFaultClear data s) (s.outside 0xe) := by
  unfold execHifFaultClear
  repeat' (first
    | with_reducible assumption | with_reducible rfl | (intro _; intros)
    | (with_reducible refine hcpAccess_frame (by decide) _ _ _ ?_ ?_) | split | simp (disch := decide))
theorem execKickIn_frame (s : State) : Res.frames 0x2c (execKickIn s) (s.outside 0x2c) := by
  unfold execKickIn
  repeat' (first
    | with_reducible rfl | (intro _; intros) | (with_reducible refine onlyIf_frame _ _ _ _ ?_ ?_) | split
    | simp (disch := decide))
@[simp] theorem State.pollDue_frame (sqs : List Nat) (all : Bool) (s : State) {B : Nat} (hB : B ||| 0x2c = B) :
    (State.pollDue sqs all s).outside B = s.outside B := State.outside_mono hB (by
  unfold State.pollDue
  split <;> simp (disch := decide))
theorem execPollTimerExpiry_frame (s : State) :
    Res.frames 0x2c (execPollTimerExpiry s) (s.outside 0x2c) := onlyIf_frame _ _ _ _ rfl (fun _ => by simp (disch :=
    decide))
theorem execSqPollExpiry_frame (sq : Nat) (s : State) :
    Res.frames 0x2c (execSqPollExpiry sq s) (s.outside 0x2c) := onlyIf_frame _ _ _ _ rfl (fun _ => by simp (disch :=
    decide))
theorem execSummarySwapData_frame (bits : BitVec 256) (s : State) :
    Res.frames 0x20000c (execSummarySwapData bits s) (s.outside 0x20000c) := by
  unfold execSummarySwapData
  repeat' (first
    | with_reducible rfl | (with_reducible refine next_frame _ _ ?_) | split | simp (disch := decide)
    | with_reducible exact State.popRead_frame (by assumption) (by decide))
theorem execTailBlockData_frame (block : Nat) (tails : List Word) (s : State) :
    Res.frames 0xc (execTailBlockData block tails s) (s.outside 0xc) := by
  unfold execTailBlockData
  repeat' (first
    | with_reducible rfl | (with_reducible refine next_frame _ _ ?_)
    | with_reducible exact State.answerGone_frame _ (by decide) | split | simp (disch := decide)
    | with_reducible exact State.popRead_frame (by assumption) (by decide))
theorem execCqHeadData_frame (block : Nat) (heads : List Word) (s : State) :
    Res.frames 0xc (execCqHeadData block heads s) (s.outside 0xc) := by
  unfold execCqHeadData
  repeat' (first
    | with_reducible rfl | (with_reducible refine next_frame _ _ ?_)
    | with_reducible exact State.answerGone_frame _ (by decide) | split | simp (disch := decide)
    | with_reducible exact State.popRead_frame (by assumption) (by decide))
theorem State.doorbellTag_frame (s : State) {B : Nat} (hB : B ||| 0x800000 = B) :
    s.doorbellTag.2.outside B = s.outside B := State.outside_mono hB (by
  unfold State.doorbellTag
  dsimp only
  split <;> rfl)
theorem execDoorbellReadError_frame (s : State) :
    Res.frames 0x80001c (execDoorbellReadError s) (s.outside 0x80001c) := by
  unfold execDoorbellReadError
  repeat' split
  · refine next_frame _ _ ?_
    simp (disch := decide)
    exact (State.popTag_frame (by assumption) (by decide)).trans (State.doorbellTag_frame s (by decide))
  all_goals exact next_frame _ _ rfl
theorem execSqFetchRequest_frame (s : State) : Res.frames 0xc (execSqFetchRequest s) (s.outside 0xc) := by
  unfold execSqFetchRequest
  repeat' (first
    | with_reducible rfl | (intro _; intros) | (with_reducible refine next_frame _ _ ?_)
    | (with_reducible refine onlyIf_frame _ _ _ _ ?_ ?_) | split | simp (disch := decide))
theorem State.fetched_frame {s t : State} {q : Nat} {k : Word} (h : s.fetched = some (q, k, t)) {B : Nat}
    (hB : B ||| 0xc = B) : t.outside B = s.outside B := State.outside_mono hB (by
  unfold State.fetched at h
  split at h
  · cases h
  · simp only [Option.map_eq_some_iff, Prod.mk.injEq] at h
    obtain ⟨⟨r, u⟩, h1, -, -, rfl⟩ := h
    exact (State.onHif_frame _ _ (by decide)).trans (State.popRead_frame h1 (by decide)))
theorem execOwnMismatch_frame (entry : BitVec 512) (s : State) :
    Res.frames 0xc (execOwnMismatch entry s) (s.outside 0xc) := by
  unfold execOwnMismatch
  repeat' (first
    | with_reducible rfl | (intro _; intros) | (with_reducible refine next_frame _ _ ?_)
    | (with_reducible refine onlyIf_frame _ _ _ _ ?_ ?_) | split | simp (disch := decide)
    | with_reducible exact (State.fetched_frame (by assumption) (by decide)))
theorem execSqReadError_frame (s : State) : Res.frames 0x1c (execSqReadError s) (s.outside 0x1c) := by
  unfold execSqReadError
  repeat' (first
    | with_reducible rfl | (intro _; intros) | (with_reducible refine next_frame _ _ ?_)
    | (with_reducible refine onlyIf_frame _ _ _ _ ?_ ?_) | split | simp (disch := decide)
    | with_reducible exact (State.fetched_frame (by assumption) (by decide)))
theorem execWorkItemTransfer_frame (s : State) :
    Res.frames 0x4 (execWorkItemTransfer s) (s.outside 0x4) := onlyIf_frame _ _ _ _ rfl (fun _ => rfl)

end Sys2Proof.Machine
end

