-- ==== Sys2Proof/Laws/FramePath.lean ====
section
/-! SUPPORT. Block frames: delivery, the command rows, the data path, replay, the arbiter, the serial memory, the engine and the set-up schedules. -/

namespace Sys2Proof.Machine

/-! ## Link -/

@[simp] theorem State.onLink_frame (b : Nat) (f : Link → Link) (s : State) {B : Nat} (hB : B ||| 0x20000 = B) :
    (State.onLink b f s).outside B = s.outside B := State.outside_mono hB rfl
@[simp] theorem State.sendOn_frame (b ch : Nat) (f : RFrame) (isNew : Bool) (s : State) {B : Nat} (hB :
    B ||| 0x20000 = B) : (State.sendOn b ch f isNew s).outside B = s.outside B := State.outside_mono hB (by
  unfold State.sendOn
  split <;> rfl)
@[simp] theorem State.fillOne_frame (b : Nat) (s : State) (ch : Nat) {B : Nat} (hB : B ||| 0x20000 = B) :
    (State.fillOne b s ch).outside B = s.outside B := State.outside_mono hB (by
  unfold State.fillOne
  repeat' split
  all_goals simp (disch := decide))
@[simp] theorem State.fillChannels_frame (b : Nat) (s : State) {B : Nat} (hB : B ||| 0x20000 = B) :
    (State.fillChannels b s).outside B = s.outside B := State.outside_mono hB (by
  unfold State.fillChannels
  repeat' (first
    | with_reducible rfl | (intro _; intros) | split | (with_reducible refine fold_frame _ _ _ _ ?_ ?_)
    | simp (disch := decide)))
@[simp] theorem State.queueFrame_frame (b : Nat) (f : RFrame) (s : State) {B : Nat} (hB : B ||| 0x20000 = B) :
    (State.queueFrame b f s).outside B = s.outside B := State.outside_mono hB (by simp (disch := decide)
    [State.queueFrame])
@[simp] theorem State.sendCommand_frame (b ix : Nat) (s : State) {B : Nat} (hB : B ||| 0x20080 = B) :
    (State.sendCommand b ix s).outside B = s.outside B := State.outside_mono hB (by
  unfold State.sendCommand
  repeat' split
  all_goals simp (disch := decide))
@[simp] theorem State.sendPage_frame (b ix : Nat) (u : LUnit) (l : Link) (s : State) {B : Nat} (hB :
    B ||| 0x20080 = B) : (State.sendPage b ix u l s).outside B = s.outside B := State.outside_mono hB (by
  unfold State.sendPage
  repeat' (first
    | with_reducible rfl | (intro _; intros) | split | (with_reducible refine fold_frame _ _ _ _ ?_ ?_)
    | simp (disch := decide)))
@[simp] theorem State.sendPackets_frame (b ix : Nat) (u : LUnit) (c : Cmd) (s : State) {B : Nat} (hB :
    B ||| 0x20080 = B) : (State.sendPackets b ix u c s).outside B = s.outside B := State.outside_mono hB (by
  unfold State.sendPackets
  repeat' (first
    | with_reducible rfl | (intro _; intros) | split | (with_reducible refine fold_frame _ _ _ _ ?_ ?_)
    | simp (disch := decide)))
@[simp] theorem State.sendData_frame (b ix : Nat) (s : State) {B : Nat} (hB : B ||| 0x20080 = B) :
    (State.sendData b ix s).outside B = s.outside B := State.outside_mono hB (by
  unfold State.sendData
  repeat' split
  all_goals simp (disch := decide))
@[simp] theorem State.relayPump_frame (b : Nat) (s : State) {B : Nat} (hB : B ||| 0x20080 = B) :
    (State.relayPump b s).outside B = s.outside B := State.outside_mono hB (by
  unfold State.relayPump
  repeat' (first
    | with_reducible rfl | (intro _; intros) | split | (with_reducible refine fold_frame _ _ _ _ ?_ ?_)
    | simp (disch := decide)))
@[simp] theorem State.relayQueue_frame (ix : Nat) (s : State) {B : Nat} (hB : B ||| 0x20180 = B) :
    (State.relayQueue ix s).outside B = s.outside B := State.outside_mono hB (by
  unfold State.relayQueue
  repeat' split
  all_goals simp (disch := decide))
@[simp] theorem State.bindBundle_frame (ix b : Nat) (s : State) {B : Nat} (hB : B ||| 0x80 = B) :
    (State.bindBundle ix b s).outside B = s.outside B := State.outside_mono hB (by
  unfold State.bindBundle
  split <;> rfl)
@[simp] theorem State.askCredit_frame (b : Nat) (s : State) {B : Nat} (hB : B ||| 0x20100 = B) :
    (State.askCredit b s).outside B = s.outside B := State.outside_mono hB (by
  unfold State.askCredit
  repeat' split
  all_goals simp (disch := decide))
@[simp] theorem State.giveCredit_frame (b c p : Nat) (s : State) {B : Nat} (hB : B ||| 0x20100 = B) :
    (State.giveCredit b c p s).outside B = s.outside B := State.outside_mono hB (by simp (disch := decide)
    [State.giveCredit])
@[simp] theorem State.packetAcked_frame (ix : Nat) (u : LUnit) (c : Cmd) (s : State) {B : Nat} (hB :
    B ||| 0x180 = B) : (State.packetAcked ix u c s).outside B = s.outside B := State.outside_mono hB (by
  unfold State.packetAcked
  split <;> rfl)
@[simp] theorem State.ackedFrame_frame (b : Nat) (target : Bool) (s : State) (f : RFrame) {B : Nat} (hB :
    B ||| 0x20180 = B) : (State.ackedFrame b target s f).outside B = s.outside B := State.outside_mono hB (by
  unfold State.ackedFrame
  repeat' split
  all_goals simp (disch := decide))
@[simp] theorem State.ackUpTo_frame (b : Nat) (a : BitVec 12) (s : State) {B : Nat} (hB : B ||| 0x20180 = B) :
    (State.ackUpTo b a s).outside B = s.outside B := State.outside_mono hB (by
  unfold State.ackUpTo
  repeat' (first
    | with_reducible rfl | (intro _; intros) | split | (with_reducible refine fold_frame _ _ _ _ ?_ ?_)
    | simp (disch := decide)))
@[simp] theorem State.replayFrames_frame (b : Nat) (s : State) {B : Nat} (hB : B ||| 0x20000 = B) :
    (State.replayFrames b s).outside B = s.outside B := State.outside_mono hB (by
  unfold State.replayFrames
  split <;> simp (disch := decide))

/-! ## Deliver -/

@[simp] theorem State.streamRun_frame (ctx ix : Nat) (t : Stream) (buf p : Nat) (bs : List Byte) (s : State) {B :
    Nat} (hB : B ||| 0x200008 = B) : (State.streamRun ctx ix t buf p bs s).outside B = s.outside B :=
    State.outside_mono hB (by
  unfold State.streamRun
  dsimp only
  split <;> simp (disch := decide))
@[simp] theorem State.onStream_frame (ctx : Nat) (f : Stream → Stream) (s : State) {B : Nat} (hB :
    B ||| 0x200000 = B) : (State.onStream ctx f s).outside B = s.outside B := State.outside_mono hB rfl
@[simp] theorem State.streamFix_frame (ctx : Nat) (s : State) {B : Nat} (hB : B ||| 0x200080 = B) :
    (State.streamFix ctx s).outside B = s.outside B := State.outside_mono hB (by
  unfold State.streamFix
  repeat' (first
    | with_reducible rfl | (intro _; intros) | split | (with_reducible refine fold1_frame _ _ _ _ ?_ ?_)
    | simp (disch := decide)))
@[simp] theorem State.streamPut_frame (ctx : Nat) (s : State) {B : Nat} (hB : B ||| 0x303588 = B) :
    (State.streamPut ctx s).outside B = s.outside B := State.outside_mono hB (by
  unfold State.streamPut
  repeat' (first
    | with_reducible rfl | (intro _; intros) | split | (with_reducible refine fold_frame _ _ _ _ ?_ ?_)
    | simp (disch := decide)))
@[simp] theorem State.streamControl_frame (ctx : Nat) (s : State) {B : Nat} (hB : B ||| 0x200008 = B) :
    (State.streamControl ctx s).outside B = s.outside B := State.outside_mono hB (by
  unfold State.streamControl
  split <;> simp (disch := decide))
@[simp] theorem State.streamProd_frame (ctx : Nat) (s : State) {B : Nat} (hB : B ||| 0x200008 = B) :
    (State.streamProd ctx s).outside B = s.outside B := State.outside_mono hB (by
  unfold State.streamProd
  repeat' (first | rfl | split | simp (disch := decide)))
@[simp] theorem State.streamEnd_frame (ctx : Nat) (s : State) {B : Nat} (hB : B ||| 0x200008 = B) :
    (State.streamEnd ctx s).outside B = s.outside B := State.outside_mono hB (by
  unfold State.streamEnd
  repeat' split
  all_goals simp (disch := decide))
@[simp] theorem State.streamSettle_frame (ctx : Nat) (s : State) {B : Nat} (hB : B ||| 0x303588 = B) :
    (State.streamSettle ctx s).outside B = s.outside B := State.outside_mono hB (by
  unfold State.streamSettle
  repeat' split
  all_goals simp (disch := decide))
@[simp] theorem State.originDone_frame (ctx : Nat) (s : State) {B : Nat} (hB : B ||| 0x20180 = B) :
    (State.originDone ctx s).outside B = s.outside B := State.outside_mono hB (by
  unfold State.originDone
  split
  · rfl
  · split
    · rfl
    · split
      · rfl
      · extract_lets r f s1 s2
        have h1 : s1.outside 0x20180 = s.outside 0x20180 :=
          State.onCmd_frame _ _ _ (by decide)
        have h2 : s2.outside 0x20180 = s.outside 0x20180 := by
          show (ite _ _ _ : State).outside _ = _
          split
          · exact fold_frame _ _ _ _ h1 (fun t a => by split <;> simp (disch := decide))
          · exact h1
        clear_value s2
        repeat' split
        all_goals first
          | exact (State.onCmd_frame _ _ _ (by decide)).trans h2
          | exact (State.queueFrame_frame _ _ _ (by decide)).trans ((State.onLink_frame _ _ _ (by decide)).trans h2)
          | exact (State.onLink_frame _ _ _ (by decide)).trans h2)
@[simp] theorem State.calSettle_frame (ctx : Nat) (s : State) {B : Nat} (hB : B ||| 0x480 = B) :
    (State.calSettle ctx s).outside B = s.outside B := State.outside_mono hB (by
  unfold State.calSettle
  repeat' split
  all_goals rfl)
@[simp] theorem State.settle_frame (ctx : Nat) (s : State) {B : Nat} (hB : B ||| 0x323588 = B) :
    (State.settle ctx s).outside B = s.outside B := State.outside_mono hB (by simp (disch := decide) [State.settle])
@[simp] theorem State.giveOut_frame (ctx ix cw off : Nat) (bytes : List Byte) (last : Bool) (s : State) {B :
    Nat} (hB : B ||| 0x323588 = B) : (State.giveOut ctx ix cw off bytes last s).outside B = s.outside B :=
    State.outside_mono hB (by
  unfold State.giveOut
  repeat' split
  all_goals simp (disch := decide))
@[simp] theorem State.skipCws_frame (ctx ix : Nat) (cws : List Nat) (s : State) {B : Nat} (hB : B ||| 0x303588 = B) :
    (State.skipCws ctx ix cws s).outside B = s.outside B := State.outside_mono hB (by
  unfold State.skipCws
  repeat' (first
    | with_reducible rfl | (intro _; intros) | split | (with_reducible refine fold_frame _ _ _ _ ?_ ?_)
    | simp (disch := decide)))
@[simp] theorem State.endUnder_frame (ix : Nat) (status : Status) (failCw : Nat) (s : State) {B : Nat} (hB :
    B ||| 0x323588 = B) : (State.endUnder ix status failCw s).outside B = s.outside B := State.outside_mono hB (by
  unfold State.endUnder
  repeat' split
  all_goals simp (disch := decide))
@[simp] theorem State.pageEnd_frame (ix : Nat) (s : State) {B : Nat} (hB : B ||| 0x323588 = B) :
    (State.pageEnd ix s).outside B = s.outside B := State.outside_mono hB (by
  unfold State.pageEnd
  repeat' (first | rfl | split | simp (disch := decide)))

/-! ## Commands -/

@[simp] theorem State.takeCmd_frame (ctx : List Nat) (mk : BitVec 16 → Cmd) (s : State) {B : Nat} (hB :
    B ||| 0xa0 = B) : (State.takeCmd ctx mk s).outside B = s.outside B := State.outside_mono hB (by
  unfold State.takeCmd
  repeat' (first
    | with_reducible rfl | (intro _; intros) | split | (with_reducible refine fold_frame _ _ _ _ ?_ ?_)
    | simp (disch := decide)))
@[simp] theorem State.bindPredicate_frame (ctx : Nat) (s : State) {B : Nat} (hB : B ||| 0x8c = B) :
    (State.bindPredicate ctx s).outside B = s.outside B := State.outside_mono hB (by
  unfold State.bindPredicate
  repeat' (first | rfl | split | simp (disch := decide)))
@[simp] theorem State.beginCmd_frame (ctx : Nat) (s : State) {B : Nat} (hB : B ||| 0x20008c = B) :
    (State.beginCmd ctx s).outside B = s.outside B := State.outside_mono hB (by
  unfold State.beginCmd
  repeat' (first | rfl | split | simp (disch := decide)))
theorem State.acceptEntry_frame {op : Op} {e : BitVec 512} {ctx : List Nat} {s t : State} {c : Nat} (h :
    s.acceptEntry op e ctx = some (c, t)) {B : Nat}
    (hB : B ||| 0x2000ac = B) : t.outside B = s.outside B := State.outside_mono hB (by
  unfold State.acceptEntry at h
  split at h
  · cases h
  · split at h
    · cases h
    · rename_i q k u hq
      split at h
      · cases h
      · simp only [] at h
        split at h
        · cases h
          simp (disch := decide) only [State.beginCmd_frame, State.takeCmd_frame, State.onSq_frame]
          exact State.fetched_frame hq (by decide)
        · cases h)
theorem fetchedMeaning_frame {B : Nat} (hB : B ||| 0x2000ac = B) (op : Op) (e : BitVec 512) (ctx : List Nat)
    (go : Nat → State → State) (s : State) (h : ∀ c t, (go c t).outside B = t.outside B) :
    Res.frames B (fetchedMeaning op e ctx go s) (s.outside B) := by
  unfold fetchedMeaning
  split
  · rename_i c0 t ht
    have k := State.acceptEntry_frame ht hB
    split
    · refine next_frame _ _ ?_
      split
      · exact k
      · rw [h, k]
    · exact next_frame _ _ k
  · exact next_frame _ _ rfl
@[simp] theorem State.tryLink_frame (ix : Nat) (s : State) {B : Nat} (hB : B ||| 0x323588 = B) :
    (State.tryLink ix s).outside B = s.outside B := State.outside_mono hB (by
  unfold State.tryLink
  repeat' split
  all_goals simp (disch := decide))
@[simp] theorem State.progAsk_frame (ctx : Nat) (s : State) {B : Nat} (hB : B ||| 0x180 = B) :
    (State.progAsk ctx s).outside B = s.outside B := State.outside_mono hB (by
  unfold State.progAsk
  repeat' split
  all_goals simp (disch := decide))
@[simp] theorem State.startDma_frame (ix : Nat) (s : State) {B : Nat} (hB : B ||| 0x323588 = B) :
    (State.startDma ix s).outside B = s.outside B := State.outside_mono hB (by
  unfold State.startDma
  repeat' split
  all_goals simp (disch := decide))
@[simp] theorem State.rawRefill_frame (ix : Nat) (s : State) {B : Nat} (hB : B ||| 0x303588 = B) :
    (State.rawRefill ix s).outside B = s.outside B := State.outside_mono hB (by
  unfold State.rawRefill
  repeat' (first | rfl | split | simp (disch := decide)))
@[simp] theorem State.bindRoute_frame (ix inst : Nat) (s : State) {B : Nat} (hB : B ||| 0x80 = B) :
    (State.bindRoute ix inst s).outside B = s.outside B := State.outside_mono hB (by
  unfold State.bindRoute
  repeat' split
  all_goals simp (disch := decide))
@[simp] theorem State.noteSources_frame (c : Cmd) (ix : Nat) (s : State) {B : Nat} (hB : B ||| 0x80 = B) :
    (State.noteSources c ix s).outside B = s.outside B := State.outside_mono hB (by
  unfold State.noteSources
  split <;> rfl)
@[simp] theorem State.beginAway_frame (ctx : Nat) (c : Cmd) (ix : Nat) (s : State) {B : Nat} (hB :
    B ||| 0x20180 = B) : (State.beginAway ctx c ix s).outside B = s.outside B := State.outside_mono hB (by
  unfold State.beginAway
  repeat' split
  all_goals simp (disch := decide))
@[simp] theorem State.beginHere_frame (ctx : Nat) (c : Cmd) (ix : Nat) (s : State) {B : Nat} (hB :
    B ||| 0x323588 = B) : (State.beginHere ctx c ix s).outside B = s.outside B := State.outside_mono hB (by
  unfold State.beginHere
  repeat' (first | rfl | split | simp (disch := decide)))
@[simp] theorem State.beginUnit_frame (ix : Nat) (s : State) {B : Nat} (hB : B ||| 0x323588 = B) :
    (State.beginUnit ix s).outside B = s.outside B := State.outside_mono hB (by
  unfold State.beginUnit
  repeat' (first | rfl | split | simp (disch := decide)))
@[simp] theorem State.takeNext_frame (ctx ix : Nat) (s : State) {B : Nat} (hB : B ||| 0x32358c = B) :
    (State.takeNext ctx ix s).outside B = s.outside B := State.outside_mono hB (by
  unfold State.takeNext
  dsimp only
  repeat' split
  all_goals simp (disch := decide))
theorem execUnitEntryTaken_frame (ctx ix : Nat) (ecc : Ecc) (s : State) :
    Res.frames 0x32359c (execUnitEntryTaken ctx ix ecc s) (s.outside 0x32359c) := by
  unfold execUnitEntryTaken
  repeat' (first
    | with_reducible rfl | (intro _; intros) | (with_reducible refine next_frame _ _ ?_)
    | (with_reducible refine onlyIf_frame _ _ _ _ ?_ ?_) | split | simp (disch := decide))
theorem execEntryFree_frame (ix : Nat) (s : State) :
    Res.frames 0x200080 (execEntryFree ix s) (s.outside 0x200080) := by
  refine onlyIf_frame _ _ _ _ rfl (fun _ => ?_)
  repeat' split
  all_goals simp (disch := decide)
theorem execUnknownOpcode_frame (entry : BitVec 512) (ctx : List Nat) (s : State) :
    Res.frames 0x2000ac (execUnknownOpcode entry ctx s) (s.outside 0x2000ac) := fetchedMeaning_frame (by decide) _ _
    _ _ _ (fun _ _ => rfl)
theorem execRead_frame (entry : BitVec 512) (ctx : List Nat) (s : State) :
    Res.frames 0x2000ac (execRead entry ctx s) (s.outside 0x2000ac) := fetchedMeaning_frame (by decide) _ _ _ _ _
    (fun _ _ => rfl)
theorem execReadScan_frame (entry : BitVec 512) (ctx : List Nat) (s : State) :
    Res.frames 0x2000ac (execReadScan entry ctx s) (s.outside 0x2000ac) := fetchedMeaning_frame (by decide) _ _ _ _ _
    (fun _ _ => rfl)
theorem execReadSherd_frame (entry : BitVec 512) (ctx : List Nat) (s : State) :
    Res.frames 0x2000ac (execReadSherd entry ctx s) (s.outside 0x2000ac) := fetchedMeaning_frame (by decide) _ _ _ _
    _ (fun _ _ => rfl)
theorem execReadStream_frame (entry : BitVec 512) (ctx : List Nat) (s : State) :
    Res.frames 0x2000ac (execReadStream entry ctx s) (s.outside 0x2000ac) := fetchedMeaning_frame (by decide) _ _ _ _
    _ (fun _ _ => rfl)
theorem execProgram_frame (entry : BitVec 512) (ctx : List Nat) (s : State) :
    Res.frames 0x2000ac (execProgram entry ctx s) (s.outside 0x2000ac) := fetchedMeaning_frame (by decide) _ _ _ _ _
    (fun _ _ => rfl)
theorem execProgramSlc_frame (entry : BitVec 512) (ctx : List Nat) (s : State) :
    Res.frames 0x2000ac (execProgramSlc entry ctx s) (s.outside 0x2000ac) := fetchedMeaning_frame (by decide) _ _ _ _
    _ (fun _ _ => rfl)
theorem execFold_frame (entry : BitVec 512) (ctx : List Nat) (s : State) :
    Res.frames 0x2000ac (execFold entry ctx s) (s.outside 0x2000ac) := fetchedMeaning_frame (by decide) _ _ _ _ _
    (fun _ _ => rfl)
theorem execErase_frame (entry : BitVec 512) (ctx : List Nat) (s : State) :
    Res.frames 0x2000ac (execErase entry ctx s) (s.outside 0x2000ac) := fetchedMeaning_frame (by decide) _ _ _ _ _
    (fun _ _ => rfl)
theorem execRaw_frame (entry : BitVec 512) (ctx : List Nat) (s : State) :
    Res.frames 0x2000ac (execRaw entry ctx s) (s.outside 0x2000ac) := fetchedMeaning_frame (by decide) _ _ _ _ _ (fun
    _ _ => rfl)
theorem execNop_frame (entry : BitVec 512) (ctx : List Nat) (s : State) :
    Res.frames 0x2000ac (execNop entry ctx s) (s.outside 0x2000ac) := fetchedMeaning_frame (by decide) _ _ _ _ _ (fun
    _ _ => rfl)
theorem execRingFence_frame (entry : BitVec 512) (ctx : List Nat) (s : State) :
    Res.frames 0x2000ac (execRingFence entry ctx s) (s.outside 0x2000ac) := by
  unfold execRingFence
  repeat' (first
    | with_reducible rfl | (intro _; intros) | (with_reducible refine fetchedMeaning_frame (by decide) _ _ _ _ _ ?_)
    | split | simp (disch := decide))
@[simp] theorem State.cancelUnit_frame (ix : Nat) (s : State) {B : Nat} (hB : B ||| 0x323588 = B) :
    (State.cancelUnit ix s).outside B = s.outside B := State.outside_mono hB (by
  unfold State.cancelUnit
  repeat' split
  all_goals simp (disch := decide))
theorem State.cancelAll_frame (k : Nat) (s : State) {B : Nat} (hB : B ||| 0x323588 = B) :
    (s.cancelAll k).1.outside B = s.outside B := State.outside_mono hB (by
  unfold State.cancelAll
  split
  · rfl
  · rename_i c hc
    have key : ∀ (l : List (Nat × LUnit)) (a : State × Nat × Nat), (l.foldl (fun (a : State × Nat × Nat) e =>
        let s := a.1.onUnit e.1 (fun u => { u with contested := true })
        if unissued e.2 then (s.cancelUnit e.1, a.2.1 + 1, a.2.2) else (s, a.2.1, a.2.2 + 1)) a).1.outside 0x323588 =
          a.1.outside 0x323588 := by
      intro l
      induction l with
      | nil => intro a; rfl
      | cons e r ih =>
        intro a
        rw [List.foldl_cons, ih]
        simp only []
        split <;> simp (disch := decide)
    simp only []
    split
    · exact key _ _
    · simp (disch := decide) only [State.settle_frame, State.progAsk_frame, State.stopAfter_frame]; exact key _ _)
theorem execCancel_frame (entry : BitVec 512) (ctx : List Nat) (s : State) :
    Res.frames 0x3235ac (execCancel entry ctx s) (s.outside 0x3235ac) := by
  unfold execCancel
  repeat' (first
    | with_reducible rfl | (intro _; intros) | (with_reducible refine fetchedMeaning_frame (by decide) _ _ _ _ _ ?_)
    | with_reducible refine (State.cancelAll_frame _ _ (by decide)).trans ?_ | split | simp (disch := decide))
@[simp] theorem State.predBound_frame (ctx : Nat) (s : State) {B : Nat} (hB : B ||| 0x323588 = B) :
    (State.predBound ctx s).outside B = s.outside B := State.outside_mono hB (by
  unfold State.predBound
  repeat' (first
    | with_reducible rfl | (intro _; intros) | split | (with_reducible refine fold_frame _ _ _ _ ?_ ?_)
    | simp (disch := decide)))
@[simp] theorem State.stopTaking_frame (ctx : Nat) (s : State) {B : Nat} (hB : B ||| 0x84 = B) :
    (State.stopTaking ctx s).outside B = s.outside B := State.outside_mono hB (by
  unfold State.stopTaking
  dsimp only
  split <;> simp (disch := decide))
@[simp] theorem State.predRefused_frame (ctx : Nat) (status : Status) (s : State) {B : Nat} (hB :
    B ||| 0x323584 = B) : (State.predRefused ctx status s).outside B = s.outside B := State.outside_mono hB (by simp
    (disch := decide) [State.predRefused])
theorem execPredicateData_frame (ctx : Nat) (bits : BitVec 1024) (s : State) :
    Res.frames 0x32358c (execPredicateData ctx bits s) (s.outside 0x32358c) := by
  unfold execPredicateData
  repeat' (first
    | with_reducible rfl | (intro _; intros) | (with_reducible refine next_frame _ _ ?_)
    | (with_reducible refine onlyIf_frame _ _ _ _ ?_ ?_) | split | simp (disch := decide)
    | with_reducible exact (State.popRead_frame (by assumption) (by decide)).trans (by assumption))
theorem execPredicateFetchError_frame (ctx : Nat) (s : State) :
    Res.frames 0x32359c (execPredicateFetchError ctx s) (s.outside 0x32359c) := by
  unfold execPredicateFetchError
  repeat' (first
    | with_reducible rfl | (intro _; intros) | (with_reducible refine next_frame _ _ ?_)
    | (with_reducible refine onlyIf_frame _ _ _ _ ?_ ?_) | split | simp (disch := decide)
    | with_reducible exact (State.popRead_frame (by assumption) (by decide)).trans (by assumption))

/-! ## Dma -/

@[simp] theorem State.wrongShape_frame (ctx : Nat) (s : State) {B : Nat} (hB : B ||| 0x323584 = B) :
    (State.wrongShape ctx s).outside B = s.outside B := State.outside_mono hB (by simp (disch := decide)
    [State.wrongShape])
@[simp] theorem State.shapeDone_frame (ctx : Nat) (s : State) {B : Nat} (hB : B ||| 0x323588 = B) :
    (State.shapeDone ctx s).outside B = s.outside B := State.outside_mono hB (by
  unfold State.shapeDone
  repeat' (first
    | with_reducible rfl | (intro _; intros) | split | (with_reducible refine fold_frame _ _ _ _ ?_ ?_)
    | simp (disch := decide)))
@[simp] theorem State.walkSeg_frame (ctx : Nat) (g : Seg) (w : Walk) (s : State) {B : Nat} (hB :
    B ||| 0x32358c = B) : (State.walkSeg ctx g w s).outside B = s.outside B := State.outside_mono hB (by
  unfold State.walkSeg
  repeat' split
  all_goals simp (disch := decide))
@[simp] theorem State.legacyDone_frame (s : State) {B : Nat} (hB : B ||| 0x200000 = B) :
    (State.legacyDone s).outside B = s.outside B := State.outside_mono hB (by
  unfold State.legacyDone
  dsimp only
  split <;> simp (disch := decide))
@[simp] theorem State.legacyPump_frame (s : State) {B : Nat} (hB : B ||| 0x303588 = B) :
    (State.legacyPump s).outside B = s.outside B := State.outside_mono hB (by
  unfold State.legacyPump
  repeat' (first | rfl | split | simp (disch := decide)))
@[simp] theorem State.openStream_frame (ctx : Nat) (g : Seg) (d : BitVec 256) (s : State) {B : Nat} (hB :
    B ||| 0x200008 = B) : (State.openStream ctx g d s).outside B = s.outside B := State.outside_mono hB (by
  unfold State.openStream
  split <;> simp (disch := decide))
@[simp] theorem State.segIn_frame (id : ChainId) (addr : Nat) (d : BitVec 256) (s : State) {B : Nat} (hB :
    B ||| 0x32358c = B) : (State.segIn id addr d s).outside B = s.outside B := State.outside_mono hB (by
  unfold State.segIn
  repeat' (first | rfl | split | simp (disch := decide)))
theorem execSegmentDescriptorData_frame (chain : ChainId) (desc : BitVec 256) (s : State) :
    Res.frames 0x32358c (execSegmentDescriptorData chain desc s) (s.outside 0x32358c) := by
  unfold execSegmentDescriptorData
  repeat' (first
    | with_reducible rfl | (intro _; intros) | (with_reducible refine onlyIf_frame _ _ _ _ ?_ ?_)
    | with_reducible exact State.answerGone_frame _ (by decide) | split | simp (disch := decide)
    | with_reducible exact (State.popRead_frame (by assumption) (by decide)).trans (by assumption))
@[simp] theorem State.linkIn_frame (id : ChainId) (link : BitVec 64) (s : State) {B : Nat} (hB :
    B ||| 0x32358c = B) : (State.linkIn id link s).outside B = s.outside B := State.outside_mono hB (by
  unfold State.linkIn
  repeat' split
  all_goals simp (disch := decide))
theorem execAppendLinkData_frame (chain : ChainId) (link : BitVec 64) (s : State) :
    Res.frames 0x32358c (execAppendLinkData chain link s) (s.outside 0x32358c) := by
  unfold execAppendLinkData
  repeat' (first
    | with_reducible rfl | (intro _; intros) | (with_reducible refine onlyIf_frame _ _ _ _ ?_ ?_)
    | with_reducible exact State.answerGone_frame _ (by decide) | split | simp (disch := decide)
    | with_reducible exact (State.popRead_frame (by assumption) (by decide)).trans (by assumption))
@[simp] theorem State.peckFilled_frame (ix key : Nat) (c : Cmd) (s : State) {B : Nat} (hB : B ||| 0x100 = B) :
    (State.peckFilled ix key c s).outside B = s.outside B := State.outside_mono hB (by
  unfold State.peckFilled
  split <;> rfl)
@[simp] theorem State.storePart_frame (ix : Nat) (c : Cmd) (s : State) (q : Nat × Nat × List Byte) {B : Nat} (hB :
    B ||| 0x180 = B) : (State.storePart ix c s q).outside B = s.outside B := State.outside_mono hB (by
  unfold State.storePart
  repeat' (first | split | simp (disch := decide)))
@[simp] theorem State.storeSource_frame (ix : Nat) (c : Cmd) (off : Nat) (bs : List Byte) (s : State) {B : Nat} (hB :
    B ||| 0x180 = B) : (State.storeSource ix c off bs s).outside B = s.outside B := State.outside_mono hB
    (foldl_frame _ _ (fun _ _ => by simp (disch := decide)) _)
@[simp] theorem State.sourceDone_frame (ix : Nat) (s : State) {B : Nat} (hB : B ||| 0x20080 = B) :
    (State.sourceDone ix s).outside B = s.outside B := State.outside_mono hB (by
  unfold State.sourceDone
  repeat' (first | split | simp (disch := decide)))
@[simp] theorem State.sourceIn_frame (id : ChainId) (ix off len skip : Nat) (data : List Byte) (s : State) {B :
    Nat} (hB : B ||| 0x323588 = B) : (State.sourceIn id ix off len skip data s).outside B = s.outside B :=
    State.outside_mono hB (by
  unfold State.sourceIn
  try dsimp only [State.drawFree]
  repeat' (first
    | (intro _; intros) | split | (with_reducible refine fold_frame _ _ _ _ ?_ ?_) | simp (disch := decide)))
theorem State.sourceReturn_frame {id : ChainId} {n : Nat} {d : List Byte} {s t : State} {i : Nat} (h :
    s.sourceReturn id n d = some (i, t)) {B : Nat}
    (hB : B ||| 0x323588 = B) : t.outside B = s.outside B := State.outside_mono hB (by
  unfold State.sourceReturn at h
  obtain ⟨⟨r, u⟩, h1, h⟩ := Option.bind_eq_some_iff.mp h
  dsimp only at h
  split at h
  · simp only [Option.some.injEq, Prod.mk.injEq] at h
    obtain ⟨-, rfl⟩ := h
    refine Eq.trans ?_ (State.popTag_frame h1 (by decide))
    split <;> simp (disch := decide)
  · cases h)
theorem execProgramPageLink_frame (ix : Nat) (s : State) :
    Res.frames 0x323588 (execProgramPageLink ix s) (s.outside 0x323588) := by
  unfold execProgramPageLink
  repeat' (first
    | with_reducible rfl | (intro _; intros) | (with_reducible refine next_frame _ _ ?_)
    | (with_reducible refine onlyIf_frame _ _ _ _ ?_ ?_) | split | simp (disch := decide))
@[simp] theorem State.recordLess_frame (ix off n : Nat) (s : State) {B : Nat} (hB : B ||| 0x180 = B) :
    (State.recordLess ix off n s).outside B = s.outside B := State.outside_mono hB (by
  unfold State.recordLess
  repeat' (first
    | with_reducible rfl | (intro _; intros) | split | (with_reducible refine fold_frame _ _ _ _ ?_ ?_)
    | simp (disch := decide)))
theorem execDataWriteAck_frame (id : Nat) (s : State) :
    Res.frames 0x303588 (execDataWriteAck id s) (s.outside 0x303588) := by
  unfold execDataWriteAck
  repeat' (first
    | with_reducible rfl | (intro _; intros) | (with_reducible refine next_frame _ _ ?_)
    | (with_reducible refine onlyIf_frame _ _ _ _ ?_ ?_) | split | simp (disch := decide)
    | with_reducible exact State.popWrite_frame (by assumption) (by decide))
@[simp] theorem State.statusAcked_frame (id : ChainId) (addr : Nat) (s : State) {B : Nat} (hB : B ||| 0x200008 = B) :
    (State.statusAcked id addr s).outside B = s.outside B := State.outside_mono hB (by
  unfold State.statusAcked
  repeat' split
  all_goals simp (disch := decide))
theorem execSegmentWriteBackAck_frame (id : Nat) (s : State) :
    Res.frames 0x200008 (execSegmentWriteBackAck id s) (s.outside 0x200008) := by
  unfold execSegmentWriteBackAck
  repeat' (first
    | with_reducible rfl | (intro _; intros) | (with_reducible refine next_frame _ _ ?_)
    | (with_reducible refine onlyIf_frame _ _ _ _ ?_ ?_) | split | simp (disch := decide)
    | with_reducible exact State.popWrite_frame (by assumption) (by decide))
theorem State.failing_frame {id : ChainId} {w : Bool} {n : Nat} {s t : State} {f : Failed} (h :
    s.failing id w n = some (f, t)) {B : Nat}
    (hB : B ||| 0x8 = B) : t.outside B = s.outside B := State.outside_mono hB (by
  unfold State.failing at h
  split at h
  · split at h
    · rename_i h2
      split at h
      · cases h; exact State.popWrite_frame h2 (by decide)
      · cases h
    · cases h
  · simp only [Option.map_eq_some_iff, Prod.mk.injEq] at h
    obtain ⟨⟨r, u⟩, h1, -, rfl⟩ := h
    exact State.popTag_frame h1 (by decide))
theorem execChainBusError_frame (chain : ChainId) (write : Bool) (tag : Nat) (s : State) :
    Res.frames 0x200018 (execChainBusError chain write tag s) (s.outside 0x200018) := by
  unfold execChainBusError
  repeat' (first
    | with_reducible rfl | (intro _; intros) | (with_reducible refine next_frame _ _ ?_)
    | (with_reducible refine onlyIf_frame _ _ _ _ ?_ ?_) | split | simp (disch := decide)
    | with_reducible exact State.failing_frame (by assumption) (by decide))
@[simp] theorem State.chainAbort_frame (s : State) {B : Nat} (hB : B ||| 0x323588 = B) :
    (State.chainAbort s).outside B = s.outside B := State.outside_mono hB (by
  unfold State.chainAbort
  repeat' (first
    | with_reducible rfl | (intro _; intros) | split | (with_reducible refine fold_frame _ _ _ _ ?_ ?_)
    | simp (disch := decide)))
theorem execChainAbort_frame (s : State) : Res.frames 0x32358a (execChainAbort s) (s.outside 0x32358a) := by
  unfold execChainAbort
  repeat' (first
    | with_reducible assumption | with_reducible rfl | (intro _; intros)
    | (with_reducible refine hcpAccess_frame (by decide) _ _ _ ?_ ?_) | split | simp (disch := decide))
@[simp] theorem State.chainDisable_frame (s : State) {B : Nat} (hB : B ||| 0xa00008 = B) :
    (State.chainDisable s).outside B = s.outside B := State.outside_mono hB (by simp (disch := decide)
    [State.chainDisable])
theorem execChainDisable_frame (s : State) : Res.frames 0xa0000a (execChainDisable s) (s.outside 0xa0000a) := by
  unfold execChainDisable
  repeat' (first
    | with_reducible assumption | with_reducible rfl | (intro _; intros)
    | (with_reducible refine hcpAccess_frame (by decide) _ _ _ ?_ ?_) | split | simp (disch := decide))
@[simp] theorem State.legacyGone_frame (s : State) {B : Nat} (hB : B ||| 0x8 = B) :
    (State.legacyGone s).outside B = s.outside B := State.outside_mono hB rfl
@[simp] theorem State.writeLegStart_frame (data : Word) (s : State) {B : Nat} (hB : B ||| 0x303588 = B) :
    (State.writeLegStart data s).outside B = s.outside B := State.outside_mono hB (by
  unfold State.writeLegStart
  repeat' (first
    | (intro _; intros) | split | (with_reducible refine fold_frame _ _ _ _ ?_ ?_) | simp (disch := decide)))
theorem execLegacyStart_frame (data : Word) (s : State) :
    Res.frames 0x3035aa (execLegacyStart data s) (s.outside 0x3035aa) := by
  unfold execLegacyStart
  repeat' (first
    | with_reducible assumption | with_reducible rfl | (intro _; intros)
    | (with_reducible refine hcpAction_frame (by decide) _ _ _ _ ?_ ?_) | split | simp (disch := decide))
theorem execLegacyResume_frame (data : Word) (s : State) :
    Res.frames 0x3035aa (execLegacyResume data s) (s.outside 0x3035aa) := by
  unfold execLegacyResume
  repeat' (first
    | with_reducible assumption | with_reducible rfl | (intro _; intros)
    | (with_reducible refine hcpAction_frame (by decide) _ _ _ _ ?_ ?_) | split | simp (disch := decide))
theorem execLegacyAbort_frame (data : Word) (s : State) :
    Res.frames 0x3035aa (execLegacyAbort data s) (s.outside 0x3035aa) := by
  unfold execLegacyAbort
  repeat' (first
    | with_reducible assumption | with_reducible rfl | (intro _; intros)
    | (with_reducible refine hcpAction_frame (by decide) _ _ _ _ ?_ ?_) | split | simp (disch := decide))
@[simp] theorem State.legacyHalt_frame (f : Failed) (s : State) {B : Nat} (hB : B ||| 0x200010 = B) :
    (State.legacyHalt f s).outside B = s.outside B := State.outside_mono hB rfl
theorem execLegacyBusError_frame (write : Bool) (tag : Nat) (s : State) :
    Res.frames 0x200018 (execLegacyBusError write tag s) (s.outside 0x200018) := by
  unfold execLegacyBusError
  repeat' (first
    | with_reducible rfl | (intro _; intros) | (with_reducible refine next_frame _ _ ?_)
    | (with_reducible refine onlyIf_frame _ _ _ _ ?_ ?_) | split | simp (disch := decide)
    | with_reducible exact State.popTag_frame (by assumption) (by decide)
    | with_reducible exact State.popWrite_frame (by assumption) (by decide))
@[simp] theorem State.admitPage_frame (ctx ix : Nat) (s : State) {B : Nat} (hB : B ||| 0x323588 = B) :
    (State.admitPage ctx ix s).outside B = s.outside B := State.outside_mono hB (by
  unfold State.admitPage
  repeat' (first | rfl | split | simp (disch := decide)))
theorem execStreamPageAdmit_frame (ctx ix : Nat) (s : State) :
    Res.frames 0x323588 (execStreamPageAdmit ctx ix s) (s.outside 0x323588) := by
  unfold execStreamPageAdmit
  repeat' (first
    | with_reducible rfl | (intro _; intros) | (with_reducible refine next_frame _ _ ?_)
    | (with_reducible refine onlyIf_frame _ _ _ _ ?_ ?_) | split | simp (disch := decide))
@[simp] theorem State.consIn_frame (ctx : Nat) (cons high low : BitVec 64) (s : State) {B : Nat} (hB :
    B ||| 0x303598 = B) : (State.consIn ctx cons high low s).outside B = s.outside B := State.outside_mono hB (by
  unfold State.consIn
  repeat' (first | rfl | split | simp (disch := decide)))
theorem execConsReadData_frame (ctx : Nat) (cons high low : BitVec 64) (s : State) :
    Res.frames 0x303598 (execConsReadData ctx cons high low s) (s.outside 0x303598) := by
  unfold execConsReadData
  repeat' (first
    | with_reducible rfl | (intro _; intros) | (with_reducible refine next_frame _ _ ?_)
    | (with_reducible refine onlyIf_frame _ _ _ _ ?_ ?_) | split | simp (disch := decide)
    | with_reducible exact (State.popRead_frame (by assumption) (by decide)).trans (by assumption))
theorem execHdpResponseDiscard_frame (s : State) :
    Res.frames 0x8 (execHdpResponseDiscard s) (s.outside 0x8) := onlyIf_frame _ _ _ _ rfl (fun _ => rfl)
theorem execHdpReissue_frame (s : State) :
    Res.frames 0x8 (execHdpReissue s) (s.outside 0x8) := onlyIf_frame _ _ _ _ rfl (fun _ => by simp (disch := decide))

/-! ## Replay -/

@[simp] theorem State.dropDecodes_frame (ix : Nat) (s : State) {B : Nat} (hB : B ||| 0x200 = B) :
    (State.dropDecodes ix s).outside B = s.outside B := State.outside_mono hB rfl
@[simp] theorem State.cacheTurns_frame (l : Nat) (s : State) {B : Nat} (hB : B ||| 0x1000 = B) :
    (State.cacheTurns l s).outside B = s.outside B := State.outside_mono hB rfl
@[simp] theorem State.offDie_frame (ix : Nat) (s : State) {B : Nat} (hB : B ||| 0x101080 = B) :
    (State.offDie ix s).outside B = s.outside B := State.outside_mono hB (by
  unfold State.offDie
  split <;> simp (disch := decide))
@[simp] theorem State.unaccount_frame (ix : Nat) (s : State) {B : Nat} (hB : B ||| 0x200000 = B) :
    (State.unaccount ix s).outside B = s.outside B := State.outside_mono hB (by
  unfold State.unaccount
  repeat' split
  all_goals rfl)
@[simp] theorem State.markReplayed_frame (ix : Nat) (s : State) {B : Nat} (hB : B ||| 0x80 = B) :
    (State.markReplayed ix s).outside B = s.outside B := State.outside_mono hB rfl
@[simp] theorem State.requeueRead_frame (ix : Nat) (s : State) {B : Nat} (hB : B ||| 0x303380 = B) :
    (State.requeueRead ix s).outside B = s.outside B := State.outside_mono hB (by simp (disch := decide)
    [State.requeueRead])
@[simp] theorem State.askReset_frame (l : Nat) (s : State) {B : Nat} (hB : B ||| 0x1000 = B) :
    (State.askReset l s).outside B = s.outside B := State.outside_mono hB rfl
@[simp] theorem State.requeueWrite_frame (ix : Nat) (reset : Bool) (s : State) {B : Nat} (hB : B ||| 0x101080 = B) :
    (State.requeueWrite ix reset s).outside B = s.outside B := State.outside_mono hB (by
  unfold State.requeueWrite
  repeat' split
  all_goals simp (disch := decide))
@[simp] theorem State.joinOp_frame (l ix : Nat) (u : LUnit) (s : State) {B : Nat} (hB : B ||| 0x1000 = B) :
    (State.joinOp l ix u s).outside B = s.outside B := State.outside_mono hB rfl
@[simp] theorem State.pollAgain_frame (ix : Nat) (s : State) {B : Nat} (hB : B ||| 0x1080 = B) :
    (State.pollAgain ix s).outside B = s.outside B := State.outside_mono hB (by
  unfold State.pollAgain
  split <;> rfl)
@[simp] theorem State.fromSources_frame (ix : Nat) (s : State) {B : Nat} (hB : B ||| 0x303380 = B) :
    (State.fromSources ix s).outside B = s.outside B := State.outside_mono hB (by simp (disch := decide)
    [State.fromSources])
@[simp] theorem State.unknownEnd_frame (ix : Nat) (status : Status) (s : State) {B : Nat} (hB : B ||| 0x323588 = B) :
    (State.unknownEnd ix status s).outside B = s.outside B := State.outside_mono hB (by simp (disch := decide)
    [State.unknownEnd])
@[simp] theorem State.replayUnit_frame (ix : Nat) (s : State) {B : Nat} (hB : B ||| 0x323788 = B) :
    (State.replayUnit ix s).outside B = s.outside B := State.outside_mono hB (by
  unfold State.replayUnit
  repeat' split
  all_goals simp (disch := decide))
@[simp] theorem State.dropGrant_frame (ch : Nat) (s : State) {B : Nat} (hB : B ||| 0x2000 = B) :
    (State.dropGrant ch s).outside B = s.outside B := State.outside_mono hB rfl
@[simp] theorem State.losePackets_frame (ixs : List Nat) (s : State) {B : Nat} (hB : B ||| 0x323788 = B) :
    (State.losePackets ixs s).outside B = s.outside B := State.outside_mono hB (by
  unfold State.losePackets
  repeat' (first
    | with_reducible rfl | (intro _; intros) | split | (with_reducible refine fold_frame _ _ _ _ ?_ ?_)
    | simp (disch := decide)))
@[simp] theorem State.packetLands_frame (u : LUnit) (e : Expect) (flags : Byte) (len : Nat) (data : List Byte) (s :
    State) {B : Nat} (hB : B ||| 0x100 = B) : (State.packetLands u e flags len data s).outside B = s.outside B :=
    State.outside_mono hB (by
  unfold State.packetLands
  split <;> rfl)
@[simp] theorem State.cutPacket_frame (ch : Nat) (s : State) {B : Nat} (hB : B ||| 0x800100 = B) :
    (State.cutPacket ch s).outside B = s.outside B := State.outside_mono hB (by
  unfold State.cutPacket
  dsimp only
  repeat' split
  all_goals simp (disch := decide))
@[simp] theorem State.beginRelearn_frame (ctx : Nat) (fetching : Bool) (s : State) {B : Nat} (hB :
    B ||| 0x32358c = B) : (State.beginRelearn ctx fetching s).outside B = s.outside B := State.outside_mono hB (by
  unfold State.beginRelearn
  repeat' (first | rfl | split | simp (disch := decide)))
@[simp] theorem State.trainingEnded_frame (ok : Bool) (s : State) (ctx : Nat) {B : Nat} (hB : B ||| 0x32358c = B) :
    (State.trainingEnded ok s ctx).outside B = s.outside B := State.outside_mono hB (by
  unfold State.trainingEnded
  repeat' split
  all_goals simp (disch := decide))
@[simp] theorem State.leaveMask_frame (ch : Nat) (s : State) {B : Nat} (hB : B ||| 0x20000 = B) :
    (State.leaveMask ch s).outside B = s.outside B := State.outside_mono hB (by
  unfold State.leaveMask
  repeat' (first | rfl | split | simp (disch := decide)))
@[simp] theorem State.fenceTraining_frame (ch : Nat) (s : State) {B : Nat} (hB : B ||| 0x32b58c = B) :
    (State.fenceTraining ch s).outside B = s.outside B := State.outside_mono hB (by
  unfold State.fenceTraining
  repeat' (first
    | (intro _; intros) | split | (with_reducible refine fold_frame _ _ _ _ ?_ ?_) | simp (disch := decide)))
@[simp] theorem State.fence_frame (ch : Nat) (s : State) {B : Nat} (hB : B ||| 0xb2f79c = B) :
    (State.fence ch s).outside B = s.outside B := State.outside_mono hB (by
  unfold State.fence
  repeat' (first
    | with_reducible rfl | (intro _; intros) | split | (with_reducible refine fold_frame _ _ _ _ ?_ ?_)
    | simp (disch := decide)))
@[simp] theorem State.mismatch_frame (ch : Nat) (m : Mismatch) (lost : List Nat) (s : State) {B : Nat} (hB :
    B ||| 0xb2f79c = B) : (State.mismatch ch m lost s).outside B = s.outside B := State.outside_mono hB (by
  unfold State.mismatch
  repeat' (first | split | simp (disch := decide)))

/-! ## Arbiter -/

theorem State.arbitrate_frame (ch n : Nat) (s : State) {B : Nat} (hB : B ||| 0x323588 = B) :
    (State.arbitrate ch n s).1.outside B = s.outside B := State.outside_mono hB (by
  induction n generalizing s with
  | zero => rfl
  | succ n ih =>
    have key : ∀ (l : List (Nat × Status)) (t : State),
        (l.foldl (fun (s : State) (q : Nat × Status) => s.endUnder q.1 q.2 0) t).outside 0x323588 =
          t.outside 0x323588 :=
      fun l t => foldl_frame _ _ (fun a q => by simp (disch := decide)) t
    unfold State.arbitrate
    split
    · rfl
    · extract_lets l group bad s'
      split
      · rfl
      · split
        · split
          · exact key _ _
          · exact (ih _).trans (key _ _)
        · exact key _ _)
@[simp] theorem State.countPasses_frame (ch won : Nat) (as : List (Nat × Ask)) (s : State) {B : Nat} (hB :
    B ||| 0x2080 = B) : (State.countPasses ch won as s).outside B = s.outside B := State.outside_mono hB (foldl_frame
    _ _ (fun _ _ => by split <;> simp (disch := decide)) _)

/-! ## Spm -/

@[simp] theorem State.askLine_frame (l : Nat) (pre : Bool) (s : State) {B : Nat} (hB : B ||| 0x80000 = B) :
    (State.askLine l pre s).outside B = s.outside B := State.outside_mono hB rfl
@[simp] theorem State.xipServe_frame (s : State) {B : Nat} (hB : B ||| 0x80002 = B) :
    (State.xipServe s).outside B = s.outside B := State.outside_mono hB (by
  unfold State.xipServe
  dsimp only
  repeat' split
  all_goals simp (disch := decide))
@[simp] theorem State.prefetch_frame (s : State) {B : Nat} (hB : B ||| 0x80000 = B) :
    (State.prefetch s).outside B = s.outside B := State.outside_mono hB (by
  unfold State.prefetch
  repeat' split
  all_goals rfl)
@[simp] theorem State.onOp_frame (f : SpmOp → SpmOp) (s : State) {B : Nat} (hB : B ||| 0x80000 = B) :
    (State.onOp f s).outside B = s.outside B := State.outside_mono hB rfl
@[simp] theorem State.onDevice_frame (f : SpmOp → SpmOp) (s : State) {B : Nat} (hB : B ||| 0x80000 = B) :
    (State.onDevice f s).outside B = s.outside B := State.outside_mono hB rfl
@[simp] theorem State.devStart_frame (t : SerialTx) (s : State) {B : Nat} (hB : B ||| 0x80000 = B) :
    (State.devStart t s).outside B = s.outside B := State.outside_mono hB rfl
@[simp] theorem State.eraseGo_frame (s : State) {B : Nat} (hB : B ||| 0x80000 = B) :
    (State.eraseGo s).outside B = s.outside B := State.outside_mono hB (by
  unfold State.eraseGo
  repeat' split
  all_goals rfl)
@[simp] theorem State.spmGo_frame (s : State) {B : Nat} (hB : B ||| 0x180008 = B) :
    (State.spmGo s).outside B = s.outside B := State.outside_mono hB (by
  unfold State.spmGo
  repeat' (first | split | simp (disch := decide)))
@[simp] theorem State.syncCheck_frame (s : State) {B : Nat} (hB : B ||| 0x323588 = B) :
    (State.syncCheck s).outside B = s.outside B := State.outside_mono hB (foldl_frame _ _ (fun _ _ => by split <;>
    simp (disch := decide)) _)
@[simp] theorem State.consolidate_frame (ctx : Nat) (s : State) {B : Nat} (hB : B ||| 0x3a3588 = B) :
    (State.consolidate ctx s).outside B = s.outside B := State.outside_mono hB (by
  unfold State.consolidate
  dsimp only
  split <;> simp (disch := decide))
@[simp] theorem State.spmNext_frame (s : State) {B : Nat} (hB : B ||| 0x3a3588 = B) :
    (State.spmNext s).outside B = s.outside B := State.outside_mono hB (by
  unfold State.spmNext
  repeat' (first
    | with_reducible rfl | (intro _; intros) | split | (with_reducible refine fold_frame _ _ _ _ ?_ ?_)
    | simp (disch := decide)))
@[simp] theorem State.consolidated_frame (o : SpmOp) (s : State) {B : Nat} (hB : B ||| 0x3a3588 = B) :
    (State.consolidated o s).outside B = s.outside B := State.outside_mono hB (by simp (disch := decide)
    [State.consolidated])
@[simp] theorem State.clearRegion_frame (o : SpmOp) (s : State) {B : Nat} (hB : B ||| 0x3a3588 = B) :
    (State.clearRegion o s).outside B = s.outside B := State.outside_mono hB (by
  unfold State.clearRegion
  repeat' (first
    | (intro _; intros) | split | (with_reducible refine fold_frame _ _ _ _ ?_ ?_) | simp (disch := decide)))
@[simp] theorem State.spmAdvance_frame (s : State) {B : Nat} (hB : B ||| 0x3a3588 = B) :
    (State.spmAdvance s).outside B = s.outside B := State.outside_mono hB (by
  unfold State.spmAdvance
  repeat' split
  all_goals simp (disch := decide))
@[simp] theorem State.devDone_frame (s : State) {B : Nat} (hB : B ||| 0x3a3588 = B) :
    (State.devDone s).outside B = s.outside B := State.outside_mono hB (by
  unfold State.devDone
  repeat' split
  all_goals simp (disch := decide))
theorem execNvsSync_frame (entry : BitVec 512) (ctx : List Nat) (s : State) :
    Res.frames 0x3a35ac (execNvsSync entry ctx s) (s.outside 0x3a35ac) := by
  unfold execNvsSync
  repeat' (first
    | (intro _; intros) | (with_reducible refine fetchedMeaning_frame (by decide) _ _ _ _ _ ?_) | split
    | simp (disch := decide))
@[simp] theorem State.spmEnd_frame (r : Nat) (s : State) {B : Nat} (hB : B ||| 0x3a3598 = B) :
    (State.spmEnd r s).outside B = s.outside B := State.outside_mono hB (by simp (disch := decide) [State.spmEnd])
@[simp] theorem State.spmWrite_frame (data : Word) (o : Spm → SpmOp) (s : State) {B : Nat} (hB :
    B ||| 0x180018 = B) : (State.spmWrite data o s).outside B = s.outside B := State.outside_mono hB (by
  unfold State.spmWrite
  repeat' (first | split | simp (disch := decide)))
theorem spmCmd_frame (action : Nat) (data : Word) (o : Spm → SpmOp) (s : State) :
    Res.frames 0x18003a (spmCmd action data o s) (s.outside 0x18003a) := by
  unfold spmCmd
  refine hcpAction_frame (by decide) _ _ _ _ rfl (fun t ht => ?_)
  split
  · simp (disch := decide) [ht]
  · exact ht
theorem execSpmBufferData_frame (data : List Byte) (error : Bool) (s : State) :
    Res.frames 0x3a3598 (execSpmBufferData data error s) (s.outside 0x3a3598) := by
  unfold execSpmBufferData
  repeat' (first
    | with_reducible rfl | (intro _; intros) | (with_reducible refine next_frame _ _ ?_)
    | (with_reducible refine onlyIf_frame _ _ _ _ ?_ ?_) | split | simp (disch := decide)
    | with_reducible exact (State.popRead_frame (by assumption) (by decide)).trans (by assumption))
@[simp] theorem State.consolidationFails_frame (o : SpmOp) (s : State) {B : Nat} (hB : B ||| 0x3a3588 = B) :
    (State.consolidationFails o s).outside B = s.outside B := State.outside_mono hB (by simp (disch := decide)
    [State.consolidationFails])
@[simp] theorem State.deviceSuspended_frame (s : State) {B : Nat} (hB : B ||| 0x80000 = B) :
    (State.deviceSuspended s).outside B = s.outside B := State.outside_mono hB rfl
theorem execSerialStatusPoll_frame (busy suspended : Bool) (s : State) :
    Res.frames 0x3a358a (execSerialStatusPoll busy suspended s) (s.outside 0x3a358a) := by
  refine onlyIf_frame _ _ _ _ rfl (fun _ => ?_)
  repeat' split
  all_goals simp (disch := decide)
theorem execSpmOpEnd_frame (deviceOk : Bool) (s : State) :
    Res.frames 0x3a3598 (execSpmOpEnd deviceOk s) (s.outside 0x3a3598) := by
  unfold execSpmOpEnd
  repeat' (first
    | with_reducible assumption | with_reducible rfl | (intro _; intros) | (with_reducible refine next_frame _ _ ?_)
    | (with_reducible refine onlyIf_frame _ _ _ _ ?_ ?_) | split | simp (disch := decide))
theorem execSpmSuspend_frame (s : State) : Res.frames 0x80000 (execSpmSuspend s) (s.outside 0x80000) := by
  unfold execSpmSuspend
  repeat' (first
    | with_reducible rfl | (intro _; intros) | (with_reducible refine next_frame _ _ ?_)
    | (with_reducible refine onlyIf_frame _ _ _ _ ?_ ?_) | split | simp (disch := decide))
theorem execSpmResume_frame (s : State) : Res.frames 0x80000 (execSpmResume s) (s.outside 0x80000) := by
  unfold execSpmResume
  repeat' (first
    | with_reducible rfl | (intro _; intros) | (with_reducible refine next_frame _ _ ?_)
    | (with_reducible refine onlyIf_frame _ _ _ _ ?_ ?_) | split | simp (disch := decide))
@[simp] theorem State.xipRead_frame (off : BitVec 16) (s : State) {B : Nat} (hB : B ||| 0x80002 = B) :
    (State.xipRead off s).outside B = s.outside B := State.outside_mono hB (by simp (disch := decide) [State.xipRead])
theorem execXipLineArrival_frame (line : List Byte) (s : State) :
    Res.frames 0x18000a (execXipLineArrival line s) (s.outside 0x18000a) := by
  unfold execXipLineArrival
  repeat' (first
    | with_reducible rfl | (intro _; intros) | (with_reducible refine next_frame _ _ ?_)
    | (with_reducible refine onlyIf_frame _ _ _ _ ?_ ?_) | split | simp (disch := decide))

/-! ## Engine -/

@[simp] theorem State.onGrant_frame (l : Nat) (f : Grant → Grant) (s : State) {B : Nat} (hB : B ||| 0x2000 = B) :
    (State.onGrant l f s).outside B = s.outside B := State.outside_mono hB rfl
@[simp] theorem State.noteSetup_frame (ch ce : Nat) (acts : List PinAct) (s : State) {B : Nat} (hB :
    B ||| 0x2000 = B) : (State.noteSetup ch ce acts s).outside B = s.outside B := State.outside_mono hB rfl
@[simp] theorem State.restoreSdr_frame (l : Nat) (s : State) {B : Nat} (hB : B ||| 0x3000 = B) :
    (State.restoreSdr l s).outside B = s.outside B := State.outside_mono hB (by
  unfold State.restoreSdr
  dsimp only
  split <;> simp (disch := decide))
@[simp] theorem State.dieReset_frame (l : Nat) (b : Byte) (s : State) {B : Nat} (hB : B ||| 0x1080 = B) :
    (State.dieReset l b s).outside B = s.outside B := State.outside_mono hB (by
  unfold State.dieReset
  repeat' (first
    | with_reducible rfl | (intro _; intros) | split | (with_reducible refine fold_frame _ _ _ _ ?_ ?_)
    | simp (disch := decide)))
@[simp] theorem State.closeGrant_frame (l : Nat) (s : State) {B : Nat} (hB : B ||| 0x3000 = B) :
    (State.closeGrant l s).outside B = s.outside B := State.outside_mono hB (by
  unfold State.closeGrant
  repeat' (first | rfl | split | simp (disch := decide)))
@[simp] theorem State.schedFault_frame (l n : Nat) (broken : Bool) (s : State) {B : Nat} (hB : B ||| 0xb3f79c = B) :
    (State.schedFault l n broken s).outside B = s.outside B := State.outside_mono hB (by simp (disch := decide)
    [State.schedFault])
@[simp] theorem State.stepError_frame (l n : Nat) (s : State) {B : Nat} (hB : B ||| 0xb3f79c = B) :
    (State.stepError l n s).outside B = s.outside B := State.outside_mono hB (by
  unfold State.stepError
  repeat' (first | split | simp (disch := decide)))
@[simp] theorem State.takeRun_frame (l : Nat) (g : Grant) (x : Run) (s : State) {B : Nat} (hB : B ||| 0xb3f79c = B) :
    (State.takeRun l g x s).outside B = s.outside B := State.outside_mono hB (by
  unfold State.takeRun
  repeat' (first
    | with_reducible rfl | (intro _; intros) | split | (with_reducible refine fold_frame _ _ _ _ ?_ ?_)
    | simp (disch := decide) only [stepError_frame, rawRefill_frame, onPool_frame, onGrant_frame, onLun_frame,
                                   onFreeCtr_frame, dieReset_frame, onUnit_frame, onPeck_frame]))
theorem State.runGrant_frame {l : Nat} {s t : State} (h : s.runGrant l = some t) {B : Nat}
    (hB : B ||| 0xb3f79c = B) : t.outside B = s.outside B := State.outside_mono hB (by
  unfold State.runGrant at h
  split at h
  · simp only [Option.map_eq_some_iff] at h
    obtain ⟨x, -, rfl⟩ := h
    simp (disch := decide)
  · cases h; rfl)
@[simp] theorem State.issue_frame (l : Nat) (a : Ask) (members : List Nat) (cache : Option Nat) (s : State) {B :
    Nat} (hB : B ||| 0x3080 = B) : (State.issue l a members cache s).outside B = s.outside B := State.outside_mono hB
    (by
  unfold State.issue
  repeat' (first
    | with_reducible rfl | (intro _; intros) | split | (with_reducible refine fold_frame _ _ _ _ ?_ ?_)
    | simp (disch := decide) only [onLun_frame, onChan_frame, onUnit_frame]))
@[simp] theorem State.clearAsk_frame (l : Nat) (d : DieType) (a : Ask) (s : State) {B : Nat} (hB :
    B ||| 0x1080 = B) : (State.clearAsk l d a s).outside B = s.outside B := State.outside_mono hB (by
  unfold State.clearAsk
  repeat' (first
    | (intro _; intros) | split | (with_reducible refine fold_frame _ _ _ _ ?_ ?_) | simp (disch := decide)))
@[simp] theorem State.grantMismatch_frame (ch : Nat) (g : Grant) (s : State) {B : Nat} (hB : B ||| 0xb2f79c = B) :
    (State.grantMismatch ch g s).outside B = s.outside B := State.outside_mono hB (by
  unfold State.grantMismatch
  repeat' (first
    | with_reducible rfl | (intro _; intros) | split | (with_reducible refine fold_frame _ _ _ _ ?_ ?_)
    | simp (disch := decide)))
theorem State.grant_frame {ch l : Nat} {d : DieType} {a : Ask} {m : List Nat} {io : GrantIo} {s t : State} (h :
    State.grant ch l d a m io s = some t) {B : Nat}
    (hB : B ||| 0xb3f79c = B) : t.outside B = s.outside B := State.outside_mono hB (by
  unfold State.grant at h
  dsimp only at h
  refine (State.runGrant_frame h (by decide)).trans ?_
  simp (disch := decide) only [State.headEvent_frame, State.grantMismatch_frame, State.onLun_frame, State.issue_frame,
    State.clearAsk_frame, State.onChan_frame, State.onSched_frame, State.countPasses_frame])
theorem execArbiterDecision_frame (ch : Nat) (io : GrantIo) (s : State) :
    Res.frames 0xb3f79c (execArbiterDecision ch io s) (s.outside 0xb3f79c) := by
  have k := (State.arbitrate_frame ch ((s.ecc io.ecc).ldg.units.length + 1) (s.ecc io.ecc) (B := 0xb3f79c) (by decide)).trans
    (State.ecc_frame _ _ (by decide))
  unfold execArbiterDecision
  split
  · extract_lets s1
    split
    · exact next_frame _ _ (State.ecc_frame _ _ (by decide))
    · split
      rename_i t won h
      rw [h] at k
      split
      · exact next_frame _ _ k
      · split
        · exact runRes_frame _ _ (fun _ h => (State.grant_frame h (by decide)).trans k)
        · exact next_frame _ _ k
  · exact next_frame _ _ rfl
@[simp] theorem State.started_frame (l : Nat) (d : DieType) (cached : Bool) (s : State) (ix : Nat) {B : Nat} (hB :
    B ||| 0x1180 = B) : (State.started l d cached s ix).outside B = s.outside B := State.outside_mono hB (by
  unfold State.started
  repeat' split
  all_goals simp (disch := decide))
@[simp] theorem State.dropStale_frame (l : Nat) (s : State) {B : Nat} (hB : B ||| 0x2080 = B) :
    (State.dropStale l s).outside B = s.outside B := State.outside_mono hB (by
  unfold State.dropStale
  repeat' (first
    | with_reducible rfl | (intro _; intros) | split | (with_reducible refine fold_frame _ _ _ _ ?_ ?_)
    | simp (disch := decide)))
theorem execArrayStartPinEnd_frame (ch : Nat) (status : List (BitVec 64)) (s : State) :
    Res.frames 0xb3f79c (execArrayStartPinEnd ch status s) (s.outside 0xb3f79c) := by
  unfold execArrayStartPinEnd
  repeat' (first
    | with_reducible rfl | (intro _; intros) | (with_reducible refine next_frame _ _ ?_)
    | (with_reducible refine runRes_frame _ _ ?_) | split | (with_reducible refine fold_frame _ _ _ _ ?_ ?_)
    | simp (disch := decide) | with_reducible refine (State.runGrant_frame (by assumption) (by decide)).trans ?_)
@[simp] theorem State.offOp_frame (l ix : Nat) (s : State) {B : Nat} (hB : B ||| 0x101080 = B) :
    (State.offOp l ix s).outside B = s.outside B := State.outside_mono hB (by simp (disch := decide) [State.offOp])
@[simp] theorem State.opPass_frame (l ix : Nat) (s : State) {B : Nat} (hB : B ||| 0x323588 = B) :
    (State.opPass l ix s).outside B = s.outside B := State.outside_mono hB (by
  unfold State.opPass
  repeat' split
  all_goals simp (disch := decide))
@[simp] theorem State.opFail_frame (l ix : Nat) (s : State) {B : Nat} (hB : B ||| 0x323598 = B) :
    (State.opFail l ix s).outside B = s.outside B := State.outside_mono hB (by
  unfold State.opFail
  repeat' split
  all_goals simp (disch := decide))
@[simp] theorem State.opUnknown_frame (l ix : Nat) (s : State) {B : Nat} (hB : B ||| 0x323788 = B) :
    (State.opUnknown l ix s).outside B = s.outside B := State.outside_mono hB (by
  unfold State.opUnknown
  repeat' split
  all_goals simp (disch := decide))
@[simp] theorem State.suspended_frame (l : Nat) (d : DieType) (s : State) {B : Nat} (hB : B ||| 0x3000 = B) :
    (State.suspended l d s).outside B = s.outside B := State.outside_mono hB (by
  unfold State.suspended
  dsimp only
  split <;> simp (disch := decide))
@[simp] theorem State.polled_frame (l ix : Nat) (d : DieType) (result : Nat) (s : State) {B : Nat} (hB :
    B ||| 0x323798 = B) : (State.polled l ix d result s).outside B = s.outside B := State.outside_mono hB (by
  unfold State.polled
  repeat' split
  all_goals simp (disch := decide))
@[simp] theorem State.suspendEnd_frame (l : Nat) (d : DieType) (result : Nat) (s : State) {B : Nat} (hB :
    B ||| 0x3000 = B) : (State.suspendEnd l d result s).outside B = s.outside B := State.outside_mono hB (by
  unfold State.suspendEnd
  split <;> simp (disch := decide))
@[simp] theorem State.resumed_frame (l : Nat) (d : DieType) (s : State) {B : Nat} (hB : B ||| 0x1080 = B) :
    (State.resumed l d s).outside B = s.outside B := State.outside_mono hB (by
  unfold State.resumed
  repeat' (first
    | with_reducible rfl | (intro _; intros) | split | (with_reducible refine fold_frame _ _ _ _ ?_ ?_)
    | simp (disch := decide)))
@[simp] theorem State.dataEnd_frame (l : Nat) (d : DieType) (g : Grant) (result : Nat) (s : State) {B : Nat} (hB :
    B ||| 0x101080 = B) : (State.dataEnd l d g result s).outside B = s.outside B := State.outside_mono hB (by
  unfold State.dataEnd
  repeat' (first | split | simp (disch := decide)))
@[simp] theorem State.dataInAborted_frame (l : Nat) (g : Grant) (s : State) {B : Nat} (hB : B ||| 0x101080 = B) :
    (State.dataInAborted l g s).outside B = s.outside B := State.outside_mono hB (foldl_frame _ _ (fun _ _ => by simp
    (disch := decide)) _)
@[simp] theorem State.schedEnd_frame (l : Nat) (d : DieType) (g : Grant) (result : Nat) (st : BitVec 64) (s :
    State) {B : Nat} (hB : B ||| 0x323798 = B) : (State.schedEnd l d g result st s).outside B = s.outside B :=
    State.outside_mono hB (by
  unfold State.schedEnd
  repeat' (first
    | (intro _; intros) | split | (with_reducible refine fold_frame _ _ _ _ ?_ ?_) | simp (disch := decide)))
theorem execScheduleEnd_frame (ch : Nat) (s : State) :
    Res.frames 0x323798 (execScheduleEnd ch s) (s.outside 0x323798) := by
  unfold execScheduleEnd
  repeat' (first
    | with_reducible rfl | (intro _; intros) | (with_reducible refine next_frame _ _ ?_)
    | (with_reducible refine onlyIf_frame _ _ _ _ ?_ ?_) | split | simp (disch := decide))
theorem execGrantRelease_frame (ch : Nat) (s : State) :
    Res.frames 0x323798 (execGrantRelease ch s) (s.outside 0x323798) := by
  unfold execGrantRelease
  repeat' (first
    | with_reducible rfl | (intro _; intros) | (with_reducible refine next_frame _ _ ?_)
    | (with_reducible refine onlyIf_frame _ _ _ _ ?_ ?_) | split | simp (disch := decide))
theorem execGrantLimitExceeded_frame (ch : Nat) (s : State) :
    Res.frames 0xb3f79c (execGrantLimitExceeded ch s) (s.outside 0xb3f79c) := by
  unfold execGrantLimitExceeded
  repeat' (first
    | with_reducible rfl | (intro _; intros) | (with_reducible refine next_frame _ _ ?_)
    | (with_reducible refine onlyIf_frame _ _ _ _ ?_ ?_) | split | simp (disch := decide))
theorem State.resumeGrants_frame {n : Nat} {ls : List Nat} {s t : State} (h :
    State.resumeGrants n ls s = some t) {B : Nat}
    (hB : B ||| 0xb3f79c = B) : t.outside B = s.outside B := State.outside_mono hB (by
  exact bindFold_frame _ (fun l s t h => by
    split at h
    · split at h
      · exact State.runGrant_frame h (by decide)
      · cases h; rfl
    · cases h; rfl) ls (some s) _ (fun _ h => by cases h; rfl) t h)
theorem execStepReloadDone_frame (step : Nat) (content : BitVec 160) (s : State) :
    Res.frames 0xbbf79c (execStepReloadDone step content s) (s.outside 0xbbf79c) := by
  unfold execStepReloadDone
  repeat' (first
    | with_reducible rfl | (intro _; intros) | (with_reducible refine next_frame _ _ ?_)
    | (with_reducible refine runRes_frame _ _ ?_) | split | (with_reducible refine fold_frame _ _ _ _ ?_ ?_)
    | simp (disch := decide) | with_reducible refine (State.resumeGrants_frame (by assumption) (by decide)).trans ?_)
theorem execUrgencyPromotion_frame (ix : Nat) (gen : BitVec 16) (s : State) :
    Res.frames 0x101080 (execUrgencyPromotion ix gen s) (s.outside 0x101080) := by
  unfold execUrgencyPromotion
  repeat' (first
    | with_reducible rfl | (intro _; intros) | (with_reducible refine onlyIf_frame _ _ _ _ ?_ ?_) | split
    | simp (disch := decide))
theorem State.eventActs_frame (e : Option Event) (f : State → State) (s : State) {B : Nat} (hB : B ||| 0x80 = B)
    (h : (f s).outside B = s.outside B) : (State.eventActs e f s).outside B = s.outside B := by
  unfold State.eventActs
  split
  · exact State.stale_frame _ hB
  · exact h
theorem execReadyPollDue_frame (lun : Nat) (s : State) :
    Res.frames 0x10a0 (execReadyPollDue lun s) (s.outside 0x10a0) :=
  State.onEvent_frame (by decide) _ _ _ _ _ rfl ((State.eventActs_frame _ _ _ (by decide) (by simp (disch := decide))).trans
    (State.onLun_frame _ _ _ (by decide)))
theorem execRunTimeExpiry_frame (lun : Nat) (s : State) :
    Res.frames 0x10a0 (execRunTimeExpiry lun s) (s.outside 0x10a0) :=
  State.onEvent_frame (by decide) _ _ _ _ _ rfl ((State.eventActs_frame _ _ _ (by decide) (by simp (disch := decide))).trans
    (State.onLun_frame _ _ _ (by decide)))
theorem execSuspendWindowExpiry_frame (lun : Nat) (s : State) :
    Res.frames 0x10a0 (execSuspendWindowExpiry lun s) (s.outside 0x10a0) :=
  State.onEvent_frame (by decide) _ _ _ _ _ rfl ((State.eventActs_frame _ _ _ (by decide) (by simp (disch := decide))).trans
    (State.onLun_frame _ _ _ (by decide)))
theorem execMergeWindowExpiry_frame (lun : Nat) (s : State) :
    Res.frames 0x1010a0 (execMergeWindowExpiry lun s) (s.outside 0x1010a0) :=
  State.onEvent_frame (by decide) _ _ _ _ _ rfl ((State.eventActs_frame _ _ _ (by decide) (by simp (disch := decide))).trans
    (State.onLun_frame _ _ _ (by decide)))
theorem State.resumeStarved_frame {l : Nat} {s t : State} (h : s.resumeStarved l = some t) {B : Nat}
    (hB : B ||| 0xb3f79c = B) : t.outside B = s.outside B := State.outside_mono hB (by
  unfold State.resumeStarved at h
  split at h
  · split at h
    · exact State.runGrant_frame h (by decide)
    · cases h; rfl
  · cases h; rfl)
theorem execSourceDataReturn_frame (chain : ChainId) (tag : Nat) (data : List Byte) (s : State) :
    Res.frames 0xb3f79c (execSourceDataReturn chain tag data s) (s.outside 0xb3f79c) := by
  unfold execSourceDataReturn
  repeat' split
  · exact next_frame _ _ rfl
  · exact next_frame _ _ (State.popTag_frame (by assumption) (by decide))
  · exact next_frame _ _ rfl
  · exact runRes_frame _ _ fun t ht => (State.resumeStarved_frame ht (by decide)).trans (State.sourceReturn_frame (by assumption) (by decide))
  · exact next_frame _ _ (State.sourceReturn_frame (by assumption) (by decide))

/-! ## Setup -/

@[simp] theorem State.addSetup_frame (ch ce : Nat) (acts : List PinAct) (s : State) {B : Nat} (hB :
    B ||| 0x2000 = B) : (State.addSetup ch ce acts s).outside B = s.outside B := State.outside_mono hB rfl
@[simp] theorem State.setUpDone_frame (l : Nat) (x : Run) (s : State) {B : Nat} (hB : B ||| 0xb3f79c = B) :
    (State.setUpDone l x s).outside B = s.outside B := State.outside_mono hB (by
  unfold State.setUpDone
  repeat' (first
    | (intro _; intros) | split | (with_reducible refine fold_frame _ _ _ _ ?_ ?_) | simp (disch := decide)))
theorem State.runSetUp_frame {l : Nat} {d : DieType} {sdr : Option Nat} {ps : List SetUp} {s t : State} (h :
    s.runSetUp l d sdr ps = some t) {B : Nat}
    (hB : B ||| 0xb3f79c = B) : t.outside B = s.outside B := State.outside_mono hB (by
  unfold State.runSetUp at h
  split at h
  · cases h; rfl
  · dsimp only at h
    obtain ⟨x, -, rfl⟩ := Option.map_eq_some_iff.mp h
    simp (disch := decide))

end Sys2Proof.Machine
end

