-- ==== Sys2Proof/Laws/FrameUnits.lean ====
section
/-! SUPPORT. Block frames: recovery, intake, decoding, learning, the relay and the PSP. -/

namespace Sys2Proof.Machine

/-! ## Ladder -/

@[simp] theorem State.sourceRead_frame (ix : Nat) (s : State) {B : Nat} (hB : B ||| 0x101080 = B) :
    (State.sourceRead ix s).outside B = s.outside B := State.outside_mono hB (by simp (disch := decide)
    [State.sourceRead])
@[simp] theorem State.readEnd_frame (ix : Nat) (s : State) {B : Nat} (hB : B ||| 0x323588 = B) :
    (State.readEnd ix s).outside B = s.outside B := State.outside_mono hB (by
  unfold State.readEnd
  repeat' split
  all_goals simp (disch := decide))
@[simp] theorem State.cwFails_frame (ix cw : Nat) (st : Status) (s : State) {B : Nat} (hB : B ||| 0x580 = B) :
    (State.cwFails ix cw st s).outside B = s.outside B := State.outside_mono hB (by
  unfold State.cwFails
  split <;> simp (disch := decide))
@[simp] theorem State.climb_frame (ix : Nat) (s : State) {B : Nat} (hB : B ||| 0x101080 = B) :
    (State.climb ix s).outside B = s.outside B := State.outside_mono hB (by
  unfold State.climb
  repeat' (first | rfl | split | simp (disch := decide)))
@[simp] theorem State.askSense_frame (ix : Nat) (s : State) {B : Nat} (hB : B ||| 0x100 = B) :
    (State.askSense ix s).outside B = s.outside B := State.outside_mono hB (by
  unfold State.askSense
  split <;> rfl)
@[simp] theorem State.stepDone_frame (ix : Nat) (s : State) {B : Nat} (hB : B ||| 0x323588 = B) :
    (State.stepDone ix s).outside B = s.outside B := State.outside_mono hB (by
  unfold State.stepDone
  repeat' (first
    | with_reducible rfl | (intro _; intros) | split | (with_reducible refine fold_frame _ _ _ _ ?_ ?_)
    | simp (disch := decide)))
@[simp] theorem State.unhold_frame (s : State) (ix : Nat) {B : Nat} (hB : B ||| 0x323588 = B) :
    (State.unhold s ix).outside B = s.outside B := State.outside_mono hB (by
  unfold State.unhold
  repeat' split
  all_goals simp (disch := decide))
@[simp] theorem State.unholdAll_frame (ctx : Nat) (s : State) {B : Nat} (hB : B ||| 0x323588 = B) :
    (State.unholdAll ctx s).outside B = s.outside B := State.outside_mono hB (by
  unfold State.unholdAll
  repeat' (first
    | with_reducible rfl | (intro _; intros) | split | (with_reducible refine fold_frame _ _ _ _ ?_ ?_)
    | simp (disch := decide)))
@[simp] theorem State.chainResume_frame (s : State) {B : Nat} (hB : B ||| 0x323588 = B) :
    (State.chainResume s).outside B = s.outside B := State.outside_mono hB (by
  unfold State.chainResume
  repeat' (first
    | with_reducible rfl | (intro _; intros) | split | (with_reducible refine fold_frame _ _ _ _ ?_ ?_)
    | simp (disch := decide)))
theorem execChainResume_frame (s : State) : Res.frames 0x32358a (execChainResume s) (s.outside 0x32358a) := by
  unfold execChainResume
  repeat' (first
    | with_reducible assumption | with_reducible rfl | (intro _; intros)
    | (with_reducible refine hcpAccess_frame (by decide) _ _ _ ?_ ?_) | split | simp (disch := decide))
theorem execRefireBackoffExpiry_frame (lun : Nat) (s : State) :
    Res.frames 0x1010a0 (execRefireBackoffExpiry lun s) (s.outside 0x1010a0) :=
  State.onEvent_frame (by decide) _ _ _ _ _ rfl ((State.eventActs_frame _ _ _ (by decide) (foldl_frame _ _ (fun _ _ => by simp (disch := decide)) _)).trans
    (State.onLun_frame _ _ _ (by decide)))
@[simp] theorem State.toLane_frame (ix cw : Nat) (soft : Bool) (s : State) {B : Nat} (hB : B ||| 0x323788 = B) :
    (State.toLane ix cw soft s).outside B = s.outside B := State.outside_mono hB (by
  unfold State.toLane
  split <;> simp (disch := decide))
@[simp] theorem State.takeSample_frame (ix : Nat) (s : State) {B : Nat} (hB : B ||| 0x400 = B) :
    (State.takeSample ix s).outside B = s.outside B := State.outside_mono hB (by
  unfold State.takeSample
  repeat' (first | rfl | split | simp (disch := decide)))

/-! ## Intake -/

@[simp] theorem State.allArrived_frame (ix : Nat) (s : State) {B : Nat} (hB : B ||| 0x323788 = B) :
    (State.allArrived ix s).outside B = s.outside B := State.outside_mono hB (by
  unfold State.allArrived
  repeat' (first
    | with_reducible rfl | (intro _; intros) | split | (with_reducible refine fold_frame _ _ _ _ ?_ ?_)
    | simp (disch := decide)))
@[simp] theorem State.senseArrived_frame (ix : Nat) (s : State) {B : Nat} (hB : B ||| 0x323788 = B) :
    (State.senseArrived ix s).outside B = s.outside B := State.outside_mono hB (by
  unfold State.senseArrived
  repeat' (first
    | with_reducible rfl | (intro _; intros) | split | (with_reducible refine fold_frame _ _ _ _ ?_ ?_)
    | simp (disch := decide)))
@[simp] theorem State.codewordIn_frame (ix r zeros : Nat) (s : State) {B : Nat} (hB : B ||| 0x323788 = B) :
    (State.codewordIn ix r zeros s).outside B = s.outside B := State.outside_mono hB (by
  unfold State.codewordIn
  repeat' (first | rfl | split | simp (disch := decide)))
@[simp] theorem State.sherdOutcome_frame (ix : Nat) (st : Status) (payload : List Byte) (s : State) {B : Nat} (hB :
    B ||| 0x323788 = B) : (State.sherdOutcome ix st payload s).outside B = s.outside B := State.outside_mono hB (by
  unfold State.sherdOutcome
  repeat' split
  all_goals simp (disch := decide))
@[simp] theorem State.sherdLost_frame (ix : Nat) (s : State) {B : Nat} (hB : B ||| 0x323788 = B) :
    (State.sherdLost ix s).outside B = s.outside B := State.outside_mono hB (by simp (disch := decide)
    [State.sherdLost])
@[simp] theorem State.sherdIn_frame (ix zeros : Nat) (bytes : List Byte) (s : State) {B : Nat} (hB :
    B ||| 0x323788 = B) : (State.sherdIn ix zeros bytes s).outside B = s.outside B := State.outside_mono hB (by
  unfold State.sherdIn
  repeat' (first | rfl | split | simp (disch := decide)))
@[simp] theorem State.rawIn_frame (ix n : Nat) (bytes : List Byte) (s : State) {B : Nat} (hB : B ||| 0x323588 = B) :
    (State.rawIn ix n bytes s).outside B = s.outside B := State.outside_mono hB (by
  unfold State.rawIn
  repeat' split
  all_goals simp (disch := decide))
@[simp] theorem State.cutEgress_frame (ch : Nat) (s : State) {B : Nat} (hB : B ||| 0x2100 = B) :
    (State.cutEgress ch s).outside B = s.outside B := State.outside_mono hB (by
  unfold State.cutEgress
  repeat' (first | rfl | split | simp (disch := decide)))
theorem execPacketComplete_frame (ch : Nat) (bytes : List Byte) (short : Bool) (mismatch : Option Mismatch) (s :
    State) : Res.frames 0xb2f79c (execPacketComplete ch bytes short mismatch s) (s.outside 0xb2f79c) := by
  unfold execPacketComplete
  repeat' (first
    | with_reducible rfl | (intro _; intros) | (with_reducible refine next_frame _ _ ?_)
    | (with_reducible refine onlyIf_frame _ _ _ _ ?_ ?_) | split | simp (disch := decide))
theorem execFlushTakesEffect_frame (ch : Nat) (egress : Bool) (s : State) :
    Res.frames 0x323788 (execFlushTakesEffect ch egress s) (s.outside 0x323788) := by
  unfold execFlushTakesEffect
  repeat' (first
    | with_reducible rfl | (intro _; intros) | (with_reducible refine onlyIf_frame _ _ _ _ ?_ ?_) | split
    | simp (disch := decide))
@[simp] theorem State.writeFlush_frame (data : Word) (s : State) {B : Nat} (hB : B ||| 0x100 = B) :
    (State.writeFlush data s).outside B = s.outside B := State.outside_mono hB (by
  unfold State.writeFlush
  repeat' (first | rfl | split | simp (disch := decide)))
theorem execPoolFlushIngress_frame (data : Word) (s : State) :
    Res.frames 0x122 (execPoolFlushIngress data s) (s.outside 0x122) := by
  unfold execPoolFlushIngress
  repeat' (first
    | with_reducible assumption | with_reducible rfl | (intro _; intros)
    | (with_reducible refine hcpAction_frame (by decide) _ _ _ _ ?_ ?_) | split | simp (disch := decide))
theorem execPoolFlushEgress_frame (data : Word) (s : State) :
    Res.frames 0x122 (execPoolFlushEgress data s) (s.outside 0x122) := by
  unfold execPoolFlushEgress
  repeat' (first
    | with_reducible assumption | with_reducible rfl | (intro _; intros)
    | (with_reducible refine hcpAction_frame (by decide) _ _ _ _ ?_ ?_) | split | simp (disch := decide))
@[simp] theorem State.serve_frame (c : Nat) (r : AllocReq) (pecks : List Nat) (s : State) {B : Nat} (hB :
    B ||| 0x323588 = B) : (State.serve c r pecks s).outside B = s.outside B := State.outside_mono hB (by
  unfold State.serve
  repeat' (first
    | (intro _; intros) | split | (with_reducible refine fold_frame _ _ _ _ ?_ ?_) | simp (disch := decide)))
theorem execPeckAllocationGrant_frame (ch : Option Nat) (pecks : List Nat) (s : State) :
    Res.frames 0x323588 (execPeckAllocationGrant ch pecks s) (s.outside 0x323588) := by
  unfold execPeckAllocationGrant
  repeat' (first
    | with_reducible rfl | (intro _; intros) | (with_reducible refine next_frame _ _ ?_)
    | (with_reducible refine onlyIf_frame _ _ _ _ ?_ ?_) | split | (with_reducible refine fold_frame _ _ _ _ ?_ ?_)
    | simp (disch := decide))
theorem execFoldAdmission_frame (lun : Nat) (pecks : List Nat) (s : State) :
    Res.frames 0x323588 (execFoldAdmission lun pecks s) (s.outside 0x323588) := by
  unfold execFoldAdmission
  repeat' (first
    | with_reducible rfl | (intro _; intros) | (with_reducible refine next_frame _ _ ?_)
    | (with_reducible refine onlyIf_frame _ _ _ _ ?_ ?_) | split | simp (disch := decide))

/-! ## Decoders -/

theorem execDecodeStart_frame (kind : LaneKind) (s : State) :
    Res.frames 0x200 (execDecodeStart kind s) (s.outside 0x200) := by
  unfold execDecodeStart
  repeat' (first
    | with_reducible rfl | (intro _; intros) | (with_reducible refine next_frame _ _ ?_)
    | (with_reducible refine onlyIf_frame _ _ _ _ ?_ ?_) | split | simp (disch := decide))
@[simp] theorem State.freeLane_frame (lane : Nat) (s : State) {B : Nat} (hB : B ||| 0x200 = B) :
    (State.freeLane lane s).outside B = s.outside B := State.outside_mono hB rfl
@[simp] theorem State.orphans_frame (s : State) {B : Nat} (hB : B ||| 0x323788 = B) :
    (State.orphans s).outside B = s.outside B := State.outside_mono hB (by
  unfold State.orphans
  repeat' (first
    | with_reducible rfl | (intro _; intros) | split | (with_reducible refine fold_frame _ _ _ _ ?_ ?_)
    | simp (disch := decide)))
@[simp] theorem State.decoderFault_frame (kind : LaneKind) (lane : Nat) (i : DecItem) (cause : DecCause) (s :
    State) {B : Nat} (hB : B ||| 0x323798 = B) : (State.decoderFault kind lane i cause s).outside B = s.outside B :=
    State.outside_mono hB (by simp (disch := decide) [State.decoderFault])
theorem execSpareLaneInService_frame (lane : Nat) (s : State) :
    Res.frames 0x200 (execSpareLaneInService lane s) (s.outside 0x200) := onlyIf_frame _ _ _ _ rfl (fun _ => rfl)
@[simp] theorem State.cwPasses_frame (ix cw n : Nat) (data : List Byte) (s : State) {B : Nat} (hB :
    B ||| 0x323788 = B) : (State.cwPasses ix cw n data s).outside B = s.outside B := State.outside_mono hB (by
  unfold State.cwPasses
  repeat' (first | rfl | split | simp (disch := decide)))
@[simp] theorem State.addIters_frame (ix : Nat) (gen : BitVec 16) (n : Nat) (s : State) {B : Nat} (hB :
    B ||| 0x480 = B) : (State.addIters ix gen n s).outside B = s.outside B := State.outside_mono hB rfl
@[simp] theorem State.cwLimit_frame (ix cw n : Nat) (s : State) {B : Nat} (hB : B ||| 0x100 = B) :
    (State.cwLimit ix cw n s).outside B = s.outside B := State.outside_mono hB (by
  unfold State.cwLimit
  repeat' split
  all_goals rfl)
@[simp] theorem State.hardEnd_frame (lane : Nat) (i : DecItem) (cfg llr : Word) (s : State) {B : Nat} (hB :
    B ||| 0x323788 = B) : (State.hardEnd lane i cfg llr s).outside B = s.outside B := State.outside_mono hB (by
  unfold State.hardEnd
  repeat' (first | split | simp (disch := decide)))
theorem execHardDecodeEnd_frame (kind : LaneKind) (lane : Nat) (fault : Option DecCause) (s : State) :
    Res.frames 0x323798 (execHardDecodeEnd kind lane fault s) (s.outside 0x323798) := by
  unfold execHardDecodeEnd
  repeat' (first
    | with_reducible rfl | (intro _; intros) | (with_reducible refine next_frame _ _ ?_)
    | (with_reducible refine onlyIf_frame _ _ _ _ ?_ ?_) | split | simp (disch := decide))
@[simp] theorem State.softEnd_frame (lane : Nat) (i : DecItem) (cfg llr : Word) (s : State) {B : Nat} (hB :
    B ||| 0x323788 = B) : (State.softEnd lane i cfg llr s).outside B = s.outside B := State.outside_mono hB (by
  unfold State.softEnd
  repeat' (first | split | simp (disch := decide)))
theorem execSoftDecodeEnd_frame (lane : Nat) (fault : Option DecCause) (s : State) :
    Res.frames 0x323798 (execSoftDecodeEnd lane fault s) (s.outside 0x323798) := by
  unfold execSoftDecodeEnd
  repeat' (first
    | with_reducible rfl | (intro _; intros) | (with_reducible refine next_frame _ _ ?_)
    | (with_reducible refine onlyIf_frame _ _ _ _ ?_ ?_) | split | simp (disch := decide))
@[simp] theorem State.sherdEnd_frame (lane : Nat) (i : DecItem) (s : State) {B : Nat} (hB : B ||| 0x323788 = B) :
    (State.sherdEnd lane i s).outside B = s.outside B := State.outside_mono hB (by
  unfold State.sherdEnd
  try dsimp only [State.drawFree]
  repeat' (first | split | (simp (disch := decide); done)))
theorem execSherdDecodeEnd_frame (lane : Nat) (fault : Option DecCause) (s : State) :
    Res.frames 0x323798 (execSherdDecodeEnd lane fault s) (s.outside 0x323798) := by
  unfold execSherdDecodeEnd
  repeat' (first
    | with_reducible rfl | (intro _; intros) | (with_reducible refine next_frame _ _ ?_)
    | (with_reducible refine onlyIf_frame _ _ _ _ ?_ ?_) | split | simp (disch := decide))
@[simp] theorem State.decideScan_frame (ix : Nat) (u : LUnit) (c : Cmd) (st : Status) (s : State) {B : Nat} (hB :
    B ||| 0x32358c = B) : (State.decideScan ix u c st s).outside B = s.outside B := State.outside_mono hB (by
  unfold State.decideScan
  dsimp only
  repeat' split
  all_goals simp (disch := decide))
theorem execPredicateDecision_frame (ix : Nat) (gen : BitVec 16) (s : State) :
    Res.frames 0x32358c (execPredicateDecision ix gen s) (s.outside 0x32358c) := by
  unfold execPredicateDecision
  repeat' (first
    | with_reducible rfl | (intro _; intros) | (with_reducible refine next_frame _ _ ?_)
    | (with_reducible refine onlyIf_frame _ _ _ _ ?_ ?_) | split | simp (disch := decide))

/-! ## Cal -/

@[simp] theorem State.relearnConverged_frame (l : Nat) (s : State) {B : Nat} (hB : B ||| 0x100400 = B) :
    (State.relearnConverged l s).outside B = s.outside B := State.outside_mono hB (by simp (disch := decide)
    [State.relearnConverged])
@[simp] theorem State.relearnTimedOut_frame (l : Nat) (r : Relearn) (s : State) {B : Nat} (hB : B ||| 0x410 = B) :
    (State.relearnTimedOut l r s).outside B = s.outside B := State.outside_mono hB rfl
@[simp] theorem State.relearnSample_frame (p : Sample) (e : Int) (r : Relearn) (s : State) {B : Nat} (hB :
    B ||| 0x100410 = B) : (State.relearnSample p e r s).outside B = s.outside B := State.outside_mono hB (by
  unfold State.relearnSample
  repeat' (first | split | simp (disch := decide)))
@[simp] theorem State.calConverged_frame (ctx : Nat) (s : State) {B : Nat} (hB : B ||| 0x32358c = B) :
    (State.calConverged ctx s).outside B = s.outside B := State.outside_mono hB (by
  unfold State.calConverged
  repeat' (first
    | with_reducible rfl | (intro _; intros) | split | (with_reducible refine fold_frame _ _ _ _ ?_ ?_)
    | simp (disch := decide)))
@[simp] theorem State.internalSample_frame (ctx : Nat) (p : Sample) (e : Int) (s : State) {B : Nat} (hB :
    B ||| 0x32358c = B) : (State.internalSample ctx p e s).outside B = s.outside B := State.outside_mono hB (by
  unfold State.internalSample
  repeat' (first | rfl | split | simp (disch := decide)))
@[simp] theorem State.applySample_frame (p : Sample) (s : State) {B : Nat} (hB : B ||| 0x32359c = B) :
    (s.applySample p).outside B = s.outside B := State.outside_mono hB (by
  unfold State.applySample
  extract_lets e s1 tracked
  have h1 : s1.outside 0x32359c = s.outside 0x32359c := State.onCal_frame _ _ (by decide)
  have h2 : ∀ t, (tracked t).outside 0x32359c = t.outside 0x32359c := fun t =>
    State.onCal_frame _ _ (by decide)
  repeat' split
  all_goals simp (disch := decide) [h1, h2])
theorem execSampleApply_frame (s : State) : Res.frames 0x32359c (execSampleApply s) (s.outside 0x32359c) := by
  unfold execSampleApply
  repeat' (first
    | with_reducible rfl | (intro _; intros) | (with_reducible refine next_frame _ _ ?_)
    | (with_reducible refine onlyIf_frame _ _ _ _ ?_ ?_) | split | simp (disch := decide))
theorem execTemperatureReadDue_frame (lun : Nat) (s : State) :
    Res.frames 0x1020 (execTemperatureReadDue lun s) (s.outside 0x1020) := by
  unfold execTemperatureReadDue
  repeat' (first
    | with_reducible rfl | (with_reducible refine next_frame _ _ ?_)
    | (with_reducible refine State.onEvent_frame (by decide) _ _ _ _ _ ?_ ?_) | split | simp (disch := decide))
@[simp] theorem State.urgentCheck_frame (l : Nat) (s : State) {B : Nat} (hB : B ||| 0x410 = B) :
    (State.urgentCheck l s).outside B = s.outside B := State.outside_mono hB (by
  unfold State.urgentCheck
  dsimp only
  split <;> simp (disch := decide))
@[simp] theorem State.crossing_frame (l : Nat) (hot : Bool) (s : State) {B : Nat} (hB : B ||| 0x1410 = B) :
    (State.crossing l hot s).outside B = s.outside B := State.outside_mono hB (by simp (disch := decide)
    [State.crossing])
theorem execTemperatureReading_frame (lun : Nat) (t : Int) (s : State) :
    Res.frames 0x1410 (execTemperatureReading lun t s) (s.outside 0x1410) := by
  unfold execTemperatureReading
  repeat' (first
    | with_reducible rfl | (intro _; intros) | (with_reducible refine onlyIf_frame _ _ _ _ ?_ ?_) | split
    | simp (disch := decide))
theorem execRelearnTimeout_frame (lun : Nat) (s : State) :
    Res.frames 0x410 (execRelearnTimeout lun s) (s.outside 0x410) := by
  unfold execRelearnTimeout
  repeat' (first
    | with_reducible rfl | (intro _; intros) | (with_reducible refine next_frame _ _ ?_)
    | (with_reducible refine onlyIf_frame _ _ _ _ ?_ ?_) | split | simp (disch := decide))
@[simp] theorem State.askTraining_frame (k : Nat) (s : State) {B : Nat} (hB : B ||| 0x400 = B) :
    (State.askTraining k s).outside B = s.outside B := State.outside_mono hB (by
  unfold State.askTraining
  split <;> rfl)
theorem execThmDieTSample_frame (code : BitVec 10) (s : State) :
    Res.frames 0x430 (execThmDieTSample code s) (s.outside 0x430) := by
  unfold execThmDieTSample
  repeat' (first
    | with_reducible rfl | (intro _; intros) | (with_reducible refine onlyIf_frame _ _ _ _ ?_ ?_) | split
    | (with_reducible refine fold_frame _ _ _ _ ?_ ?_) | simp (disch := decide))
@[simp] theorem State.joinTraining_frame (ctx : Nat) (s : State) {B : Nat} (hB : B ||| 0x323588 = B) :
    (State.joinTraining ctx s).outside B = s.outside B := State.outside_mono hB (by
  unfold State.joinTraining
  repeat' (first | rfl | split | simp (disch := decide)))
@[simp] theorem State.beginCalibrate_frame (ctx : Nat) (fetching : Bool) (s : State) {B : Nat} (hB :
    B ||| 0x32358c = B) : (State.beginCalibrate ctx fetching s).outside B = s.outside B := State.outside_mono hB (by
  unfold State.beginCalibrate
  repeat' split
  all_goals simp (disch := decide))
@[simp] theorem State.beginRemote_frame (ctx : Nat) (s : State) {B : Nat} (hB : B ||| 0x84 = B) :
    (State.beginRemote ctx s).outside B = s.outside B := State.outside_mono hB rfl
theorem execCalibrate_frame (entry : BitVec 512) (ctx : List Nat) (s : State) :
    Res.frames 0x3235ac (execCalibrate entry ctx s) (s.outside 0x3235ac) := by
  unfold execCalibrate
  repeat' (first
    | (intro _; intros) | (with_reducible refine fetchedMeaning_frame (by decide) _ _ _ _ _ ?_) | split
    | simp (disch := decide))
@[simp] theorem State.onPatrol_frame (l : Nat) (f : Patrol → Patrol) (s : State) {B : Nat} (hB : B ||| 0x400 = B) :
    (State.onPatrol l f s).outside B = s.outside B := State.outside_mono hB rfl
@[simp] theorem State.setPeriod_frame (l : Nat) (n : Nat) (s : State) {B : Nat} (hB : B ||| 0x1400 = B) :
    (State.setPeriod l n s).outside B = s.outside B := State.outside_mono hB (by
  unfold State.setPeriod
  repeat' (first | split | simp (disch := decide)))
theorem execPatrolAccrual_frame (lun : Nat) (s : State) :
    Res.frames 0x1430 (execPatrolAccrual lun s) (s.outside 0x1430) := by
  unfold execPatrolAccrual
  repeat' (first
    | with_reducible rfl | (with_reducible refine next_frame _ _ ?_)
    | (with_reducible refine State.onEvent_frame (by decide) _ _ _ _ _ ?_ ?_) | split | simp (disch := decide))
theorem execPatrolReadLink_frame (lun ix : Nat) (s : State) :
    Res.frames 0x323588 (execPatrolReadLink lun ix s) (s.outside 0x323588) := by
  unfold execPatrolReadLink
  repeat' (first
    | with_reducible assumption | with_reducible rfl | (intro _; intros) | (with_reducible refine next_frame _ _ ?_)
    | (with_reducible refine onlyIf_frame _ _ _ _ ?_ ?_) | split | simp (disch := decide))
theorem execPatrolNow_frame (entry : BitVec 512) (ctx : List Nat) (s : State) :
    Res.frames 0x2000ac (execPatrolNow entry ctx s) (s.outside 0x2000ac) := by
  unfold execPatrolNow
  repeat' (first
    | with_reducible rfl | (intro _; intros) | (with_reducible refine fetchedMeaning_frame (by decide) _ _ _ _ _ ?_)
    | split | simp (disch := decide))

/-! ## Cq -/

@[simp] theorem State.writeCqe_frame (ctx : Nat) (c : Cmd) (s : State) {B : Nat} (hB : B ||| 0x18c = B) :
    (State.writeCqe ctx c s).outside B = s.outside B := State.outside_mono hB (by
  unfold State.writeCqe
  repeat' (first
    | with_reducible rfl | (intro _; intros) | split | (with_reducible refine fold_frame _ _ _ _ ?_ ?_)
    | simp (disch := decide)))
theorem execCqWrite_frame (ctx : Nat) (s : State) : Res.frames 0x18c (execCqWrite ctx s) (s.outside 0x18c) := by
  unfold execCqWrite
  repeat' (first
    | with_reducible rfl | (intro _; intros) | (with_reducible refine next_frame _ _ ?_)
    | (with_reducible refine onlyIf_frame _ _ _ _ ?_ ?_) | split | simp (disch := decide))
theorem execCqWriteAck_frame (cq : Nat) (s : State) : Res.frames 0x9c (execCqWriteAck cq s) (s.outside 0x9c) := by
  unfold execCqWriteAck
  repeat' (first
    | with_reducible rfl | (intro _; intros) | (with_reducible refine next_frame _ _ ?_)
    | (with_reducible refine onlyIf_frame _ _ _ _ ?_ ?_) | split | simp (disch := decide)
    | with_reducible exact State.popWrite_frame (by assumption) (by decide))
theorem execCqWriteError_frame (cq : Nat) (s : State) : Res.frames 0x1c (execCqWriteError cq s) (s.outside 0x1c) := by
  unfold execCqWriteError
  repeat' (first
    | with_reducible rfl | (intro _; intros) | (with_reducible refine next_frame _ _ ?_)
    | (with_reducible refine onlyIf_frame _ _ _ _ ?_ ?_) | split | simp (disch := decide)
    | with_reducible exact State.popWrite_frame (by assumption) (by decide))

/-! ## Relay -/

@[simp] theorem State.openLink_frame (b : Nat) (s : State) {B : Nat} (hB : B ||| 0x20000 = B) :
    (State.openLink b s).outside B = s.outside B := State.outside_mono hB (by
  unfold State.openLink
  repeat' split
  all_goals simp (disch := decide))
@[simp] theorem State.linkTrained_frame (ch : Nat) (s : State) {B : Nat} (hB : B ||| 0x20000 = B) :
    (State.linkTrained ch s).outside B = s.outside B := State.outside_mono hB (by
  unfold State.linkTrained
  repeat' split
  all_goals simp (disch := decide))
@[simp] theorem State.linkEvent_frame (b : Nat) (s : State) {B : Nat} (hB : B ||| 0x20010 = B) :
    (State.linkEvent b s).outside B = s.outside B := State.outside_mono hB (by
  unfold State.linkEvent
  dsimp only
  split <;> simp (disch := decide))
@[simp] theorem State.park_frame (ix : Nat) (s : State) {B : Nat} (hB : B ||| 0x80 = B) :
    (State.park ix s).outside B = s.outside B := State.outside_mono hB rfl
@[simp] theorem State.retract_frame (ctx ix : Nat) (s : State) {B : Nat} (hB : B ||| 0x123580 = B) :
    (State.retract ctx ix s).outside B = s.outside B := State.outside_mono hB (by
  unfold State.retract
  repeat' split
  all_goals simp (disch := decide))
@[simp] theorem State.discardData_frame (ix : Nat) (o : Origin) (s : State) {B : Nat} (hB : B ||| 0x20180 = B) :
    (State.discardData ix o s).outside B = s.outside B := State.outside_mono hB (by
  unfold State.discardData
  repeat' (first
    | (intro _; intros) | split | (with_reducible refine fold_frame _ _ _ _ ?_ ?_) | simp (disch := decide)))
@[simp] theorem State.loseData_frame (s : State) (ctx ix loss : Nat) {B : Nat} (hB : B ||| 0x20180 = B) :
    (State.loseData s ctx ix loss).outside B = s.outside B := State.outside_mono hB (by
  unfold State.loseData
  dsimp only
  split <;> simp (disch := decide))
@[simp] theorem State.ownerSafe_frame (s : State) (ctx : Nat) {B : Nat} (hB : B ||| 0x123580 = B) :
    (State.ownerSafe s ctx).outside B = s.outside B := State.outside_mono hB (by
  unfold State.ownerSafe
  repeat' split
  all_goals simp (disch := decide))
@[simp] theorem State.linkDown_frame (b : Nat) (s : State) {B : Nat} (hB : B ||| 0x123590 = B) :
    (State.linkDown b s).outside B = s.outside B := State.outside_mono hB (by
  unfold State.linkDown
  repeat' (first
    | with_reducible rfl | (intro _; intros) | split | (with_reducible refine fold_frame _ _ _ _ ?_ ?_)
    | simp (disch := decide)))
@[simp] theorem State.relayLost_frame (s : State) (ix : Nat) {B : Nat} (hB : B ||| 0x323588 = B) :
    (State.relayLost s ix).outside B = s.outside B := State.outside_mono hB (by simp (disch := decide)
    [State.relayLost])
@[simp] theorem State.loseUnits_frame (b : Nat) (s : State) {B : Nat} (hB : B ||| 0x323588 = B) :
    (State.loseUnits b s).outside B = s.outside B := State.outside_mono hB (foldl_frame _ _ (fun _ _ => by simp
    (disch := decide)) _)
@[simp] theorem State.dropSession_frame (b : Nat) (s : State) {B : Nat} (hB : B ||| 0x20180 = B) :
    (State.dropSession b s).outside B = s.outside B := State.outside_mono hB (by
  unfold State.dropSession
  repeat' (first
    | with_reducible rfl | (intro _; intros) | split | (with_reducible refine fold_frame _ _ _ _ ?_ ?_)
    | simp (disch := decide)))
@[simp] theorem State.sendLog_frame (b : Nat) (s : State) {B : Nat} (hB : B ||| 0x20000 = B) :
    (State.sendLog b s).outside B = s.outside B := State.outside_mono hB (by
  unfold State.sendLog
  repeat' split
  all_goals rfl)
@[simp] theorem State.unpark_frame (s : State) (ix : Nat) {B : Nat} (hB : B ||| 0x323588 = B) :
    (State.unpark s ix).outside B = s.outside B := State.outside_mono hB (by
  unfold State.unpark
  repeat' (first | split | simp (disch := decide)))
@[simp] theorem State.linkUp_frame (b : Nat) (f : RFrame) (s : State) {B : Nat} (hB : B ||| 0x323598 = B) :
    (State.linkUp b f s).outside B = s.outside B := State.outside_mono hB (by
  unfold State.linkUp
  repeat' (first
    | with_reducible rfl | (intro _; intros) | split | (with_reducible refine fold_frame _ _ _ _ ?_ ?_)
    | simp (disch := decide)))
@[simp] theorem State.rxGood_frame (b ch : Nat) (f : RFrame) (s : State) {B : Nat} (hB : B ||| 0x323588 = B) :
    (State.rxGood b ch f s).outside B = s.outside B := State.outside_mono hB (by
  unfold State.rxGood
  repeat' (first
    | with_reducible rfl | (intro _; intros) | split | (with_reducible refine fold_frame _ _ _ _ ?_ ?_)
    | simp (disch := decide)))
@[simp] theorem State.ownLocal_frame (ctx ix : Nat) (c : Cmd) (s : State) {B : Nat} (hB : B ||| 0x32358c = B) :
    (State.ownLocal ctx ix c s).outside B = s.outside B := State.outside_mono hB (by
  unfold State.ownLocal
  dsimp only
  repeat' split
  all_goals simp (disch := decide))
@[simp] theorem State.ownOnward_frame (ctx ix : Nat) (c : Cmd) (hops : Nat) (s : State) {B : Nat} (hB :
    B ||| 0x20180 = B) : (State.ownOnward ctx ix c hops s).outside B = s.outside B := State.outside_mono hB (by
  unfold State.ownOnward
  repeat' split
  all_goals simp (disch := decide))
@[simp] theorem State.takeCommand_frame (b : Nat) (f : RFrame) (ixs : List Nat) (s : State) {B : Nat} (hB :
    B ||| 0x3235ac = B) : (State.takeCommand b f ixs s).outside B = s.outside B := State.outside_mono hB (by
  unfold State.takeCommand
  dsimp only
  repeat' split
  all_goals simp (disch := decide))
@[simp] theorem State.fillPeck_frame (p ix : Nat) (u : LUnit) (f : RFrame) (s : State) {B : Nat} (hB :
    B ||| 0x100 = B) : (State.fillPeck p ix u f s).outside B = s.outside B := State.outside_mono hB rfl
@[simp] theorem State.rawRoom_frame (ix : Nat) (u : LUnit) (s : State) {B : Nat} (hB : B ||| 0x180 = B) :
    (State.rawRoom ix u s).outside B = s.outside B := State.outside_mono hB (by
  unfold State.rawRoom
  repeat' split
  all_goals rfl)
@[simp] theorem State.ownerData_frame (b : Nat) (f : RFrame) (held : Option Nat) (s : State) {B : Nat} (hB :
    B ||| 0x323588 = B) : (State.ownerData b f held s).outside B = s.outside B := State.outside_mono hB (by
  unfold State.ownerData
  repeat' (first | rfl | split | simp (disch := decide)))
@[simp] theorem State.upstreamData_frame (f : RFrame) (s : State) {B : Nat} (hB : B ||| 0x323588 = B) :
    (State.upstreamData f s).outside B = s.outside B := State.outside_mono hB (by
  unfold State.upstreamData
  repeat' split
  all_goals simp (disch := decide))
@[simp] theorem State.sendAgain_frame (ix : Nat) (s : State) {B : Nat} (hB : B ||| 0x220180 = B) :
    (State.sendAgain ix s).outside B = s.outside B := State.outside_mono hB (by simp (disch := decide)
    [State.sendAgain])
@[simp] theorem State.upstreamDone_frame (f : RFrame) (s : State) {B : Nat} (hB : B ||| 0x323588 = B) :
    (State.upstreamDone f s).outside B = s.outside B := State.outside_mono hB (by
  unfold State.upstreamDone
  repeat' (first | split | simp (disch := decide)))
@[simp] theorem State.takeFrame_frame (b : Nat) (f : RFrame) (held : Option Nat) (ixs : List Nat) (s : State) {B :
    Nat} (hB : B ||| 0x3235ac = B) : (State.takeFrame b f held ixs s).outside B = s.outside B := State.outside_mono
    hB (by
  unfold State.takeFrame
  repeat' (first | split | simp (disch := decide)))
@[simp] theorem State.holdAhead_frame (b : Nat) (f : RFrame) (s : State) {B : Nat} (hB : B ||| 0x20100 = B) :
    (State.holdAhead b f s).outside B = s.outside B := State.outside_mono hB (by
  unfold State.holdAhead
  repeat' (first | rfl | split | simp (disch := decide)))
@[simp] theorem State.drainReorder_frame (b n : Nat) (s : State) {B : Nat} (hB : B ||| 0x3235ac = B) :
    (State.drainReorder b n s).outside B = s.outside B := State.outside_mono hB (by
  induction n generalizing s with
  | zero => rfl
  | succ n ih =>
    unfold State.drainReorder
    repeat' split
    all_goals first | rfl | (dsimp only; split; rfl; rw [ih]; simp (disch := decide)))
@[simp] theorem State.rxSequenced_frame (b ch : Nat) (f : RFrame) (ixs : List Nat) (s : State) {B : Nat} (hB :
    B ||| 0x3235ac = B) : (State.rxSequenced b ch f ixs s).outside B = s.outside B := State.outside_mono hB (by
  unfold State.rxSequenced
  repeat' (first | split | simp (disch := decide)))
@[simp] theorem State.leaveService_frame (ch : Nat) (l : Link) (s : State) {B : Nat} (hB : B ||| 0x20400 = B) :
    (State.leaveService ch l s).outside B = s.outside B := State.outside_mono hB (by
  unfold State.leaveService
  split <;> simp (disch := decide))
@[simp] theorem State.badFrame_frame (b ch : Nat) (l : Link) (s : State) {B : Nat} (hB : B ||| 0x20400 = B) :
    (State.badFrame b ch l s).outside B = s.outside B := State.outside_mono hB (by
  unfold State.badFrame
  dsimp only
  split <;> simp (disch := decide))
theorem relayRx_frame {B : Nat} (hB : B ||| 0x20400 = B) (ch typ : Nat) (f : RFrame) (go :
    Nat → Link → State → State) (s : State)
    (h : ∀ b l t, (go b l t).outside B = t.outside B) : Res.frames B (relayRx ch typ f go s) (s.outside B) := by
  unfold relayRx
  split
  · exact next_frame _ _ rfl
  · split
    · exact next_frame _ _ rfl
    · refine onlyIf_frame _ _ _ _ rfl fun _ => ?_
      repeat' split
      · exact h _ _ _
      · exact State.badFrame_frame _ _ _ _ hB
      · rfl
theorem State.resumeAll_frame {s t : State} (h : s.resumeAll = some t) {B : Nat}
    (hB : B ||| 0xb3f79c = B) : t.outside B = s.outside B := State.outside_mono hB (by
  exact bindFold_frame (fun l s => s.resumeStarved l) (fun _ _ _ h => State.resumeStarved_frame h (by decide)) _ (some s) _
    (fun _ h => by cases h; rfl) t h)
theorem thenResume_frame {B : Nat} (hB : B ||| 0xb3f79c = B) (r : Res) (x : State) (h : Res.frames B r x) :
    Res.frames B (thenResume r) x := by
  unfold thenResume
  split
  · split
    · exact runRes_frame _ _ (fun t ht => (State.resumeAll_frame ht hB).trans (h.out _ rfl))
    · exact h
  · exact h
theorem execRelayCommandFrame_frame (ch : Nat) (f : RFrame) (ctx : List Nat) (s : State) :
    Res.frames 0xb3f7bc (execRelayCommandFrame ch f ctx s) (s.outside 0xb3f7bc) := by
  exact thenResume_frame (by decide) _ _ (relayRx_frame (by decide) _ _ _ _ _ (fun _ _ _ => by split <;> simp (disch := decide)))
theorem execRelayDataFrame_frame (ch : Nat) (f : RFrame) (s : State) :
    Res.frames 0xb3f7bc (execRelayDataFrame ch f s) (s.outside 0xb3f7bc) := by
  exact thenResume_frame (by decide) _ _ (relayRx_frame (by decide) _ _ _ _ _ (fun _ _ _ => by simp (disch := decide)))
theorem execRelayCompletionFrame_frame (ch : Nat) (f : RFrame) (s : State) :
    Res.frames 0x3235ac (execRelayCompletionFrame ch f s) (s.outside 0x3235ac) := by
  unfold execRelayCompletionFrame
  repeat' (first
    | with_reducible rfl | (intro _; intros) | (with_reducible refine relayRx_frame (by decide) _ _ _ _ _ ?_) | split
    | simp (disch := decide))
theorem execRelayCreditFrame_frame (ch : Nat) (f : RFrame) (s : State) :
    Res.frames 0x323588 (execRelayCreditFrame ch f s) (s.outside 0x323588) := by
  unfold execRelayCreditFrame
  repeat' (first
    | (intro _; intros) | (with_reducible refine relayRx_frame (by decide) _ _ _ _ _ ?_) | simp (disch := decide))
theorem execRelayHeartbeatFrame_frame (ch : Nat) (f : RFrame) (s : State) :
    Res.frames 0x323588 (execRelayHeartbeatFrame ch f s) (s.outside 0x323588) := by
  unfold execRelayHeartbeatFrame
  repeat' (first
    | (intro _; intros) | (with_reducible refine relayRx_frame (by decide) _ _ _ _ _ ?_) | simp (disch := decide))
theorem execRelayHelloFrame_frame (ch : Nat) (f : RFrame) (s : State) :
    Res.frames 0x323598 (execRelayHelloFrame ch f s) (s.outside 0x323598) := by
  unfold execRelayHelloFrame
  repeat' (first
    | (intro _; intros) | (with_reducible refine relayRx_frame (by decide) _ _ _ _ _ ?_) | split
    | simp (disch := decide))
theorem execRelayTrainFrame_frame (ch : Nat) (f : RFrame) (s : State) :
    Res.frames 0x323588 (execRelayTrainFrame ch f s) (s.outside 0x323588) := by
  unfold execRelayTrainFrame
  repeat' (first
    | (intro _; intros) | (with_reducible refine relayRx_frame (by decide) _ _ _ _ _ ?_) | split
    | simp (disch := decide))
theorem execRelayBadFrame_frame (ch : Nat) (s : State) :
    Res.frames 0x20400 (execRelayBadFrame ch s) (s.outside 0x20400) := by
  unfold execRelayBadFrame
  repeat' (first
    | with_reducible rfl | (intro _; intros) | (with_reducible refine next_frame _ _ ?_)
    | (with_reducible refine onlyIf_frame _ _ _ _ ?_ ?_) | split | simp (disch := decide))
theorem execRelayReadIdPoll_frame (ch : Nat) (id : List Byte) (s : State) :
    Res.frames 0x20400 (execRelayReadIdPoll ch id s) (s.outside 0x20400) := by
  unfold execRelayReadIdPoll
  repeat' (first
    | with_reducible rfl | (intro _; intros) | (with_reducible refine next_frame _ _ ?_)
    | (with_reducible refine onlyIf_frame _ _ _ _ ?_ ?_) | split | simp (disch := decide))
theorem execTargetReadId_frame (ch : Nat) (s : State) :
    Res.frames 0x20000 (execTargetReadId ch s) (s.outside 0x20000) := by
  unfold execTargetReadId
  repeat' (first
    | with_reducible rfl | (intro _; intros) | (with_reducible refine next_frame _ _ ?_)
    | (with_reducible refine onlyIf_frame _ _ _ _ ?_ ?_) | split | simp (disch := decide))
@[simp] theorem State.startPull_frame (b ch : Nat) (s : State) {B : Nat} (hB : B ||| 0x20000 = B) :
    (State.startPull b ch s).outside B = s.outside B := State.outside_mono hB rfl
theorem execRelayPullDue_frame (ch : Nat) (rbLow : Bool) (s : State) :
    Res.frames 0x20000 (execRelayPullDue ch rbLow s) (s.outside 0x20000) := by
  unfold execRelayPullDue
  repeat' (first
    | with_reducible rfl | (intro _; intros) | (with_reducible refine next_frame _ _ ?_)
    | (with_reducible refine onlyIf_frame _ _ _ _ ?_ ?_) | split | simp (disch := decide))
theorem execTargetPull_frame (ch : Nat) (s : State) :
    Res.frames 0x20000 (execTargetPull ch s) (s.outside 0x20000) := by
  unfold execTargetPull
  repeat' (first
    | with_reducible rfl | (intro _; intros) | (with_reducible refine next_frame _ _ ?_)
    | (with_reducible refine onlyIf_frame _ _ _ _ ?_ ?_) | split | simp (disch := decide))
theorem execRelayTransferEnd_frame (ch : Nat) (rbLow : Bool) (s : State) :
    Res.frames 0x20000 (execRelayTransferEnd ch rbLow s) (s.outside 0x20000) := by
  unfold execRelayTransferEnd
  repeat' (first
    | with_reducible rfl | (intro _; intros) | (with_reducible refine next_frame _ _ ?_)
    | (with_reducible refine onlyIf_frame _ _ _ _ ?_ ?_) | split | simp (disch := decide))
theorem execRelayHeartbeatDue_frame (ch : Nat) (s : State) :
    Res.frames 0x20000 (execRelayHeartbeatDue ch s) (s.outside 0x20000) := by
  unfold execRelayHeartbeatDue
  repeat' (first
    | with_reducible rfl | (intro _; intros) | (with_reducible refine next_frame _ _ ?_)
    | (with_reducible refine onlyIf_frame _ _ _ _ ?_ ?_) | split | simp (disch := decide))
theorem execRelayRetryTimeout_frame (ch : Nat) (s : State) :
    Res.frames 0x20000 (execRelayRetryTimeout ch s) (s.outside 0x20000) := by
  unfold execRelayRetryTimeout
  repeat' (first
    | with_reducible rfl | (intro _; intros) | (with_reducible refine next_frame _ _ ?_)
    | (with_reducible refine onlyIf_frame _ _ _ _ ?_ ?_) | split | simp (disch := decide))
theorem execRelayChannelSilent_frame (ch : Nat) (s : State) :
    Res.frames 0x20400 (execRelayChannelSilent ch s) (s.outside 0x20400) := by
  unfold execRelayChannelSilent
  repeat' (first
    | with_reducible rfl | (intro _; intros) | (with_reducible refine next_frame _ _ ?_)
    | (with_reducible refine onlyIf_frame _ _ _ _ ?_ ?_) | split | simp (disch := decide))
theorem execRelayLinkDown_frame (ch : Nat) (s : State) :
    Res.frames 0x123590 (execRelayLinkDown ch s) (s.outside 0x123590) := by
  unfold execRelayLinkDown
  repeat' (first
    | with_reducible rfl | (intro _; intros) | (with_reducible refine next_frame _ _ ?_)
    | (with_reducible refine onlyIf_frame _ _ _ _ ?_ ?_) | split | simp (disch := decide))
theorem execTrainHoldExpiry_frame (ch : Nat) (s : State) :
    Res.frames 0x20000 (execTrainHoldExpiry ch s) (s.outside 0x20000) := by
  unfold execTrainHoldExpiry
  try dsimp only [State.drawFree]
  repeat' (first
    | with_reducible rfl | (intro _; intros) | (with_reducible refine next_frame _ _ ?_)
    | (with_reducible refine onlyIf_frame _ _ _ _ ?_ ?_) | split | simp (disch := decide))
theorem execRelayHoldExpiry_frame (ch : Nat) (s : State) :
    Res.frames 0x323588 (execRelayHoldExpiry ch s) (s.outside 0x323588) := by
  unfold execRelayHoldExpiry
  repeat' (first
    | with_reducible rfl | (intro _; intros) | (with_reducible refine next_frame _ _ ?_)
    | (with_reducible refine onlyIf_frame _ _ _ _ ?_ ?_) | split | simp (disch := decide))

/-! ## Train -/

@[simp] theorem State.setInterface_frame (k c e : Nat) (s : State) {B : Nat} (hB : B ||| 0x3000 = B) :
    (State.setInterface k c e s).outside B = s.outside B := State.outside_mono hB (by simp (disch := decide)
    [State.setInterface])
@[simp] theorem State.calibrateZq_frame (k c e : Nat) (s : State) {B : Nat} (hB : B ||| 0x2000 = B) :
    (State.calibrateZq k c e s).outside B = s.outside B := State.outside_mono hB (by
  unfold State.calibrateZq
  split <;> rfl)
theorem State.driveVref_frame {ch l n : Nat} {s t : State} (h : s.driveVref ch l n = some t) {B : Nat}
    (hB : B ||| 0xb3f79c = B) : t.outside B = s.outside B := State.outside_mono hB (by
  unfold State.driveVref at h
  split at h
  · exact State.runSetUp_frame h (by decide)
  · cases h; rfl)
theorem State.trainCe_frame {ch rate : Nat} {first : Bool} {v : BitVec 6} {e l : Nat} {s t : State} (h :
    s.trainCe ch rate first v e l = some t) {B : Nat}
    (hB : B ||| 0xb3f79c = B) : t.outside B = s.outside B := State.outside_mono hB (by
  unfold State.trainCe at h
  dsimp only at h
  obtain ⟨a, h1, rfl⟩ := Option.map_eq_some_iff.mp h
  obtain ⟨b, hb, h1⟩ := Option.bind_eq_some_iff.mp h1
  have hl : b.outside 0xb3f79c = s.outside 0xb3f79c := by
    split at hb
    · refine bindFold_frame (fun n s => (State.driveVref ch l n s).map (State.addSetup ch e [.wrTrain])) (fun n s t h => ?_)
        ((List.range 64).filter (fun i => i % sweepStride rate == 0))
        (some (s.addSetup ch e [.rdTrain])) _ (fun u hu => ?_) b ?_
      · obtain ⟨u, hu, rfl⟩ := Option.map_eq_some_iff.mp h
        exact (State.addSetup_frame _ _ _ _ (by decide)).trans (State.driveVref_frame hu (by decide))
      · cases hu
        exact State.addSetup_frame _ _ _ _ (by decide)
      · rw [← hb]
        congr 1
        funext o n
        cases o <;> rfl
    · cases hb; rfl
  have ha := (State.driveVref_frame h1 (B := 0xb3f79c) (by decide)).trans hl
  repeat' split
  all_goals simp (disch := decide) [ha])
theorem State.trainPins_frame {ch rate : Nat} {v : BitVec 6} {s t : State} (h : s.trainPins ch rate v = some t) {B :
    Nat}
    (hB : B ||| 0xb3f79c = B) : t.outside B = s.outside B := State.outside_mono hB (by
  unfold State.trainPins at h
  split at h
  · cases h; rfl
  · obtain ⟨u, hu, rfl⟩ := Option.map_eq_some_iff.mp h
    have e := bindFold_frame (B := 0xb3f79c) (fun (q : Nat × Nat) t => State.trainCe ch rate (some q.1 == (s.countedCes ch).head?) v q.1 q.2 t)
      (fun _ _ _ h => State.trainCe_frame h (by decide)) _ (some s) _ (fun _ h => by cases h; rfl) u hu
    split
    · exact (State.addSetup_frame _ _ _ _ (B := 0xb3f79c) (by decide)).trans e
    · exact e)
theorem State.eachCounted_frame {B : Nat} (k : Nat) (f : Nat → Nat → State → State) (s : State)
    (h : ∀ c e s, (f c e s).outside B = s.outside B) : (s.eachCounted k f).outside B = s.outside B :=
  foldl_frame _ _ (fun s c => foldl_frame _ _ (fun s e => h c e s) s) s
@[simp] theorem State.setUpPair_frame (k : Nat) (s : State) {B : Nat} (hB : B ||| 0xb000 = B) :
    (State.setUpPair k s).outside B = s.outside B := State.outside_mono hB (by
  unfold State.setUpPair
  refine (State.eachCounted_frame _ _ _ (fun _ _ _ => State.calibrateZq_frame _ _ _ _ (by decide))).trans
    ((State.eachCounted_frame _ _ _ (fun _ _ _ => State.setInterface_frame _ _ _ _ (by decide))).trans ?_)
  split
  · rfl
  · exact (foldl_frame _ _ (fun _ _ => State.onLun_frame _ _ _ (by decide)) _).trans (State.onPair_frame _ _ _ (by decide)))
@[simp] theorem State.beginTraining_frame (k : Nat) (s : State) {B : Nat} (hB : B ||| 0xb400 = B) :
    (State.beginTraining k s).outside B = s.outside B := State.outside_mono hB (by
  unfold State.beginTraining
  dsimp only
  split <;> simp (disch := decide))
theorem execStartTraining_frame (pair : Nat) (s : State) :
    Res.frames 0xb400 (execStartTraining pair s) (s.outside 0xb400) := onlyIf_frame _ _ _ _ rfl (fun _ => by simp
    (disch := decide))
theorem execTrainingStart_frame (pair : Nat) (s : State) :
    Res.frames 0x2b400 (execTrainingStart pair s) (s.outside 0x2b400) := by
  unfold execTrainingStart
  repeat' (first
    | with_reducible assumption | with_reducible rfl | (intro _; intros)
    | (with_reducible refine onlyIf_frame _ _ _ _ ?_ ?_) | split | simp (disch := decide))
theorem State.pairPins_frame {k : Nat} {lo hi : Sweep} {s t : State} (h : s.pairPins k lo hi = some t) {B : Nat}
    (hB : B ||| 0xb3f79c = B) : t.outside B = s.outside B := State.outside_mono hB (by
  unfold State.pairPins at h
  exact bindFold_frame (fun c t => t.trainPins c (s.pair k).rate (s.trained c (s.pair k).rate (sweepOf c lo hi)).1.wrVref)
    (fun _ _ _ h => State.trainPins_frame h (by decide)) _ (some s) _ (fun _ h => by cases h; rfl) t h)
theorem State.sequenceRun_frame {B : Nat} (hB : B ||| 0xb3f79c = B) (k : Nat) (lo hi : Sweep) (f : State → State)
    (s : State) (h : ∀ t, (f t).outside B = t.outside B) : Res.frames B (State.sequenceRun k lo hi f s) (s.outside B) :=
  runRes_frame _ _ (fun t ht => by
    obtain ⟨u, hu, rfl⟩ := Option.map_eq_some_iff.mp ht
    have hu := State.pairPins_frame hu hB
    split
    · exact (h u).trans hu
    · exact hu)
@[simp] theorem State.trainingPassed_frame (k : Nat) (lo hi : Sweep) (s : State) {B : Nat} (hB :
    B ||| 0x32f58c = B) : (State.trainingPassed k lo hi s).outside B = s.outside B := State.outside_mono hB (by
  unfold State.trainingPassed
  repeat' (first
    | with_reducible rfl | (intro _; intros) | (with_reducible refine fold_frame _ _ _ _ ?_ ?_)
    | simp (disch := decide)))
theorem execTrainingComplete_frame (pair : Nat) (lo hi : Sweep) (s : State) :
    Res.frames 0xb3f79c (execTrainingComplete pair lo hi s) (s.outside 0xb3f79c) := by
  unfold execTrainingComplete
  split
  · exact State.sequenceRun_frame (by decide) _ _ _ _ _ (fun _ => by simp (disch := decide))
  · exact next_frame _ _ rfl
@[simp] theorem State.trainFailed_frame (k cause : Nat) (bad : List Nat) (s : State) {B : Nat} (hB :
    B ||| 0xb2f79c = B) : (State.trainFailed k cause bad s).outside B = s.outside B := State.outside_mono hB (by
  unfold State.trainFailed
  repeat' (first
    | (intro _; intros) | split | (with_reducible refine fold_frame _ _ _ _ ?_ ?_) | simp (disch := decide)))
theorem execTrainingFail_frame (pair : Nat) (lo hi : Sweep) (s : State) :
    Res.frames 0xb3f79c (execTrainingFail pair lo hi s) (s.outside 0xb3f79c) := by
  unfold execTrainingFail
  dsimp only
  split
  · exact State.sequenceRun_frame (by decide) _ _ _ _ _ (fun _ => by simp (disch := decide))
  · exact next_frame _ _ rfl
theorem execTrainingTimeout_frame (pair : Nat) (s : State) :
    Res.frames 0xb2f79c (execTrainingTimeout pair s) (s.outside 0xb2f79c) := onlyIf_frame _ _ _ _ rfl (fun _ => by
    simp (disch := decide))
@[simp] theorem State.targetReturns_frame (ch : Nat) (s : State) {B : Nat} (hB : B ||| 0x20000 = B) :
    (State.targetReturns ch s).outside B = s.outside B := State.outside_mono hB (by
  unfold State.targetReturns
  split <;> rfl)
theorem execTargetTrainingCommand_frame (ch : Nat) (sweep : Sweep) (s : State) :
    Res.frames 0x2c000 (execTargetTrainingCommand ch sweep s) (s.outside 0x2c000) := by
  unfold execTargetTrainingCommand
  repeat' (first
    | with_reducible rfl | (intro _; intros) | (with_reducible refine onlyIf_frame _ _ _ _ ?_ ?_) | split
    | simp (disch := decide))

/-! ## Psp -/

@[simp] theorem State.pspEvent_frame (was : Bool) (f : Psp → Psp) (s : State) {B : Nat}
    (hB : B ||| 0x40030 = B) : (State.pspEvent was f s).outside B = s.outside B := State.outside_mono hB (by
  unfold State.pspEvent
  dsimp only
  repeat' split
  all_goals simp (disch := decide))
@[simp] theorem State.pspSource_frame (s : State) {B : Nat} (hB : B ||| 0x40000 = B) :
    (State.pspSource s).outside B = s.outside B := State.outside_mono hB (by
  unfold State.pspSource
  dsimp only
  split <;> simp (disch := decide))
@[simp] theorem State.takeEpoch_frame (e : Word) (s : State) {B : Nat} (hB : B ||| 0x140000 = B) :
    (State.takeEpoch e s).outside B = s.outside B := State.outside_mono hB (by simp (disch := decide)
    [State.takeEpoch])
@[simp] theorem State.pspHear_frame (f : PFrame) (s : State) {B : Nat} (hB : B ||| 0x140030 = B) :
    (State.pspHear f s).outside B = s.outside B := State.outside_mono hB (by
  unfold State.pspHear
  repeat' (first | rfl | split | simp (disch := decide)))
theorem execPspMemberDue_frame (s : State) :
    Res.frames 0x40000 (execPspMemberDue s) (s.outside 0x40000) := onlyIf_frame _ _ _ _ rfl (fun _ => by simp (disch
    := decide))
theorem execPspTimeDue_frame (s : State) :
    Res.frames 0x40000 (execPspTimeDue s) (s.outside 0x40000) := onlyIf_frame _ _ _ _ rfl (fun _ => rfl)
theorem execPspMemberFrame_frame (f : PFrame) (s : State) :
    Res.frames 0x140030 (execPspMemberFrame f s) (s.outside 0x140030) := onlyIf_frame _ _ _ _ rfl (fun _ => by simp
    (disch := decide))
theorem execPspTimeFrame_frame (f : PFrame) (local_ : Ns) (s : State) :
    Res.frames 0x140070 (execPspTimeFrame f local_ s) (s.outside 0x140070) := by
  refine onlyIf_frame _ _ _ _ rfl (fun _ => ?_)
  dsimp only
  split <;> simp (disch := decide)
theorem execPspBadFrame_frame (s : State) :
    Res.frames 0x40000 (execPspBadFrame s) (s.outside 0x40000) := onlyIf_frame _ _ _ _ rfl (fun _ => rfl)
theorem execPspMemberTimeout_frame (id : Nat) (s : State) :
    Res.frames 0x40030 (execPspMemberTimeout id s) (s.outside 0x40030) := by
  unfold execPspMemberTimeout
  repeat' (first
    | with_reducible rfl | (intro _; intros) | (with_reducible refine next_frame _ _ ?_)
    | (with_reducible refine onlyIf_frame _ _ _ _ ?_ ?_) | split | simp (disch := decide))
theorem execPspListenEnd_frame (s : State) : Res.frames 0x140000 (execPspListenEnd s) (s.outside 0x140000) := by
  unfold execPspListenEnd
  repeat' (first
    | with_reducible rfl | (intro _; intros) | (with_reducible refine next_frame _ _ ?_)
    | (with_reducible refine onlyIf_frame _ _ _ _ ?_ ?_) | split | simp (disch := decide))
theorem execPspSyncLapse_frame (s : State) :
    Res.frames 0x40000 (execPspSyncLapse s) (s.outside 0x40000) := onlyIf_frame _ _ _ _ rfl (fun _ => rfl)

end Sys2Proof.Machine
end

