-- ==== Sys2Proof/Laws/FramePlatform.lean ====
section
/-! SUPPORT. Block frames: NVS, start-up, resets, the sleep states, the host control port and JTAG. -/

namespace Sys2Proof.Machine

/-! ## Nvs -/

@[simp] theorem State.markUnit_frame (unit : Option Nat) (kind : Nat) (s : State) {B : Nat} (hB :
    B ||| 0x323588 = B) : (State.markUnit unit kind s).outside B = s.outside B := State.outside_mono hB (by
  unfold State.markUnit
  repeat' split
  all_goals simp (disch := decide))
@[simp] theorem State.markDurable_frame (unit : Option Nat) (kind : Nat) (r : NvsReq) (s : State) {B : Nat} (hB :
    B ||| 0x323588 = B) : (State.markDurable unit kind r s).outside B = s.outside B := State.outside_mono hB (by
  unfold State.markDurable
  dsimp only
  split <;> simp (disch := decide))
@[simp] theorem State.snapDurable_frame (k : Nat) (r : NvsReq) (s : State) {B : Nat} (hB : B ||| 0x100080 = B) :
    (State.snapDurable k r s).outside B = s.outside B := State.outside_mono hB (by
  unfold State.snapDurable
  repeat' (first
    | with_reducible rfl | (intro _; intros) | split | (with_reducible refine fold_frame _ _ _ _ ?_ ?_)
    | simp (disch := decide)))
@[simp] theorem State.disturb_frame (r : NvsReq) (s : State) {B : Nat} (hB : B ||| 0x900000 = B) :
    (State.disturb r s).outside B = s.outside B := State.outside_mono hB (by
  unfold State.disturb
  try dsimp only [State.drawFree]
  repeat' (first
    | with_reducible rfl | (intro _; intros) | split | (with_reducible refine fold_frame _ _ _ _ ?_ ?_)
    | simp (disch := decide) | (simp (disch := decide); done)))
@[simp] theorem State.scanEnds_frame (s : State) {B : Nat} (hB : B ||| 0x160000 = B) :
    (State.scanEnds s).outside B = s.outside B := State.outside_mono hB (by
  unfold State.scanEnds
  split <;> rfl)
@[simp] theorem State.nvsDurable_frame (r : NvsReq) (s : State) {B : Nat} (hB : B ||| 0x3e3588 = B) :
    (State.nvsDurable r s).outside B = s.outside B := State.outside_mono hB (by
  unfold State.nvsDurable
  repeat' (first | split | simp (disch := decide)))
@[simp] theorem State.nvsFailed_frame (r : NvsReq) (s : State) {B : Nat} (hB : B ||| 0x900010 = B) :
    (State.nvsFailed r s).outside B = s.outside B := State.outside_mono hB (by
  unfold State.nvsFailed
  repeat' (first | split | simp (disch := decide)))
theorem execNvsWriteDone_frame (verified : Bool) (s : State) :
    Res.frames 0xbe3598 (execNvsWriteDone verified s) (s.outside 0xbe3598) := by
  unfold execNvsWriteDone
  repeat' (first
    | with_reducible rfl | (intro _; intros) | (with_reducible refine next_frame _ _ ?_)
    | (with_reducible refine onlyIf_frame _ _ _ _ ?_ ?_) | split | simp (disch := decide))
theorem execNvsRetryDue_frame (s : State) :
    Res.frames 0x100000 (execNvsRetryDue s) (s.outside 0x100000) := onlyIf_frame _ _ _ _ rfl (fun _ => by simp (disch
    := decide))
theorem execSnapshotStart_frame (s : State) :
    Res.frames 0x100000 (execSnapshotStart s) (s.outside 0x100000) := onlyIf_frame _ _ _ _ rfl (fun _ => by simp
    (disch := decide))
theorem execHealthUpdateDue_frame (s : State) :
    Res.frames 0x100000 (execHealthUpdateDue s) (s.outside 0x100000) := onlyIf_frame _ _ _ _ rfl (fun _ => by simp
    (disch := decide))

/-! ## Startup -/

theorem execNvsStartScanEnd_frame (s : State) : Res.frames 0x120000 (execNvsStartScanEnd s) (s.outside 0x120000) := by
  refine onlyIf_frame _ _ _ _ rfl (fun _ => ?_)
  dsimp only
  split <;> simp (disch := decide)
theorem execSerialDiscovery_frame (sfdp : Sfdp) (opt0 opt1 : List Byte) (suspended : Bool) (s : State) :
    Res.frames 0x80001 (execSerialDiscovery sfdp opt0 opt1 suspended s) (s.outside 0x80001) := onlyIf_frame _ _ _ _
    rfl (fun _ => rfl)
@[simp] theorem State.askReerase_frame (secs : List Nat) (s : State) {B : Nat} (hB : B ||| 0x100001 = B) :
    (State.askReerase secs s).outside B = s.outside B := State.outside_mono hB (foldl_frame _ _ (fun _ _ => by simp
    (disch := decide)) _)
@[simp] theorem State.bootFails_frame (s : State) {B : Nat} (hB : B ||| 0x180011 = B) :
    (State.bootFails s).outside B = s.outside B := State.outside_mono hB (by simp (disch := decide) [State.bootFails])
@[simp] theorem State.chooseRecord_frame (s : State) {B : Nat} (hB : B ||| 0x80000 = B) :
    (State.chooseRecord s).outside B = s.outside B := State.outside_mono hB (by
  unfold State.chooseRecord
  repeat' (first | rfl | split | simp (disch := decide)))
theorem execSlotSelection_frame (s : State) : Res.frames 0x180013 (execSlotSelection s) (s.outside 0x180013) := by
  refine onlyIf_frame _ _ _ _ rfl (fun _ => ?_)
  dsimp only
  split <;> simp (disch := decide)
@[simp] theorem State.setPers_frame (s : State) {B : Nat} (hB : B ||| 0x2000 = B) :
    (State.setPers s).outside B = s.outside B := State.outside_mono hB (foldl_frame _ _ (fun _ _ => by simp (disch :=
    decide)) _)
@[simp] theorem State.loadStore_frame (slot : Bool) (m : SparseBytes) (s : State) {B : Nat} (hB :
    B ||| 0x10010 = B) : (State.loadStore slot m s).outside B = s.outside B := State.outside_mono hB (by simp (disch
    := decide) [State.loadStore])
@[simp] theorem State.loadTimers_frame (m : SparseBytes) (s : State) {B : Nat} (hB : B ||| 0x60 = B) :
    (State.loadTimers m s).outside B = s.outside B := State.outside_mono hB (by
  unfold State.loadTimers
  split <;> rfl)
@[simp] theorem State.loadIdentity_frame (slot : Bool) (m : SparseBytes) (s : State) {B : Nat} (hB :
    B ||| 0x80001 = B) : (State.loadIdentity slot m s).outside B = s.outside B := State.outside_mono hB rfl
@[simp] theorem State.loadImage_frame (slot : Bool) (m : SparseBytes) (s : State) {B : Nat} (hB :
    B ||| 0xb3871 = B) : (State.loadImage slot m s).outside B = s.outside B := State.outside_mono hB (by
  unfold State.loadImage
  repeat' (first | (intro _; intros) | (with_reducible refine fold_frame _ _ _ _ ?_ ?_) | simp (disch := decide)))
@[simp] theorem State.slotFails_frame (s : State) {B : Nat} (hB : B ||| 0x180011 = B) :
    (State.slotFails s).outside B = s.outside B := State.outside_mono hB (by
  unfold State.slotFails
  split <;> simp (disch := decide))
@[simp] theorem State.takeSlot_frame (slot : Bool) (image : SparseBytes) (s : State) {B : Nat} (hB :
    B ||| 0x1b3871 = B) : (State.takeSlot slot image s).outside B = s.outside B := State.outside_mono hB (by
  unfold State.takeSlot
  dsimp only
  split <;> simp (disch := decide))
theorem execImageLoadEnd_frame (image : SparseBytes) (s : State) :
    Res.frames 0x1b387b (execImageLoadEnd image s) (s.outside 0x1b387b) := by
  unfold execImageLoadEnd
  repeat' (first
    | with_reducible rfl | (intro _; intros) | (with_reducible refine next_frame _ _ ?_)
    | (with_reducible refine onlyIf_frame _ _ _ _ ?_ ?_) | split | simp (disch := decide))
theorem execSerialSectorReerase_frame (sector : Nat) (s : State) :
    Res.frames 0x18000b (execSerialSectorReerase sector s) (s.outside 0x18000b) := onlyIf_frame _ _ _ _ rfl (fun _ =>
    by simp (disch := decide))
theorem execWasterTableBuild_frame (s : State) :
    Res.frames 0x100091 (execWasterTableBuild s) (s.outside 0x100091) := by
  unfold execWasterTableBuild
  repeat' (first
    | with_reducible rfl | (intro _; intros) | (with_reducible refine onlyIf_frame _ _ _ _ ?_ ?_)
    | (with_reducible refine fold_frame _ _ _ _ ?_ ?_) | simp (disch := decide))
theorem execCalibrationRestore_frame (s : State) :
    Res.frames 0x4401 (execCalibrationRestore s) (s.outside 0x4401) := by
  unfold execCalibrationRestore
  repeat' (first
    | with_reducible rfl | (intro _; intros) | (with_reducible refine onlyIf_frame _ _ _ _ ?_ ?_) | split
    | (with_reducible refine fold_frame _ _ _ _ ?_ ?_) | simp (disch := decide))
@[simp] theorem State.checkDone_frame (lun : Nat) (good ext : Bool) (s : State) {B : Nat} (hB : B ||| 0x3000 = B) :
    (State.checkDone lun good ext s).outside B = s.outside B := State.outside_mono hB rfl
theorem execDieCheck_frame (lun : Nat) (id : List Byte) (ext : Byte) (s : State) :
    Res.frames 0xb3f79c (execDieCheck lun id ext s) (s.outside 0xb3f79c) := by
  unfold execDieCheck
  split
  · exact next_frame _ _ rfl
  · extract_lets before base
    split
    · split
      split
      refine runRes_frame _ _ (fun t h => ?_)
      obtain ⟨x, -, h⟩ := Option.bind_eq_some_iff.mp h
      dsimp only at h
      obtain ⟨y, -, rfl⟩ := Option.map_eq_some_iff.mp h
      split <;> simp (disch := decide)
    · exact next_frame _ _ rfl
@[simp] theorem State.placeTemps_frame (s : State) {B : Nat} (hB : B ||| 0x1000 = B) :
    (State.placeTemps s).outside B = s.outside B := State.outside_mono hB (by
  unfold State.placeTemps
  repeat' (first
    | with_reducible rfl | (intro _; intros) | split | (with_reducible refine fold_frame _ _ _ _ ?_ ?_)
    | simp (disch := decide)))
@[simp] theorem State.placePatrol_frame (l : Nat) (s : State) {B : Nat} (hB : B ||| 0x1000 = B) :
    (State.placePatrol l s).outside B = s.outside B := State.outside_mono hB (by
  unfold State.placePatrol
  split <;> rfl)
@[simp] theorem State.becomeReady_frame (s : State) {B : Nat} (hB : B ||| 0x140d = B) :
    (State.becomeReady s).outside B = s.outside B := State.outside_mono hB (by
  unfold State.becomeReady
  repeat' (first
    | (intro _; intros) | split | (with_reducible refine fold_frame _ _ _ _ ?_ ?_) | simp (disch := decide)))
theorem execStartUpReady_frame (s : State) :
    Res.frames 0x140d (execStartUpReady s) (s.outside 0x140d) := onlyIf_frame _ _ _ _ rfl (fun _ => by simp (disch :=
    decide))

/-! ## Resets -/

@[simp] theorem State.cutHcp_frame (s : State) {B : Nat} (hB : B ||| 0x80002 = B) :
    (State.cutHcp s).outside B = s.outside B := State.outside_mono hB (by
  unfold State.cutHcp
  split <;> rfl)
@[simp] theorem State.coldReset_frame (s : State) {B : Nat} (hB : B ||| 0xbfffff = B) :
    s.coldReset.outside B = s.outside B := State.outside_mono hB (by
  unfold State.coldReset
  have h := fun r => State.disturb_frame r s.cutHcp (B := 0xbfffff) (by decide)
  have k := State.cutHcp_frame s (B := 0xbfffff) (by decide)
  simp only [State.outside, State.mk.injEq] at h k
  dsimp only
  split
  · rename_i r hr
    have h1 := h r
    simp only [State.outside, State.mk.injEq]
    simp_all [Nat.testBit]
  · simp only [State.outside, State.mk.injEq]
    simp_all [Nat.testBit])
theorem execColdResetAssert_frame (s : State) :
    Res.frames 0xbfffff (execColdResetAssert s) (s.outside 0xbfffff) := next_frame _ _ (by simp (disch := decide))
theorem execCoreRailLoss_frame (s : State) : Res.frames 0xbfffff (execCoreRailLoss s) (s.outside 0xbfffff) := by
  refine onlyIf_frame _ _ _ _ rfl (fun _ => ?_)
  dsimp only
  split <;> simp (disch := decide)
@[simp] theorem State.beginStart_frame (straps : BitVec 11) (s : State) {B : Nat} (hB : B ||| 0x80021 = B) :
    (State.beginStart straps s).outside B = s.outside B := State.outside_mono hB (by simp (disch := decide)
    [State.beginStart])
theorem execColdStart_frame (straps : BitVec 11) (s : State) :
    Res.frames 0x80021 (execColdStart straps s) (s.outside 0x80021) := onlyIf_frame _ _ _ _ rfl (fun _ => by simp
    (disch := decide))
theorem execAonReset_frame (s : State) : Res.frames 0x70 (execAonReset s) (s.outside 0x70) := next_frame _ _ rfl
@[simp] theorem State.warmHdp_frame (s : State) {B : Nat} (hB : B ||| 0x8 = B) :
    (State.warmHdp s).outside B = s.outside B := State.outside_mono hB rfl
@[simp] theorem State.restartDma_frame (ix : Nat) (s : State) {B : Nat} (hB : B ||| 0x200080 = B) :
    (State.restartDma ix s).outside B = s.outside B := State.outside_mono hB (by
  unfold State.restartDma
  repeat' split
  all_goals rfl)
@[simp] theorem State.warmDma_frame (s : State) {B : Nat} (hB : B ||| 0xa00000 = B) :
    (State.warmDma s).outside B = s.outside B := State.outside_mono hB (by
  unfold State.warmDma
  dsimp only
  split <;> simp (disch := decide))
@[simp] theorem State.cutGrant_frame (s : State) (g : Grant) {B : Nat} (hB : B ||| 0x1000 = B) :
    (State.cutGrant s g).outside B = s.outside B := State.outside_mono hB (by
  unfold State.cutGrant
  split <;> rfl)
@[simp] theorem State.warmGrants_frame (s : State) {B : Nat} (hB : B ||| 0x803100 = B) :
    (State.warmGrants s).outside B = s.outside B := State.outside_mono hB (by
  unfold State.warmGrants
  repeat' (first
    | with_reducible rfl | (intro _; intros) | (with_reducible refine fold_frame _ _ _ _ ?_ ?_)
    | simp (disch := decide)))
@[simp] theorem State.warmPool_frame (s : State) {B : Nat} (hB : B ||| 0x10300 = B) :
    (State.warmPool s).outside B = s.outside B := State.outside_mono hB rfl
@[simp] theorem State.resetTrainees_frame (k : Nat) (s : State) {B : Nat} (hB : B ||| 0x1000 = B) :
    (State.resetTrainees k s).outside B = s.outside B := State.outside_mono hB (by
  unfold State.resetTrainees
  repeat' (first
    | with_reducible rfl | (intro _; intros) | (with_reducible refine fold_frame _ _ _ _ ?_ ?_)
    | simp (disch := decide)))
@[simp] theorem State.warmCal_frame (s : State) {B : Nat} (hB : B ||| 0x1400 = B) :
    (State.warmCal s).outside B = s.outside B := State.outside_mono hB (foldl_frame _ _ (fun _ _ => by simp (disch :=
    decide)) _)
@[simp] theorem State.warmAssert_frame (s : State) {B : Nat} (hB : B ||| 0xab379f = B) :
    (s.warmAssert).outside B = s.outside B := State.outside_mono hB (by
  unfold State.warmAssert
  dsimp only
  simp (disch := decide) only [State.onLdg_frame, State.onSpm_frame, State.onRly_frame, State.onHif_frame, State.onIrq_frame, State.onSys_frame,
    State.warmCal_frame, State.warmPool_frame, State.warmGrants_frame, State.warmDma_frame, State.warmHdp_frame]
  exact fold_frame _ _ _ _ (State.cutHcp_frame _ (by decide)) (fun t a => by simp (disch := decide)))
theorem execWarmResetAssert_frame (s : State) : Res.frames 0xbfffff (execWarmResetAssert s) (s.outside 0xbfffff) := by
  unfold execWarmResetAssert
  repeat' split
  all_goals exact next_frame _ _ (by simp (disch := decide))
@[simp] theorem State.warmSpm_frame (suspended : Bool) (s : State) {B : Nat} (hB : B ||| 0x3a3598 = B) :
    (State.warmSpm suspended s).outside B = s.outside B := State.outside_mono hB (by
  unfold State.warmSpm
  repeat' (first | split | simp (disch := decide)))
@[simp] theorem State.walkBegins_frame (s : State) {B : Nat} (hB : B ||| 0x80 = B) :
    (State.walkBegins s).outside B = s.outside B := State.outside_mono hB rfl
@[simp] theorem State.replayWalk_frame (s : State) {B : Nat} (hB : B ||| 0x323788 = B) :
    (State.replayWalk s).outside B = s.outside B := State.outside_mono hB (by
  unfold State.replayWalk
  repeat' (first
    | with_reducible rfl | (intro _; intros) | split | (with_reducible refine fold_frame _ _ _ _ ?_ ?_)
    | simp (disch := decide)))
@[simp] theorem State.warmStart_frame (ecc : Ecc) (suspended : Bool) (s : State) {B : Nat} (hB :
    B ||| 0x3a37bd = B) : (State.warmStart ecc suspended s).outside B = s.outside B := State.outside_mono hB (by
  unfold State.warmStart
  repeat' (first
    | (intro _; intros) | split | (with_reducible refine fold_frame _ _ _ _ ?_ ?_) | simp (disch := decide)))
theorem execWarmResetDeassert_frame (ecc : Ecc) (suspended : Bool) (s : State) :
    Res.frames 0x3a37bd (execWarmResetDeassert ecc suspended s) (s.outside 0x3a37bd) := by
  refine onlyIf_frame _ _ _ _ rfl (fun _ => ?_)
  repeat' split
  all_goals simp (disch := decide)

/-! ## Power -/

@[simp] theorem State.aonEdge_frame (s : State) {B : Nat} (hB : B ||| 0x70 = B) :
    (State.aonEdge s).outside B = s.outside B := State.outside_mono hB rfl
@[simp] theorem State.noteIdle_frame (s : State) {B : Nat} (hB : B ||| 0x20 = B) :
    (State.noteIdle s).outside B = s.outside B := State.outside_mono hB rfl
@[simp] theorem State.noteTick_frame (before : Ns) (s : State) {B : Nat} (hB : B ||| 0x40 = B) :
    (State.noteTick before s).outside B = s.outside B := State.outside_mono hB rfl
@[simp] theorem State.tick_frame (s : State) {B : Nat} (hB : B ||| 0x70 = B) :
    (State.tick s).outside B = s.outside B := State.outside_mono hB (by
  unfold State.tick
  repeat' (first | split | simp (disch := decide)))
theorem execPaceWindowEnd_frame (crossings : Nat) (s : State) :
    Res.frames 0x800040 (execPaceWindowEnd crossings s) (s.outside 0x800040) := by
  unfold execPaceWindowEnd
  repeat' (first
    | with_reducible rfl | (intro _; intros) | (with_reducible refine onlyIf_frame _ _ _ _ ?_ ?_) | split
    | simp (disch := decide) | (simp (disch := decide); done))
theorem execTimeAlarmFire_frame (s : State) :
    Res.frames 0x70 (execTimeAlarmFire s) (s.outside 0x70) := onlyIf_frame _ _ _ _ rfl (fun _ => by simp (disch :=
    decide))
theorem execTimeCompensation_frame (s : State) :
    Res.frames 0x44 (execTimeCompensation s) (s.outside 0x44) := onlyIf_frame _ _ _ _ rfl (fun _ => rfl)
theorem execTimeAonCorrection_frame (s : State) :
    Res.frames 0x70 (execTimeAonCorrection s) (s.outside 0x70) := onlyIf_frame _ _ _ _ rfl (fun _ => rfl)
@[simp] theorem State.sleepAborted_frame (unit : Nat) (s : State) {B : Nat} (hB : B ||| 0x30 = B) :
    (State.sleepAborted unit s).outside B = s.outside B := State.outside_mono hB rfl
theorem execSoakEntry_frame (wakeDuringPrepare : Bool) (refuses : Option Nat) (s : State) :
    Res.frames 0x30 (execSoakEntry wakeDuringPrepare refuses s) (s.outside 0x30) := by
  refine onlyIf_frame _ _ _ _ rfl (fun _ => ?_)
  repeat' split
  all_goals simp (disch := decide)
theorem execBankEntry_frame (s : State) :
    Res.frames 0x20 (execBankEntry s) (s.outside 0x20) := onlyIf_frame _ _ _ _ rfl (fun _ => rfl)
theorem execEmberEntry_frame (s : State) :
    Res.frames 0x60 (execEmberEntry s) (s.outside 0x60) := onlyIf_frame _ _ _ _ rfl (fun _ => rfl)
theorem execColdEntry_frame (s : State) :
    Res.frames 0x3fffff (execColdEntry s) (s.outside 0x3fffff) := onlyIf_frame _ _ _ _ rfl (fun _ => rfl)
theorem execWakeEvent_frame (cause : Wake) (s : State) :
    Res.frames 0x30 (execWakeEvent cause s) (s.outside 0x30) := onlyIf_frame _ _ _ _ rfl (fun _ => by split <;> simp
    (disch := decide))
theorem execWakeIn_frame (s : State) :
    Res.frames 0x30 (execWakeIn s) (s.outside 0x30) := onlyIf_frame _ _ _ _ rfl (fun _ => by simp (disch := decide))
theorem execWatcherWake_frame (cause : Wake) (s : State) :
    Res.frames 0x20 (execWatcherWake cause s) (s.outside 0x20) := onlyIf_frame _ _ _ _ rfl (fun _ => rfl)
theorem execPwrAckRise_frame (s : State) :
    Res.frames 0x20 (execPwrAckRise s) (s.outside 0x20) := onlyIf_frame _ _ _ _ rfl (fun _ => rfl)
@[simp] theorem State.restoreArea_frame (a : Save) (s : State) {B : Nat} (hB : B ||| 0x3fa7f5 = B) :
    (State.restoreArea a s).outside B = s.outside B := State.outside_mono hB rfl
theorem execColdExitRestore_frame (s : State) : Res.frames 0x3fa7f5 (execColdExitRestore s) (s.outside 0x3fa7f5) := by
  unfold execColdExitRestore
  repeat' (first
    | with_reducible rfl | (intro _; intros) | (with_reducible refine next_frame _ _ ?_)
    | (with_reducible refine onlyIf_frame _ _ _ _ ?_ ?_) | split | simp (disch := decide))
@[simp] theorem State.exitEnds_frame (s : State) {B : Nat} (hB : B ||| 0x3c = B) :
    (State.exitEnds s).outside B = s.outside B := State.outside_mono hB (by
  unfold State.exitEnds
  repeat' (first | split | simp (disch := decide)))
@[simp] theorem State.padRelease_frame (s : State) {B : Nat} (hB : B ||| 0x420 = B) :
    (State.padRelease s).outside B = s.outside B := State.outside_mono hB (by
  unfold State.padRelease
  repeat' (first
    | with_reducible rfl | (intro _; intros) | split | (with_reducible refine fold_frame _ _ _ _ ?_ ?_)
    | simp (disch := decide)))
theorem execPadRelease_frame (data : Word) (s : State) :
    Res.frames 0x422 (execPadRelease data s) (s.outside 0x422) := by
  unfold execPadRelease
  repeat' (first
    | with_reducible assumption | with_reducible rfl | (intro _; intros)
    | (with_reducible refine hcpAccess_frame (by decide) _ _ _ ?_ ?_) | split | simp (disch := decide))

/-! ## Hcp -/

@[simp] theorem State.writeHif_frame (o : Nat) (v : Word) (s : State) {B : Nat} (hB : B ||| 0x2c = B) :
    (s.writeHif o v).outside B = s.outside B := State.outside_mono hB (by
  unfold State.writeHif
  try dsimp only
  repeat' (with_reducible refine ite_frame _ _ _ _ ?_ ?_)
  all_goals first
    | with_reducible rfl
    | (simp (disch := decide); done)
    | (refine State.actionWrite_frame (by decide) _ _ _ _ ?_; simp (disch := decide); done)
    | (split <;> simp (disch := decide))
    | (try dsimp only; repeat' (with_reducible refine ite_frame _ _ _ _ ?_ ?_)
       all_goals first | with_reducible rfl | (simp (disch := decide); done) | (split <;> simp (disch := decide))))
@[simp] theorem State.writeIrq_frame (o : Nat) (v : Word) (s : State) {B : Nat} (hB : B ||| 0x10 = B) :
    (State.writeIrq o v s).outside B = s.outside B := State.outside_mono hB (by
  unfold State.writeIrq
  repeat' split
  all_goals rfl)
@[simp] theorem State.writePwr_frame (o : Nat) (v : Word) (s : State) {B : Nat} (hB : B ||| 0x420 = B) :
    (State.writePwr o v s).outside B = s.outside B := State.outside_mono hB (by
  unfold State.writePwr
  repeat' split
  all_goals simp (disch := decide))
@[simp] theorem State.writeTime_frame (o : Nat) (v : Word) (s : State) {B : Nat} (hB : B ||| 0x40 = B) :
    (State.writeTime o v s).outside B = s.outside B := State.outside_mono hB rfl
@[simp] theorem State.writeLdg_frame (o : Nat) (v : Word) (s : State) {B : Nat} (hB : B ||| 0x80 = B) :
    (State.writeLdg o v s).outside B = s.outside B := State.outside_mono hB rfl
@[simp] theorem State.writePool_frame (o : Nat) (v : Word) (s : State) {B : Nat} (hB : B ||| 0x120 = B) :
    (State.writePool o v s).outside B = s.outside B := State.outside_mono hB (by
  unfold State.writePool
  repeat' (first
    | with_reducible rfl | (with_reducible refine State.actionWrite_frame (by decide) _ _ _ _ ?_) | split
    | simp (disch := decide)))
@[simp] theorem State.writeDec_frame (o : Nat) (v : Word) (s : State) {B : Nat} (hB : B ||| 0x200 = B) :
    (State.writeDec o v s).outside B = s.outside B := State.outside_mono hB rfl
@[simp] theorem State.writeCal_frame (o : Nat) (v : Word) (s : State) {B : Nat} (hB : B ||| 0x1400 = B) :
    (s.writeCal o v).outside B = s.outside B := State.outside_mono hB (by
  unfold State.writeCal
  try dsimp only
  repeat' (with_reducible refine ite_frame _ _ _ _ ?_ ?_)
  all_goals first
    | with_reducible rfl
    | (simp (disch := decide); done)
    | (refine State.actionWrite_frame (by decide) _ _ _ _ ?_; simp (disch := decide); done)
    | (split <;> simp (disch := decide))
    | (try dsimp only; repeat' (with_reducible refine ite_frame _ _ _ _ ?_ ?_)
       all_goals first | with_reducible rfl | (simp (disch := decide); done) | (split <;> simp (disch := decide))))
@[simp] theorem State.writeChe_frame (c o : Nat) (v : Word) (s : State) {B : Nat} (hB : B ||| 0x2000 = B) :
    (State.writeChe c o v s).outside B = s.outside B := State.outside_mono hB (by
  unfold State.writeChe
  split <;> rfl)
@[simp] theorem State.writeSched_frame (o : Nat) (v : Word) (s : State) {B : Nat} (hB : B ||| 0x10000 = B) :
    (State.writeSched o v s).outside B = s.outside B := State.outside_mono hB rfl
@[simp] theorem State.writeRly_frame (o : Nat) (v : Word) (s : State) {B : Nat} (hB : B ||| 0x20000 = B) :
    (State.writeRly o v s).outside B = s.outside B := State.outside_mono hB rfl
@[simp] theorem State.commitFree_frame (v : Word) (s : State) {B : Nat} (hB : B ||| 0x980018 = B) :
    (State.commitFree v s).outside B = s.outside B := State.outside_mono hB (by simp (disch := decide)
    [State.commitFree])
@[simp] theorem State.writeOpCmd_frame (v : Word) (s : State) {B : Nat} (hB : B ||| 0x980018 = B) :
    (State.writeOpCmd v s).outside B = s.outside B := State.outside_mono hB (by
  unfold State.writeOpCmd
  repeat' split
  all_goals simp (disch := decide))
@[simp] theorem State.writeSpm_frame (o : Nat) (v : Word) (s : State) {B : Nat} (hB : B ||| 0x980038 = B) :
    (State.writeSpm o v s).outside B = s.outside B := State.outside_mono hB (by
  unfold State.writeSpm
  repeat' (first
    | with_reducible rfl | (with_reducible refine State.actionWrite_frame (by decide) _ _ _ _ ?_) | split
    | simp (disch := decide)))
@[simp] theorem State.writeNvs_frame (o : Nat) (v : Word) (s : State) {B : Nat} (hB : B ||| 0x100000 = B) :
    (State.writeNvs o v s).outside B = s.outside B := State.outside_mono hB rfl
@[simp] theorem State.writePsp_frame (o : Nat) (v : Word) (s : State) {B : Nat} (hB : B ||| 0x40000 = B) :
    (State.writePsp o v s).outside B = s.outside B := State.outside_mono hB rfl
@[simp] theorem State.onLeg_frame (f : Legacy → Legacy) (s : State) {B : Nat} (hB : B ||| 0x200000 = B) :
    (State.onLeg f s).outside B = s.outside B := State.outside_mono hB rfl
@[simp] theorem State.writeDma_frame (o : Nat) (v : Word) (s : State) {B : Nat} (hB : B ||| 0xb235a8 = B) :
    (State.writeDma o v s).outside B = s.outside B := State.outside_mono hB (by
  unfold State.writeDma
  repeat' (first
    | with_reducible rfl | (with_reducible refine State.actionWrite_frame (by decide) _ _ _ _ ?_) | split
    | simp (disch := decide)))
@[simp] theorem State.writeReg_frame (o : Nat) (v : Word) (s : State) {B : Nat} (hB : B ||| 0xbf37fc = B) :
    (s.writeReg o v).outside B = s.outside B := State.outside_mono hB (by
  unfold State.writeReg
  try dsimp only
  repeat' (with_reducible refine ite_frame _ _ _ _ ?_ ?_)
  all_goals first
    | with_reducible rfl
    | (simp (disch := decide); done)
    | (refine State.actionWrite_frame (by decide) _ _ _ _ ?_; simp (disch := decide); done)
    | (split <;> simp (disch := decide))
    | (try dsimp only; repeat' (with_reducible refine ite_frame _ _ _ _ ?_ ?_)
       all_goals first | with_reducible rfl | (simp (disch := decide); done) | (split <;> simp (disch := decide))))
@[simp] theorem State.readEffect_frame (o : Nat) (s : State) {B : Nat} (hB : B ||| 0x1f67e4 = B) :
    (s.readEffect o).outside B = s.outside B := State.outside_mono hB (by
  unfold State.readEffect
  try dsimp only
  repeat' (with_reducible refine ite_frame _ _ _ _ ?_ ?_)
  all_goals first
    | with_reducible rfl
    | (simp (disch := decide); done)
    | (refine State.actionWrite_frame (by decide) _ _ _ _ ?_; simp (disch := decide); done)
    | (split <;> simp (disch := decide))
    | (try dsimp only; repeat' (with_reducible refine ite_frame _ _ _ _ ?_ ?_)
       all_goals first | with_reducible rfl | (simp (disch := decide); done) | (split <;> simp (disch := decide))))
@[simp] theorem State.readAccess_frame (o : Nat) (s : State) {B : Nat} (hB : B ||| 0x1f67e6 = B) :
    (State.readAccess o s).outside B = s.outside B := State.outside_mono hB (by simp (disch := decide)
    [State.readAccess])
@[simp] theorem State.windowWrite_frame (s : State) {B : Nat} (hB : B ||| 0x2 = B) :
    (State.windowWrite s).outside B = s.outside B := State.outside_mono hB rfl
@[simp] theorem State.serveNow_frame (write : Bool) (off : BitVec 16) (v : Word) (s : State) {B : Nat} (hB :
    B ||| 0xbf77fe = B) : (State.serveNow write off v s).outside B = s.outside B := State.outside_mono hB (by
  unfold State.serveNow
  repeat' split
  all_goals simp (disch := decide))
theorem execHcpAccessInReset_frame (_write : Bool) (_off : BitVec 16) (_data : Word) (s : State) :
    Res.frames 0x2 (execHcpAccessInReset _write _off _data s) (s.outside 0x2) := onlyIf_frame _ _ _ _ rfl (fun _ =>
    rfl)
theorem execHcpAccessInSleep_frame (_write : Bool) (_off : BitVec 16) (_data : Word) (s : State) :
    Res.frames 0x2 (execHcpAccessInSleep _write _off _data s) (s.outside 0x2) := onlyIf_frame _ _ _ _ rfl (fun _ =>
    rfl)
theorem execHcpAccessInBank_frame (write : Bool) (off : BitVec 16) (data : Word) (s : State) :
    Res.frames 0x22 (execHcpAccessInBank write off data s) (s.outside 0x22) := onlyIf_frame _ _ _ _ rfl (fun _ => by
    simp (disch := decide))
theorem execRegisterWrite_frame (off : BitVec 16) (data : Word) (s : State) :
    Res.frames 0xbf37fe (execRegisterWrite off data s) (s.outside 0xbf37fe) := by
  unfold execRegisterWrite
  repeat' (first
    | with_reducible assumption | with_reducible rfl | (intro _; intros)
    | (with_reducible refine hcpAccess_frame (by decide) _ _ _ ?_ ?_) | split | simp (disch := decide))
theorem execRcRegisterRead_frame (off : BitVec 16) (s : State) :
    Res.frames 0x1f67e6 (execRcRegisterRead off s) (s.outside 0x1f67e6) := by
  unfold execRcRegisterRead
  repeat' (first
    | with_reducible assumption | with_reducible rfl | (intro _; intros)
    | (with_reducible refine hcpAccess_frame (by decide) _ _ _ ?_ ?_) | split | simp (disch := decide))
theorem execTimeCaptureRead_frame (aon : Bool) (s : State) :
    Res.frames 0x1f67e6 (execTimeCaptureRead aon s) (s.outside 0x1f67e6) := hcpAccess_frame (by decide) _ _ _ rfl
    (fun _ h => by simp (disch := decide) [h])
theorem execXipRead_frame (off : BitVec 16) (s : State) :
    Res.frames 0x80002 (execXipRead off s) (s.outside 0x80002) := by
  unfold execXipRead
  repeat' (first
    | with_reducible assumption | with_reducible rfl | (intro _; intros)
    | (with_reducible refine hcpAccess_frame (by decide) _ _ _ ?_ ?_) | split | simp (disch := decide))
theorem execXipWrite_frame (off : BitVec 16) (_data : Word) (s : State) :
    Res.frames 0x2 (execXipWrite off _data s) (s.outside 0x2) := by
  unfold execXipWrite
  repeat' (first
    | with_reducible assumption | with_reducible rfl | (intro _; intros)
    | (with_reducible refine hcpAccess_frame (by decide) _ _ _ ?_ ?_) | split | simp (disch := decide))
theorem execXipBaseWrite_frame (data : Word) (s : State) :
    Res.frames 0x80002 (execXipBaseWrite data s) (s.outside 0x80002) := hcpAccess_frame (by decide) _ _ _ rfl (fun _
    h => by simp (disch := decide) [h])
theorem execSpmProgram_frame (data : Word) (s : State) :
    Res.frames 0x18003a (execSpmProgram data s) (s.outside 0x18003a) := spmCmd_frame _ _ _ _
theorem execSpmErase_frame (data : Word) (s : State) :
    Res.frames 0x18003a (execSpmErase data s) (s.outside 0x18003a) := spmCmd_frame _ _ _ _
theorem execSpmCommit_frame (data : Word) (image : SparseBytes) (s : State) :
    Res.frames 0x18003a (execSpmCommit data image s) (s.outside 0x18003a) := spmCmd_frame _ _ _ _
theorem execIrqSrcClr_frame (data : Word) (s : State) :
    Res.frames 0x12 (execIrqSrcClr data s) (s.outside 0x12) := hcpAccess_frame (by decide) _ _ _ rfl (fun _ h => by
    simp (disch := decide) [h])
theorem execIrqPendWrite_frame (hi : Bool) (data : Word) (s : State) :
    Res.frames 0x12 (execIrqPendWrite hi data s) (s.outside 0x12) := hcpAccess_frame (by decide) _ _ _ rfl (fun _ h
    => by simp (disch := decide) [h])
theorem execIrqMaskWrite_frame (n : Nat) (hi : Bool) (data : Word) (s : State) :
    Res.frames 0x12 (execIrqMaskWrite n hi data s) (s.outside 0x12) := hcpAccess_frame (by decide) _ _ _ rfl (fun _ h
    => by simp (disch := decide) [h])
theorem execWakeEnWrite_frame (data : Word) (s : State) :
    Res.frames 0x12 (execWakeEnWrite data s) (s.outside 0x12) := hcpAccess_frame (by decide) _ _ _ rfl (fun _ h => by
    simp (disch := decide) [h])
@[simp] theorem State.serveWithheld_frame (s : State) {B : Nat} (hB : B ||| 0xbf77fe = B) :
    (State.serveWithheld s).outside B = s.outside B := State.outside_mono hB (by
  unfold State.serveWithheld
  split <;> simp (disch := decide))
theorem execSleepExitComplete_frame (s : State) :
    Res.frames 0xbf77fe (execSleepExitComplete s) (s.outside 0xbf77fe) := onlyIf_frame _ _ _ _ rfl (fun _ => by simp
    (disch := decide))

/-! ## Jtag -/

theorem execJtagReset_frame (s : State) :
    Res.frames 0x400000 (execJtagReset s) (s.outside 0x400000) := next_frame _ _ rfl
theorem execJtagBypass_frame (tdi : Bool) (s : State) :
    Res.frames 0x400000 (execJtagBypass tdi s) (s.outside 0x400000) := next_frame _ _ rfl
theorem execJtagIdcode_frame (s : State) :
    Res.frames 0x400000 (execJtagIdcode s) (s.outside 0x400000) := next_frame _ _ rfl
theorem execJtagSamplePreload_frame (pins preload : List Bool) (s : State) :
    Res.frames 0x400000 (execJtagSamplePreload pins preload s) (s.outside 0x400000) := next_frame _ _ rfl
theorem execJtagExtest_frame (pins shift : List Bool) (s : State) :
    Res.frames 0x400000 (execJtagExtest pins shift s) (s.outside 0x400000) := next_frame _ _ rfl

end Sys2Proof.Machine
end

