-- ==== Sys2Proof/Laws/Keep.lean ====
section
/-! SUPPORT. What keeps the driver's settings (State.settings, Sys2Proof/Safety.lean): one lemma for each field's update, for
folds and for the forms of a meaning. `f_keeps` says that `f` leaves the settings as they are. -/

namespace Sys2Proof.Machine

/-- What an index holds after `SMap.set`. -/
theorem SMap.get?_set {α : Type} (k i : Nat) (v : α) : (m : SMap α) →
    SMap.get? (SMap.set m k v) i = if k = i then some v else SMap.get? m i
  | [] => rfl
  | (j, w) :: r => by
    unfold SMap.set
    split
    · rfl
    · split
      · simp_all only [SMap.get?]; split <;> rfl
      · simp only [SMap.get?, SMap.get?_set k i v r]
        split <;> split <;> simp_all

/-- An upset leaves the step as it reads (R305): only its parity no longer agrees. -/
@[simp] theorem Sched.upset_set (c : Sched) (n : Nat) : (c.upset n).set = c.set := by
  unfold Sched.upset
  split
  · rfl
  · refine congrArg (fun f => (c.grantMax, c.peek, f)) (funext fun i => ?_)
    simp only [Sched.step, SMap.getD, SMap.get?_set]
    split <;> simp_all

@[simp] theorem State.onSys_keeps (f) (s : State) : (State.onSys f s).settings = s.settings := rfl
@[simp] theorem State.onHcp_keeps (f) (s : State) : (State.onHcp f s).settings = s.settings := rfl
@[simp] theorem State.onHdp_keeps (f) (s : State) : (State.onHdp f s).settings = s.settings := rfl
@[simp] theorem State.onLuns_keeps (f) (s : State) : (State.onLuns f s).settings = s.settings := rfl
@[simp] theorem State.onChe_keeps (f) (s : State) : (State.onChe f s).settings = s.settings := rfl
@[simp] theorem State.onPhy_keeps (f) (s : State) : (State.onPhy f s).settings = s.settings := rfl
@[simp] theorem State.onPairs_keeps (f) (s : State) : (State.onPairs f s).settings = s.settings := rfl
@[simp] theorem State.onFreeCtr_keeps (f) (s : State) : (State.onFreeCtr f s).settings = s.settings := rfl
@[simp] theorem State.onHif_keeps (f : Hif → Hif) (s : State) (h : (f s.hif).set = s.hif.set) :
    (State.onHif f s).settings = s.settings := congrArg (fun x => { s.settings with hif := x }) h
theorem State.onHif_keeps' (f : Hif → Hif) (s : State) (x : Settings) (h : (f s.hif).set = s.hif.set) (k :
    s.settings = x) :
    (State.onHif f s).settings = x := (State.onHif_keeps f s h).trans k
@[simp] theorem State.onIrq_keeps (f : Irq → Irq) (s : State) (h : (f s.irq).set = s.irq.set) :
    (State.onIrq f s).settings = s.settings := congrArg (fun x => { s.settings with irq := x }) h
theorem State.onIrq_keeps' (f : Irq → Irq) (s : State) (x : Settings) (h : (f s.irq).set = s.irq.set) (k :
    s.settings = x) :
    (State.onIrq f s).settings = x := (State.onIrq_keeps f s h).trans k
@[simp] theorem State.onPwr_keeps (f : Pwr → Pwr) (s : State) (h : (f s.pwr).set = s.pwr.set) :
    (State.onPwr f s).settings = s.settings := congrArg (fun x => { s.settings with pwr := x }) h
theorem State.onPwr_keeps' (f : Pwr → Pwr) (s : State) (x : Settings) (h : (f s.pwr).set = s.pwr.set) (k :
    s.settings = x) :
    (State.onPwr f s).settings = x := (State.onPwr_keeps f s h).trans k
@[simp] theorem State.onTime_keeps (f : Time → Time) (s : State) (h : (f s.time).set = s.time.set) :
    (State.onTime f s).settings = s.settings := congrArg (fun x => { s.settings with time := x }) h
theorem State.onTime_keeps' (f : Time → Time) (s : State) (x : Settings) (h : (f s.time).set = s.time.set) (k :
    s.settings = x) :
    (State.onTime f s).settings = x := (State.onTime_keeps f s h).trans k
@[simp] theorem State.onLdg_keeps (f : Ldg → Ldg) (s : State) (h : (f s.ldg).set = s.ldg.set) :
    (State.onLdg f s).settings = s.settings := congrArg (fun x => { s.settings with ldg := x }) h
theorem State.onLdg_keeps' (f : Ldg → Ldg) (s : State) (x : Settings) (h : (f s.ldg).set = s.ldg.set) (k :
    s.settings = x) :
    (State.onLdg f s).settings = x := (State.onLdg_keeps f s h).trans k
@[simp] theorem State.onPool_keeps (f : Pool → Pool) (s : State) (h : (f s.pool).peek = s.pool.peek) :
    (State.onPool f s).settings = s.settings := congrArg (fun x => { s.settings with pool := x }) h
theorem State.onPool_keeps' (f : Pool → Pool) (s : State) (x : Settings) (h : (f s.pool).peek = s.pool.peek) (k :
    s.settings = x) :
    (State.onPool f s).settings = x := (State.onPool_keeps f s h).trans k
@[simp] theorem State.onDec_keeps (f : Dec → Dec) (s : State) (h : (f s.dec).set = s.dec.set) :
    (State.onDec f s).settings = s.settings := congrArg (fun x => { s.settings with dec := x }) h
theorem State.onDec_keeps' (f : Dec → Dec) (s : State) (x : Settings) (h : (f s.dec).set = s.dec.set) (k :
    s.settings = x) :
    (State.onDec f s).settings = x := (State.onDec_keeps f s h).trans k
@[simp] theorem State.onCal_keeps (f : Cal → Cal) (s : State) (h : (f s.cal).set = s.cal.set) :
    (State.onCal f s).settings = s.settings := congrArg (fun x => { s.settings with cal := x }) h
theorem State.onCal_keeps' (f : Cal → Cal) (s : State) (x : Settings) (h : (f s.cal).set = s.cal.set) (k :
    s.settings = x) :
    (State.onCal f s).settings = x := (State.onCal_keeps f s h).trans k
@[simp] theorem State.onSched_keeps (f : Sched → Sched) (s : State) (h : (f s.sched).set = s.sched.set) :
    (State.onSched f s).settings = s.settings := congrArg (fun x => { s.settings with sched := x }) h
theorem State.onSched_keeps' (f : Sched → Sched) (s : State) (x : Settings) (h : (f s.sched).set = s.sched.set) (k :
    s.settings = x) :
    (State.onSched f s).settings = x := (State.onSched_keeps f s h).trans k
@[simp] theorem State.onRly_keeps (f : Rly → Rly) (s : State) (h : (f s.rly).set = s.rly.set) :
    (State.onRly f s).settings = s.settings := congrArg (fun x => { s.settings with rly := x }) h
theorem State.onRly_keeps' (f : Rly → Rly) (s : State) (x : Settings) (h : (f s.rly).set = s.rly.set) (k :
    s.settings = x) :
    (State.onRly f s).settings = x := (State.onRly_keeps f s h).trans k
@[simp] theorem State.onPsp_keeps (f : Psp → Psp) (s : State) (h : (f s.psp).cfg = s.psp.cfg) :
    (State.onPsp f s).settings = s.settings := congrArg (fun x => { s.settings with psp := x }) h
theorem State.onPsp_keeps' (f : Psp → Psp) (s : State) (x : Settings) (h : (f s.psp).cfg = s.psp.cfg) (k :
    s.settings = x) :
    (State.onPsp f s).settings = x := (State.onPsp_keeps f s h).trans k
@[simp] theorem State.onSpm_keeps (f : Spm → Spm) (s : State) (h : (f s.spm).set = s.spm.set) :
    (State.onSpm f s).settings = s.settings := congrArg (fun x => { s.settings with spm := x }) h
theorem State.onSpm_keeps' (f : Spm → Spm) (s : State) (x : Settings) (h : (f s.spm).set = s.spm.set) (k :
    s.settings = x) :
    (State.onSpm f s).settings = x := (State.onSpm_keeps f s h).trans k
@[simp] theorem State.onNvs_keeps (f : Nvs → Nvs) (s : State) (h : (f s.nvs).set = s.nvs.set) :
    (State.onNvs f s).settings = s.settings := congrArg (fun x => { s.settings with nvs := x }) h
theorem State.onNvs_keeps' (f : Nvs → Nvs) (s : State) (x : Settings) (h : (f s.nvs).set = s.nvs.set) (k :
    s.settings = x) :
    (State.onNvs f s).settings = x := (State.onNvs_keeps f s h).trans k
@[simp] theorem State.onDma_keeps (f : Dma → Dma) (s : State) (h : (f s.dma).set = s.dma.set) :
    (State.onDma f s).settings = s.settings := congrArg (fun x => { s.settings with dma := x }) h
theorem State.onDma_keeps' (f : Dma → Dma) (s : State) (x : Settings) (h : (f s.dma).set = s.dma.set) (k :
    s.settings = x) :
    (State.onDma f s).settings = x := (State.onDma_keeps f s h).trans k

theorem foldl_keeps {α : Type} (f : State → α → State) (l : List α) (h : ∀ s a, (f s a).settings = s.settings) (s :
    State) :
    (l.foldl f s).settings = s.settings := fold_leaves State.settings h rfl l

theorem fold_keeps {α : Type} (f : State → α → State) (l : List α) (s : State) (x : Settings) (h : s.settings = x)
    (k : ∀ s a, (f s a).settings = s.settings) : (l.foldl f s).settings = x := fold_leaves State.settings k h l

theorem fold1_keeps {α β : Type} (f : State × β → α → State × β) (l : List α) (p : State × β) (x : Settings)
    (h : p.1.settings = x) (k : ∀ p a, (f p a).1.settings = p.1.settings) : (l.foldl f p).1.settings = x :=
  fold_leaves (fun p : State × β => p.1.settings) k h l


theorem split_var (y : State) (x : Settings) (A : State) (h : y.settings = x) (k : y.settings = x → A.settings = x) :
    A.settings = x := k h

/-- A meaning that answers a next state leaves the settings as `x`. -/
abbrev Res.keeps (r : Res) (x : Settings) : Prop := Res.leaves State.settings r x

theorem next_keeps (s : State) (x : Settings) (h : s.settings = x) : Res.keeps (.next s) x := next_leaves h

theorem fault_keeps (f : Fault) (x : Settings) : Res.keeps (.fault f) x := fault_leaves f

theorem onlyIf_keeps (c : Bool) (f : State → State) (s : State) (x : Settings) (h : s.settings = x)
    (k : s.settings = x → (f s).settings = x) : Res.keeps (onlyIf c f s) x := onlyIf_leaves h k

theorem hcpAccess_keeps (f : State → State) (s : State) (x : Settings) (h : s.settings = x)
    (k : ∀ t, t.settings = x → (f t).settings = x) : Res.keeps (hcpAccess f s) x :=
  onlyIf_keeps _ _ _ _ h (fun h => k _ h)

theorem runRes_keeps (o : Option State) (x : Settings) (h : ∀ t, o = some t → t.settings = x) :
    Res.keeps (runRes o) x :=
  runRes_leaves h

theorem bindFold_keeps {α : Type} (g : α → State → Option State)
    (h : ∀ a s t, g a s = some t → t.settings = s.settings) (l : List α) (o : Option State) (x : Settings)
    (k : ∀ s, o = some s → s.settings = x) : ∀ t, l.foldl (fun o a => o.bind (g a)) o = some t → t.settings = x :=
  bindFold_leaves State.settings h l k

theorem split_res (y : State) (x : Settings) (A : Res) (h : y.settings = x) (k : y.settings = x → Res.keeps A x) :
    Res.keeps A x := k h

end Sys2Proof.Machine
end

