-- ==== Sys2Proof/Laws/KeepOps.lean ====
section
/-! SUPPORT. The settings are kept: the shared operations, the DMA chains and the rings. -/

namespace Sys2Proof.Machine

/-! ## Ops -/

@[simp] theorem State.wake_keeps (cause : Nat) (s : State) : (State.wake cause s).settings = s.settings := by
  unfold State.wake
  repeat' split
  all_goals simp
theorem State.actionWrite_keeps (c : State → Bool) (f : State → State) (s : State) (x : Settings) (_h :
    s.settings = x)
    (k : (f s).settings = x) : (State.actionWrite c f s).settings = x := by
  unfold State.actionWrite
  split
  · rw [State.wake_keeps, k]
  · exact k
theorem hcpAction_keeps (c : State → Bool) (f : State → State) (s : State) (x : Settings) (h : s.settings = x)
    (k : ∀ t, t.settings = x → (f t).settings = x) : Res.keeps (hcpAction c f s) x :=
  hcpAccess_keeps _ _ _ h (fun t ht => State.actionWrite_keeps _ _ _ _ ht (k t ht))
@[simp] theorem State.raise_keeps (n : Nat) (s : State) : (State.raise n s).settings = s.settings := by
  unfold State.raise
  repeat' split
  all_goals simp
@[simp] theorem State.drawFree_keeps (s : State) : s.drawFree.2.settings = s.settings := rfl
@[simp] theorem State.drawBytes_keeps (n : Nat) (s : State) : (s.drawBytes n).2.settings = s.settings := rfl
theorem State.onEvent_keeps (l : Nat) (e : Option Event) (f : State → State) (s : State) (x : Settings)
    (h : s.settings = x) (k : (f s).settings = x) : Res.keeps (s.onEvent l e f) x := by
  unfold State.onEvent
  split
  · exact onlyIf_keeps _ _ _ _ h fun h => (State.wake_keeps _ _).trans h
  · exact onlyIf_keeps _ _ _ _ h fun _ => k
@[simp] theorem State.onUnit_keeps (ix : Nat) (f : LUnit → LUnit) (s : State) :
    (State.onUnit ix f s).settings = s.settings := rfl
@[simp] theorem State.onCmd_keeps (ctx : Nat) (f : Cmd → Cmd) (s : State) :
    (State.onCmd ctx f s).settings = s.settings := rfl
@[simp] theorem State.bumpGen_keeps (ix : Nat) (s : State) : (State.bumpGen ix s).settings = s.settings := rfl
@[simp] theorem State.stale_keeps (s : State) : (State.stale s).settings = s.settings := rfl
@[simp] theorem State.ecc_keeps (e : Ecc) (s : State) : (State.ecc e s).settings = s.settings := by
  unfold State.ecc
  split <;> simp
@[simp] theorem State.hdpRead_keeps (r : HdpRd) (s : State) : (State.hdpRead r s).settings = s.settings := rfl
@[simp] theorem State.hdpWrite_keeps (w : HdpWr) (s : State) : (State.hdpWrite w s).settings = s.settings := rfl
@[simp] theorem State.refill_keeps (s : State) : s.refill.settings = s.settings := by
  unfold State.refill
  split <;> rfl
theorem State.popRead_keeps {p : HdpRd → Bool} {s t : State} {r : HdpRd} (h : s.popRead p = some (r, t)) :
    t.settings = s.settings := by
  simp only [State.popRead, Option.map_eq_some_iff, Prod.mk.injEq] at h
  obtain ⟨a, -, -, rfl⟩ := h
  exact State.refill_keeps _
theorem State.popTag_keeps {tag : Nat} {p : HdpRd → Bool} {s t : State} {r : HdpRd} (h :
    s.popTag tag p = some (r, t)) :
    t.settings = s.settings := State.popRead_keeps h
theorem State.popWrite_keeps {id : Nat} {s t : State} {w : HdpWr} (h : s.popWrite id = some (w, t)) :
    t.settings = s.settings := by
  simp only [State.popWrite, Option.map_eq_some_iff, Prod.mk.injEq] at h
  obtain ⟨a, -, -, rfl⟩ := h; rfl
@[simp] theorem State.hifError_keeps (kind ring addr : Nat) (s : State) :
    (State.hifError kind ring addr s).settings = s.settings := by
  unfold State.hifError
  split <;> simp
@[simp] theorem State.onChan_keeps (c : Nat) (f : Chan → Chan) (s : State) :
    (State.onChan c f s).settings = s.settings := rfl
@[simp] theorem State.onLun_keeps (l : Nat) (f : Lun → Lun) (s : State) :
    (State.onLun l f s).settings = s.settings := rfl
@[simp] theorem State.onPhyOf_keeps (c : Nat) (f : Phy → Phy) (s : State) :
    (State.onPhyOf c f s).settings = s.settings := rfl
@[simp] theorem State.onPair_keeps (k : Nat) (f : Pair → Pair) (s : State) :
    (State.onPair k f s).settings = s.settings := rfl
@[simp] theorem State.onSq_keeps (i : Nat) (f : Sq → Sq) (s : State) : (State.onSq i f s).settings = s.settings := rfl
@[simp] theorem State.onCq_keeps (i : Nat) (f : Cq → Cq) (s : State) : (State.onCq i f s).settings = s.settings := rfl
@[simp] theorem State.onPeck_keeps (p : Nat) (f : Peck → Peck) (s : State) :
    (State.onPeck p f s).settings = s.settings := rfl

/-! ## PoolOps -/

@[simp] theorem State.considerHead_keeps (c : Nat) (s : State) : (State.considerHead c s).settings = s.settings := by
  unfold State.considerHead
  repeat' split
  all_goals simp
@[simp] theorem State.askPecks_keeps (c ix k : Nat) (s : State) :
    (State.askPecks c ix k s).settings = s.settings := by
  unfold State.askPecks
  repeat' split
  all_goals simp
@[simp] theorem State.dropAsks_keeps (c ix : Nat) (s : State) :
    (State.dropAsks c ix s).settings = s.settings := by simp [State.dropAsks]
@[simp] theorem State.release_keeps (ps : List Nat) (s : State) :
    (State.release ps s).settings = s.settings := foldl_keeps _ _ (fun _ _ => by simp) _
@[simp] theorem State.allocPeck_keeps (ix : Nat) (u : LUnit) (sense : Bool) (p cw : Nat) (s : State) :
    (State.allocPeck ix u sense p cw s).settings = s.settings := rfl
@[simp] theorem State.notePecks_keeps (c : Nat) (s : State) : (State.notePecks c s).settings = s.settings := rfl
@[simp] theorem State.givePecks_keeps (ix : Nat) (ps : List Nat) (s : State) :
    (State.givePecks ix ps s).settings = s.settings := by
  unfold State.givePecks
  repeat' (first
    | with_reducible assumption | with_reducible rfl | (intro _; intros)
    | (extract_lets +onlyGivenNames y; first
       | (refine split_var y _ _ ?_ ?_; unfold y; clear y; have y : True := True.intro; rotate_left
          intro hy; clear_value y; have y : True := True.intro; rotate_right)
       | (clear_value y; have y : True := True.intro))
    | split | (with_reducible refine fold_keeps _ _ _ _ ?_ ?_) | simp)
@[simp] theorem State.dropSense_keeps (ix : Nat) (cw : Option Nat) (s : State) :
    (State.dropSense ix cw s).settings = s.settings := by simp [State.dropSense]

/-! ## NvsOps -/

@[simp] theorem State.nvsStart_keeps (s : State) : (State.nvsStart s).settings = s.settings := by
  unfold State.nvsStart
  repeat' (first | rfl | split | simp)
@[simp] theorem State.nvsAsk_keeps (what : NvsWhat) (line : Nat) (data : BitVec 256) (s : State) :
    (State.nvsAsk what line data s).settings = s.settings := by simp [State.nvsAsk]
@[simp] theorem State.nvsMarker_keeps (unit : Option Nat) (kind loc page : Nat) (s : State) :
    (State.nvsMarker unit kind loc page s).settings = s.settings := by simp [State.nvsMarker]
@[simp] theorem State.nvsMarkerAgain_keeps (ix kind loc page : Nat) (s : State) :
    (State.nvsMarkerAgain ix kind loc page s).settings = s.settings := by simp [State.nvsMarkerAgain]
@[simp] theorem State.nvsHealth_keeps (f : Health → Health) (s : State) :
    (State.nvsHealth f s).settings = s.settings := by simp [State.nvsHealth]
@[simp] theorem State.growWaster_keeps (ix : Option Nat) (a : BitVec 64) (cause : Nat) (s : State) :
    (State.growWaster ix a cause s).settings = s.settings := by
  unfold State.growWaster
  repeat' (first | rfl | split | simp)
@[simp] theorem State.wantSnapshot_keeps (s : State) : (State.wantSnapshot s).settings = s.settings := rfl
@[simp] theorem State.autoSnapshot_keeps (s : State) : (State.autoSnapshot s).settings = s.settings := by
  unfold State.autoSnapshot
  split <;> rfl

/-! ## Units -/

@[simp] theorem State.enlist_keeps (ix : Nat) (again : Bool) (s : State) :
    (State.enlist ix again s).settings = s.settings := by
  unfold State.enlist
  repeat' split
  all_goals simp
@[simp] theorem State.prepare_keeps (l : Nat) (s : State) : (State.prepare l s).settings = s.settings := by
  unfold State.prepare
  repeat' (first
    | with_reducible rfl | (intro _; intros)
    | (extract_lets +onlyGivenNames y; first
       | (refine split_var y _ _ ?_ ?_; unfold y; clear y; have y : True := True.intro; rotate_left
          intro hy; clear_value y; have y : True := True.intro; rotate_right)
       | (clear_value y; have y : True := True.intro))
    | split | (with_reducible refine fold_keeps _ _ _ _ ?_ ?_) | simp)
@[simp] theorem State.decideSuspend_keeps (l : Nat) (s : State) :
    (State.decideSuspend l s).settings = s.settings := by
  unfold State.decideSuspend
  repeat' (first | rfl | split | simp)
@[simp] theorem State.placeMerge_keeps (l : Nat) (s : State) : (State.placeMerge l s).settings = s.settings := rfl
@[simp] theorem State.latchResume_keeps (l : Nat) (s : State) : (State.latchResume l s).settings = s.settings := rfl
@[simp] theorem State.headEvent_keeps (l : Nat) (s : State) :
    (State.headEvent l s).settings = s.settings := by simp [State.headEvent]
@[simp] theorem State.withdraw_keeps (l ix : Nat) (s : State) : (State.withdraw l ix s).settings = s.settings := rfl
@[simp] theorem State.unlist_keeps (ix : Nat) (s : State) : (State.unlist ix s).settings = s.settings := by
  unfold State.unlist
  dsimp only
  repeat' split
  all_goals simp
@[simp] theorem State.link_keeps (ix : Nat) (s : State) : (State.link ix s).settings = s.settings := by
  unfold State.link
  repeat' (first | rfl | split | simp)
@[simp] theorem State.linkAgain_keeps (ix : Nat) (s : State) : (State.linkAgain ix s).settings = s.settings := by
  unfold State.linkAgain
  dsimp only
  split <;> simp
@[simp] theorem State.patrolEnded_keeps (u : LUnit) (status : Status) (s : State) :
    (State.patrolEnded u status s).settings = s.settings := by
  unfold State.patrolEnded
  dsimp only [State.drawFree]
  repeat' (first | with_reducible rfl | split | (with_reducible refine State.onCal_keeps' _ _ _ ?_ ?_))
@[simp] theorem State.endUnit_keeps (ix : Nat) (st : UState) (status : Status) (failCw : Nat) (s : State) :
    (State.endUnit ix st status failCw s).settings = s.settings := by
  unfold State.endUnit
  repeat' split
  all_goals simp
@[simp] theorem State.stopAfter_keeps (ctx pos : Nat) (s : State) :
    (State.stopAfter ctx pos s).settings = s.settings := by
  unfold State.stopAfter
  repeat' (first
    | with_reducible assumption | with_reducible rfl | (intro _; intros)
    | (extract_lets +onlyGivenNames y; first
       | (refine split_var y _ _ ?_ ?_; unfold y; clear y; have y : True := True.intro; rotate_left
          intro hy; clear_value y; have y : True := True.intro; rotate_right)
       | (clear_value y; have y : True := True.intro))
    | split | (with_reducible refine fold_keeps _ _ _ _ ?_ ?_) | simp)
@[simp] theorem State.finish_keeps (ix : Nat) (status : Status) (failCw : Nat) (s : State) :
    (State.finish ix status failCw s).settings = s.settings := by
  unfold State.finish
  repeat' split
  all_goals simp
@[simp] theorem State.failWhole_keeps (ctx : Nat) (status : Status) (s : State) :
    (State.failWhole ctx status s).settings = s.settings := by
  unfold State.failWhole
  repeat' (first
    | with_reducible assumption | with_reducible rfl | (intro _; intros)
    | (extract_lets +onlyGivenNames y; first
       | (refine split_var y _ _ ?_ ?_; unfold y; clear y; have y : True := True.intro; rotate_left
          intro hy; clear_value y; have y : True := True.intro; rotate_right)
       | (clear_value y; have y : True := True.intro))
    | split | (with_reducible refine fold_keeps _ _ _ _ ?_ ?_) | simp)
@[simp] theorem State.takeUnit_keeps (ix : Nat) (kind : UKind) (ctx : Option Nat) (pos : Nat) (addr :
    BitVec 64) (sel : BitVec 4) (s : State) : (State.takeUnit ix kind ctx pos addr sel s).settings = s.settings := by
  unfold State.takeUnit
  split <;> rfl

/-! ## Chain -/

@[simp] theorem State.onChain_keeps (id : ChainId) (f : Chain → Chain) (s : State) :
    (State.onChain id f s).settings = s.settings := by
  unfold State.onChain
  cases id <;> exact State.onDma_keeps _ _ rfl
@[simp] theorem State.putOff_keeps (id : ChainId) (f : Failed) (s : State) :
    (State.putOff id f s).settings = s.settings := by simp [State.putOff]
@[simp] theorem State.loseAccess_keeps (f : Failed) (s : State) : (State.loseAccess f s).settings = s.settings := rfl
theorem State.answerGone_keeps (s : State) : Res.keeps s.answerGone s.settings := by
  unfold State.answerGone
  split
  · exact onlyIf_keeps _ _ _ _ rfl fun _ => State.popRead_keeps (by assumption)
  · exact next_keeps _ _ rfl
@[simp] theorem State.chainRead_keeps (id : ChainId) (what : RdWhat) (addr size : Nat) (s : State) :
    (State.chainRead id what addr size s).settings = s.settings := by
  unfold State.chainRead
  repeat' split
  all_goals simp
@[simp] theorem State.chainWrite_keeps (id : ChainId) (what : WrWhat) (addr : Nat) (bytes : List Byte) (s : State) :
    (State.chainWrite id what addr bytes s).settings = s.settings := by
  unfold State.chainWrite
  repeat' split
  all_goals simp
@[simp] theorem State.writeLines_keeps (id : ChainId) (what : Nat → WrWhat) (addr : Nat) (bs : List Byte) (s :
    State) : (State.writeLines id what addr bs s).settings = s.settings := foldl_keeps _ _ (fun _ _ => by simp) _
@[simp] theorem State.writeRun_keeps (id : ChainId) (what : WrWhat) (addr : Nat) (bs : List Byte) (s : State) :
    (State.writeRun id what addr bs s).settings = s.settings := by simp [State.writeRun]
@[simp] theorem State.readSeg_keeps (id : ChainId) (s : State) : (State.readSeg id s).settings = s.settings := by
  unfold State.readSeg
  repeat' split
  all_goals simp
@[simp] theorem State.readLink_keeps (id : ChainId) (a : Nat) (s : State) :
    (State.readLink id a s).settings = s.settings := by
  unfold State.readLink
  repeat' split
  all_goals simp
@[simp] theorem State.writeBacks_keeps (id : ChainId) (s : State) :
    (State.writeBacks id s).settings = s.settings := by
  unfold State.writeBacks
  repeat' (first
    | with_reducible assumption | with_reducible rfl | (intro _; intros)
    | (extract_lets +onlyGivenNames y; first
       | (refine split_var y _ _ ?_ ?_; unfold y; clear y; have y : True := True.intro; rotate_left
          intro hy; clear_value y; have y : True := True.intro; rotate_right)
       | (clear_value y; have y : True := True.intro))
    | split | (with_reducible refine fold_keeps _ _ _ _ ?_ ?_) | simp)
@[simp] theorem State.advance_keeps (id : ChainId) (beyond : Bool) (s : State) :
    (State.advance id beyond s).settings = s.settings := by
  unfold State.advance
  repeat' split
  all_goals simp
@[simp] theorem State.dmaLess_keeps (ix cw n : Nat) (s : State) :
    (State.dmaLess ix cw n s).settings = s.settings := by
  unfold State.dmaLess
  repeat' (first | rfl | split | simp)
@[simp] theorem State.dmaDones_keeps (ctx : Nat) (s : State) : (State.dmaDones ctx s).settings = s.settings := by
  unfold State.dmaDones
  repeat' (first
    | with_reducible rfl | (intro _; intros) | split | (with_reducible refine fold_keeps _ _ _ _ ?_ ?_) | simp)
@[simp] theorem State.pushOne_keeps (id : ChainId) (s : State) (d : Deliver) :
    (State.pushOne id s d).settings = s.settings := by
  unfold State.pushOne
  repeat' (first
    | with_reducible rfl | (intro _; intros) | split | (with_reducible refine fold_keeps _ _ _ _ ?_ ?_)
    | (with_reducible refine State.onDma_keeps' _ _ _ ?_ ?_) | simp)
@[simp] theorem State.pullOne_keeps (id : ChainId) (s : State) (d : Deliver) :
    (State.pullOne id s d).settings = s.settings := by
  unfold State.pullOne
  repeat' (first
    | with_reducible rfl | (intro _; intros) | split | (with_reducible refine fold_keeps _ _ _ _ ?_ ?_) | simp)
@[simp] theorem State.pump_keeps (id : ChainId) (s : State) : (State.pump id s).settings = s.settings := by
  unfold State.pump
  split
  · rfl
  · split
    · rfl
    · have h1 : ∀ t : State, (t.writeBacks id).settings = t.settings := fun t => by simp
      have h2 : ∀ (b : Bool) (t : State), (State.advance id b t).settings = t.settings := fun b t => by simp
      have key : ∀ (l : List Deliver) (c : Bool) (t : State),
          (l.foldl (if c then State.pullOne id else State.pushOne id) t).settings = t.settings := by
        intro l c t
        refine foldl_keeps _ _ ?_ _
        intro a d
        cases c <;> simp
      simp only []
      split <;> simp [key]
@[simp] theorem State.deliver_keeps (id : ChainId) (ix cw off len : Nat) (bytes : List Byte) (s : State) :
    (State.deliver id ix cw off len bytes s).settings = s.settings := by
  unfold State.deliver
  repeat' split
  all_goals simp
@[simp] theorem State.want_keeps (id : ChainId) (ix cw off len : Nat) (s : State) :
    (State.want id ix cw off len s).settings = s.settings := by simp [State.want]
@[simp] theorem State.openChain_keeps (ctx : Nat) (h : Chain) (s : State) :
    (State.openChain ctx h s).settings = s.settings := by simp [State.openChain]
@[simp] theorem State.endShort_keeps (id : ChainId) (s : State) :
    (State.endShort id s).settings = s.settings := by simp [State.endShort]
@[simp] theorem State.closeChain_keeps (ctx : Nat) (s : State) : (State.closeChain ctx s).settings = s.settings := by
  unfold State.closeChain
  repeat' split
  all_goals simp
@[simp] theorem State.haltChain_keeps (ctx : Nat) (f : Failed) (s : State) :
    (State.haltChain ctx f s).settings = s.settings := by
  unfold State.haltChain
  repeat' (first | rfl | split | simp)
@[simp] theorem State.reissue_keeps (s : State) (f : Failed) : (State.reissue s f).settings = s.settings := by
  unfold State.reissue
  repeat' split
  all_goals simp

/-! ## Rings -/

@[simp] theorem State.applyCq_keeps (i : Nat) (e : BitVec 512) (s : State) :
    (State.applyCq i e s).settings = s.settings := by
  unfold State.applyCq
  split <;> rfl
@[simp] theorem State.applySq_keeps (i : Nat) (e : BitVec 512) (s : State) :
    (State.applySq i e s).settings = s.settings := by
  unfold State.applySq
  split <;> rfl
@[simp] theorem State.readTable_keeps (s : State) : (State.readTable s).settings = s.settings := by
  unfold State.readTable
  repeat' (first
    | with_reducible assumption | with_reducible rfl | (intro _; intros)
    | (extract_lets +onlyGivenNames y; first
       | (refine split_var y _ _ ?_ ?_; unfold y; clear y; have y : True := True.intro; rotate_left
          intro hy; clear_value y; have y : True := True.intro; rotate_right)
       | (clear_value y; have y : True := True.intro))
    | split | (with_reducible refine fold_keeps _ _ _ _ ?_ ?_)
    | (with_reducible refine State.onHif_keeps' _ _ _ ?_ ?_) | simp)
@[simp] theorem State.startCycle_keeps (polls : List Nat) (all : Bool) (s : State) :
    (State.startCycle polls all s).settings = s.settings := by
  unfold State.startCycle
  split <;> rfl
@[simp] theorem State.startAgain_keeps (s : State) : (State.startAgain s).settings = s.settings := by
  unfold State.startAgain
  split <;> simp
@[simp] theorem State.applyTable_keeps (s : State) : (State.applyTable s).settings = s.settings := by
  unfold State.applyTable
  extract_lets entry got step1 step2 s1
  have h1 : step1.1.settings = s.settings := by
    unfold step1
    refine fold1_keeps _ _ _ _ rfl (fun p a => ?_)
    split
    · rfl
    · simp
  have h2 : step2.1.settings = s.settings := by
    unfold step2
    refine fold1_keeps _ _ _ _ h1 (fun p a => ?_)
    split
    · rfl
    · simp
  have h3 : s1.settings = s.settings := by
    unfold s1
    exact (State.onHif_keeps _ _ rfl).trans h2
  split
  · simp [h3]
  · simp [h3]
@[simp] theorem State.writeRingCmd_keeps (data : Word) (s : State) :
    (State.writeRingCmd data s).settings = s.settings := by
  unfold State.writeRingCmd
  repeat' split
  all_goals simp
@[simp] theorem State.ringEntryIn_keeps (r : Nat) (e : Option (BitVec 512)) (s : State) :
    (State.ringEntryIn r e s).settings = s.settings := by
  unfold State.ringEntryIn
  repeat' (first
    | with_reducible assumption | with_reducible rfl
    | (extract_lets +onlyGivenNames y; first
       | (refine split_var y _ _ ?_ ?_; unfold y; clear y; have y : True := True.intro; rotate_left
          intro hy; clear_value y; have y : True := True.intro; rotate_right)
       | (clear_value y; have y : True := True.intro))
    | split | (with_reducible refine State.onHif_keeps' _ _ _ ?_ ?_) | simp
    | with_reducible exact State.popRead_keeps (by assumption))
@[simp] theorem State.endCycle_keeps (s : State) : (State.endCycle s).settings = s.settings := by
  unfold State.endCycle
  repeat' split
  all_goals simp
@[simp] theorem State.reOwn_keeps (id : ChainId) (s : State) : (State.reOwn id s).settings = s.settings := by
  unfold State.reOwn
  repeat' split
  all_goals simp
@[simp] theorem State.reRead_keeps (sqs : List Nat) (s : State) : (State.reRead sqs s).settings = s.settings := by
  unfold State.reRead
  repeat' (first
    | with_reducible assumption | with_reducible rfl | (intro _; intros)
    | (extract_lets +onlyGivenNames y; first
       | (refine split_var y _ _ ?_ ?_; unfold y; clear y; have y : True := True.intro; rotate_left
          intro hy; clear_value y; have y : True := True.intro; rotate_right)
       | (clear_value y; have y : True := True.intro))
    | split | (with_reducible refine fold_keeps _ _ _ _ ?_ ?_) | simp)
@[simp] theorem State.summaryIn_keeps (bits : BitVec 256) (s : State) :
    (State.summaryIn bits s).settings = s.settings := by
  unfold State.summaryIn
  repeat' (first
    | with_reducible assumption | with_reducible rfl | (intro _; intros)
    | (extract_lets +onlyGivenNames y; first
       | (refine split_var y _ _ ?_ ?_; unfold y; clear y; have y : True := True.intro; rotate_left
          intro hy; clear_value y; have y : True := True.intro; rotate_right)
       | (clear_value y; have y : True := True.intro))
    | split | (with_reducible refine fold_keeps _ _ _ _ ?_ ?_)
    | (with_reducible refine State.onHif_keeps' _ _ _ ?_ ?_) | simp)
@[simp] theorem State.tailsIn_keeps (b : Nat) (ts : List Word) (s : State) :
    (State.tailsIn b ts s).settings = s.settings := by
  unfold State.tailsIn
  repeat' (first
    | with_reducible assumption | with_reducible rfl | (intro _; intros)
    | (extract_lets +onlyGivenNames y; first
       | (refine split_var y _ _ ?_ ?_; unfold y; clear y; have y : True := True.intro; rotate_left
          intro hy; clear_value y; have y : True := True.intro; rotate_right)
       | (clear_value y; have y : True := True.intro))
    | split | (with_reducible refine fold_keeps _ _ _ _ ?_ ?_)
    | (with_reducible refine State.onHif_keeps' _ _ _ ?_ ?_) | simp)
@[simp] theorem State.headsIn_keeps (b : Nat) (hs : List Word) (s : State) :
    (State.headsIn b hs s).settings = s.settings := by
  unfold State.headsIn
  repeat' (first
    | with_reducible assumption | with_reducible rfl | (intro _; intros)
    | (extract_lets +onlyGivenNames y; first
       | (refine split_var y _ _ ?_ ?_; unfold y; clear y; have y : True := True.intro; rotate_left
          intro hy; clear_value y; have y : True := True.intro; rotate_right)
       | (clear_value y; have y : True := True.intro))
    | split | (with_reducible refine fold_keeps _ _ _ _ ?_ ?_)
    | (with_reducible refine State.onHif_keeps' _ _ _ ?_ ?_) | simp)
@[simp] theorem State.abandonCycle_keeps (s : State) :
    (State.abandonCycle s).settings = s.settings := by simp [State.abandonCycle]
theorem execRingLoad_keeps (data : Word) (s : State) : Res.keeps (execRingLoad data s) s.settings := by
  unfold execRingLoad
  repeat' (first
    | with_reducible assumption | with_reducible rfl | (intro _; intros)
    | (with_reducible refine hcpAction_keeps _ _ _ _ ?_ ?_) | split | simp)
theorem execRingStop_keeps (data : Word) (s : State) : Res.keeps (execRingStop data s) s.settings := by
  unfold execRingStop
  repeat' (first
    | with_reducible assumption | with_reducible rfl | (intro _; intros)
    | (with_reducible refine hcpAction_keeps _ _ _ _ ?_ ?_) | split | simp)
theorem execRingTableData_keeps (ring : Nat) (entry : BitVec 512) (s : State) :
    Res.keeps (execRingTableData ring entry s) s.settings := onlyIf_keeps _ _ _ _ rfl (fun _ => by simp)
theorem execRingTableReadError_keeps (ring : Nat) (s : State) :
    Res.keeps (execRingTableReadError ring s) s.settings := onlyIf_keeps _ _ _ _ rfl (fun _ => by simp)
@[simp] theorem State.overtake_keeps (p : Nat → Bool) (s : State) : (State.overtake p s).settings = s.settings := rfl
@[simp] theorem State.writePredInv_keeps (v : Word) (s : State) :
    (State.writePredInv v s).settings = s.settings := rfl
theorem execPredInvalidate_keeps (data : Word) (s : State) : Res.keeps (execPredInvalidate data s) s.settings := by
  unfold execPredInvalidate
  repeat' (first
    | with_reducible assumption | with_reducible rfl | (intro _; intros)
    | (with_reducible refine hcpAction_keeps _ _ _ _ ?_ ?_) | split | simp)
theorem execPredInvalidateAll_keeps (data : Word) (s : State) :
    Res.keeps (execPredInvalidateAll data s) s.settings := by
  unfold execPredInvalidateAll
  repeat' (first
    | with_reducible assumption | with_reducible rfl | (intro _; intros)
    | (with_reducible refine hcpAction_keeps _ _ _ _ ?_ ?_) | split | simp)
@[simp] theorem State.clearHifFault_keeps (s : State) :
    (State.clearHifFault s).settings = s.settings := foldl_keeps _ _ (fun _ _ => by simp) _
theorem execHifFaultClear_keeps (data : Word) (s : State) : Res.keeps (execHifFaultClear data s) s.settings := by
  unfold execHifFaultClear
  repeat' (first
    | with_reducible assumption | with_reducible rfl | (intro _; intros)
    | (with_reducible refine hcpAccess_keeps _ _ _ ?_ ?_) | split | simp)
theorem execKickIn_keeps (s : State) : Res.keeps (execKickIn s) s.settings := by
  unfold execKickIn
  repeat' (first
    | with_reducible assumption | with_reducible rfl | (intro _; intros)
    | (extract_lets +onlyGivenNames y; first
       | ((first | refine split_var y _ _ ?_ ?_ | refine split_res y _ _ ?_ ?_); unfold y; clear y; have y : True := True.intro; rotate_left
          intro hy; clear_value y; have y : True := True.intro; rotate_right)
       | (clear_value y; have y : True := True.intro))
    | (with_reducible refine onlyIf_keeps _ _ _ _ ?_ ?_) | split
    | (with_reducible refine State.onHif_keeps' _ _ _ ?_ ?_) | simp)
@[simp] theorem State.pollDue_keeps (sqs : List Nat) (all : Bool) (s : State) :
    (State.pollDue sqs all s).settings = s.settings := by
  unfold State.pollDue
  split <;> simp
theorem execPollTimerExpiry_keeps (s : State) :
    Res.keeps (execPollTimerExpiry s) s.settings := onlyIf_keeps _ _ _ _ rfl (fun _ => by simp)
theorem execSqPollExpiry_keeps (sq : Nat) (s : State) :
    Res.keeps (execSqPollExpiry sq s) s.settings := onlyIf_keeps _ _ _ _ rfl (fun _ => by simp)
theorem execSummarySwapData_keeps (bits : BitVec 256) (s : State) :
    Res.keeps (execSummarySwapData bits s) s.settings := by
  unfold execSummarySwapData
  repeat' (first
    | with_reducible rfl | (with_reducible refine next_keeps _ _ ?_) | split | simp
    | with_reducible exact State.popRead_keeps (by assumption))
theorem execTailBlockData_keeps (block : Nat) (tails : List Word) (s : State) :
    Res.keeps (execTailBlockData block tails s) s.settings := by
  unfold execTailBlockData
  repeat' (first
    | with_reducible rfl | (with_reducible refine next_keeps _ _ ?_) | with_reducible exact State.answerGone_keeps _
    | split | simp | with_reducible exact State.popRead_keeps (by assumption))
theorem execCqHeadData_keeps (block : Nat) (heads : List Word) (s : State) :
    Res.keeps (execCqHeadData block heads s) s.settings := by
  unfold execCqHeadData
  repeat' (first
    | with_reducible rfl | (with_reducible refine next_keeps _ _ ?_) | with_reducible exact State.answerGone_keeps _
    | split | simp | with_reducible exact State.popRead_keeps (by assumption))
theorem State.doorbellTag_keeps (s : State) : s.doorbellTag.2.settings = s.settings := by
  unfold State.doorbellTag
  dsimp only
  split <;> rfl
theorem execDoorbellReadError_keeps (s : State) : Res.keeps (execDoorbellReadError s) s.settings := by
  unfold execDoorbellReadError
  repeat' split
  · refine next_keeps _ _ ?_
    simp
    exact (State.popTag_keeps (by assumption)).trans (State.doorbellTag_keeps s)
  all_goals exact next_keeps _ _ rfl
theorem execSqFetchRequest_keeps (s : State) : Res.keeps (execSqFetchRequest s) s.settings := by
  unfold execSqFetchRequest
  repeat' (first
    | with_reducible assumption | with_reducible rfl | (intro _; intros)
    | (extract_lets +onlyGivenNames y; first
       | ((first | refine split_var y _ _ ?_ ?_ | refine split_res y _ _ ?_ ?_); unfold y; clear y; have y : True := True.intro; rotate_left
          intro hy; clear_value y; have y : True := True.intro; rotate_right)
       | (clear_value y; have y : True := True.intro))
    | (with_reducible refine next_keeps _ _ ?_) | (with_reducible refine onlyIf_keeps _ _ _ _ ?_ ?_) | split
    | (with_reducible refine State.onHif_keeps' _ _ _ ?_ ?_) | simp)
theorem State.fetched_keeps {s t : State} {q : Nat} {k : Word} (h : s.fetched = some (q, k, t)) :
    t.settings = s.settings := by
  unfold State.fetched at h
  split at h
  · cases h
  · simp only [Option.map_eq_some_iff, Prod.mk.injEq] at h
    obtain ⟨⟨r, u⟩, h1, -, -, rfl⟩ := h
    exact (State.onHif_keeps _ _ rfl).trans (State.popRead_keeps h1)
theorem execOwnMismatch_keeps (entry : BitVec 512) (s : State) : Res.keeps (execOwnMismatch entry s) s.settings := by
  unfold execOwnMismatch
  repeat' (first
    | with_reducible rfl | (intro _; intros) | (with_reducible refine next_keeps _ _ ?_)
    | (with_reducible refine onlyIf_keeps _ _ _ _ ?_ ?_) | split | simp
    | with_reducible exact (State.fetched_keeps (by assumption)))
theorem execSqReadError_keeps (s : State) : Res.keeps (execSqReadError s) s.settings := by
  unfold execSqReadError
  repeat' (first
    | with_reducible rfl | (intro _; intros) | (with_reducible refine next_keeps _ _ ?_)
    | (with_reducible refine onlyIf_keeps _ _ _ _ ?_ ?_) | split | simp
    | with_reducible exact (State.fetched_keeps (by assumption)))
theorem execWorkItemTransfer_keeps (s : State) :
    Res.keeps (execWorkItemTransfer s) s.settings := onlyIf_keeps _ _ _ _ rfl (fun _ => rfl)

end Sys2Proof.Machine
end

