-- ==== Sys2Proof/Laws/KeepPath.lean ====
section
/-! SUPPORT. The settings are kept: delivery, the command rows, the data path, replay, the arbiter, the serial memory, the engine and the set-up schedules. -/

namespace Sys2Proof.Machine

/-! ## Link -/

@[simp] theorem State.onLink_keeps (b : Nat) (f : Link → Link) (s : State) :
    (State.onLink b f s).settings = s.settings := rfl
@[simp] theorem State.sendOn_keeps (b ch : Nat) (f : RFrame) (isNew : Bool) (s : State) :
    (State.sendOn b ch f isNew s).settings = s.settings := by
  unfold State.sendOn
  split <;> rfl
@[simp] theorem State.fillOne_keeps (b : Nat) (s : State) (ch : Nat) :
    (State.fillOne b s ch).settings = s.settings := by
  unfold State.fillOne
  repeat' split
  all_goals simp
@[simp] theorem State.fillChannels_keeps (b : Nat) (s : State) : (State.fillChannels b s).settings = s.settings := by
  unfold State.fillChannels
  repeat' (first
    | with_reducible rfl | (intro _; intros) | split | (with_reducible refine fold_keeps _ _ _ _ ?_ ?_) | simp)
@[simp] theorem State.queueFrame_keeps (b : Nat) (f : RFrame) (s : State) :
    (State.queueFrame b f s).settings = s.settings := by simp [State.queueFrame]
@[simp] theorem State.sendCommand_keeps (b ix : Nat) (s : State) :
    (State.sendCommand b ix s).settings = s.settings := by
  unfold State.sendCommand
  repeat' split
  all_goals simp
@[simp] theorem State.sendPage_keeps (b ix : Nat) (u : LUnit) (l : Link) (s : State) :
    (State.sendPage b ix u l s).settings = s.settings := by
  unfold State.sendPage
  repeat' (first
    | with_reducible assumption | with_reducible rfl | (intro _; intros)
    | (extract_lets +onlyGivenNames y; first
       | (refine split_var y _ _ ?_ ?_; unfold y; clear y; have y : True := True.intro; rotate_left
          intro hy; clear_value y; have y : True := True.intro; rotate_right)
       | (clear_value y; have y : True := True.intro))
    | split | (with_reducible refine fold_keeps _ _ _ _ ?_ ?_) | simp)
@[simp] theorem State.sendPackets_keeps (b ix : Nat) (u : LUnit) (c : Cmd) (s : State) :
    (State.sendPackets b ix u c s).settings = s.settings := by
  unfold State.sendPackets
  repeat' (first
    | with_reducible assumption | with_reducible rfl | (intro _; intros)
    | (extract_lets +onlyGivenNames y; first
       | (refine split_var y _ _ ?_ ?_; unfold y; clear y; have y : True := True.intro; rotate_left
          intro hy; clear_value y; have y : True := True.intro; rotate_right)
       | (clear_value y; have y : True := True.intro))
    | split | (with_reducible refine fold_keeps _ _ _ _ ?_ ?_) | simp)
@[simp] theorem State.sendData_keeps (b ix : Nat) (s : State) : (State.sendData b ix s).settings = s.settings := by
  unfold State.sendData
  repeat' split
  all_goals simp
@[simp] theorem State.relayPump_keeps (b : Nat) (s : State) : (State.relayPump b s).settings = s.settings := by
  unfold State.relayPump
  repeat' (first
    | with_reducible assumption | with_reducible rfl | (intro _; intros)
    | (extract_lets +onlyGivenNames y; first
       | (refine split_var y _ _ ?_ ?_; unfold y; clear y; have y : True := True.intro; rotate_left
          intro hy; clear_value y; have y : True := True.intro; rotate_right)
       | (clear_value y; have y : True := True.intro))
    | split | (with_reducible refine fold_keeps _ _ _ _ ?_ ?_) | simp)
@[simp] theorem State.relayQueue_keeps (ix : Nat) (s : State) : (State.relayQueue ix s).settings = s.settings := by
  unfold State.relayQueue
  repeat' split
  all_goals simp
@[simp] theorem State.bindBundle_keeps (ix b : Nat) (s : State) :
    (State.bindBundle ix b s).settings = s.settings := by
  unfold State.bindBundle
  split <;> rfl
@[simp] theorem State.askCredit_keeps (b : Nat) (s : State) : (State.askCredit b s).settings = s.settings := by
  unfold State.askCredit
  repeat' split
  all_goals simp
@[simp] theorem State.giveCredit_keeps (b c p : Nat) (s : State) :
    (State.giveCredit b c p s).settings = s.settings := by simp [State.giveCredit]
@[simp] theorem State.packetAcked_keeps (ix : Nat) (u : LUnit) (c : Cmd) (s : State) :
    (State.packetAcked ix u c s).settings = s.settings := by
  unfold State.packetAcked
  split <;> rfl
@[simp] theorem State.ackedFrame_keeps (b : Nat) (target : Bool) (s : State) (f : RFrame) :
    (State.ackedFrame b target s f).settings = s.settings := by
  unfold State.ackedFrame
  repeat' split
  all_goals simp
@[simp] theorem State.ackUpTo_keeps (b : Nat) (a : BitVec 12) (s : State) :
    (State.ackUpTo b a s).settings = s.settings := by
  unfold State.ackUpTo
  repeat' (first
    | with_reducible assumption | with_reducible rfl | (intro _; intros)
    | (extract_lets +onlyGivenNames y; first
       | (refine split_var y _ _ ?_ ?_; unfold y; clear y; have y : True := True.intro; rotate_left
          intro hy; clear_value y; have y : True := True.intro; rotate_right)
       | (clear_value y; have y : True := True.intro))
    | split | (with_reducible refine fold_keeps _ _ _ _ ?_ ?_) | simp)
@[simp] theorem State.replayFrames_keeps (b : Nat) (s : State) : (State.replayFrames b s).settings = s.settings := by
  unfold State.replayFrames
  split <;> simp

/-! ## Deliver -/

@[simp] theorem State.streamRun_keeps (ctx ix : Nat) (t : Stream) (buf p : Nat) (bs : List Byte) (s : State) :
    (State.streamRun ctx ix t buf p bs s).settings = s.settings := by
  unfold State.streamRun
  dsimp only
  split <;> simp
@[simp] theorem State.onStream_keeps (ctx : Nat) (f : Stream → Stream) (s : State) :
    (State.onStream ctx f s).settings = s.settings := rfl
@[simp] theorem State.streamFix_keeps (ctx : Nat) (s : State) : (State.streamFix ctx s).settings = s.settings := by
  unfold State.streamFix
  repeat' (first
    | with_reducible rfl | (intro _; intros) | split | (with_reducible refine fold1_keeps _ _ _ _ ?_ ?_) | simp)
@[simp] theorem State.streamPut_keeps (ctx : Nat) (s : State) : (State.streamPut ctx s).settings = s.settings := by
  unfold State.streamPut
  repeat' (first
    | with_reducible assumption | with_reducible rfl | (intro _; intros)
    | (extract_lets +onlyGivenNames y; first
       | (refine split_var y _ _ ?_ ?_; unfold y; clear y; have y : True := True.intro; rotate_left
          intro hy; clear_value y; have y : True := True.intro; rotate_right)
       | (clear_value y; have y : True := True.intro))
    | split | (with_reducible refine fold_keeps _ _ _ _ ?_ ?_) | simp)
@[simp] theorem State.streamControl_keeps (ctx : Nat) (s : State) :
    (State.streamControl ctx s).settings = s.settings := by
  unfold State.streamControl
  split <;> simp
@[simp] theorem State.streamProd_keeps (ctx : Nat) (s : State) : (State.streamProd ctx s).settings = s.settings := by
  unfold State.streamProd
  repeat' (first | rfl | split | simp)
@[simp] theorem State.streamEnd_keeps (ctx : Nat) (s : State) : (State.streamEnd ctx s).settings = s.settings := by
  unfold State.streamEnd
  repeat' split
  all_goals simp
@[simp] theorem State.streamSettle_keeps (ctx : Nat) (s : State) :
    (State.streamSettle ctx s).settings = s.settings := by
  unfold State.streamSettle
  repeat' split
  all_goals simp
@[simp] theorem State.originDone_keeps (ctx : Nat) (s : State) : (State.originDone ctx s).settings = s.settings := by
  unfold State.originDone
  repeat' (first
    | with_reducible assumption | with_reducible rfl | (intro _; intros)
    | (extract_lets +onlyGivenNames y; first
       | (refine split_var y _ _ ?_ ?_; unfold y; clear y; have y : True := True.intro; rotate_left
          intro hy; clear_value y; have y : True := True.intro; rotate_right)
       | (clear_value y; have y : True := True.intro))
    | split | (with_reducible refine fold_keeps _ _ _ _ ?_ ?_) | simp)
@[simp] theorem State.calSettle_keeps (ctx : Nat) (s : State) : (State.calSettle ctx s).settings = s.settings := by
  unfold State.calSettle
  repeat' split
  all_goals simp
@[simp] theorem State.settle_keeps (ctx : Nat) (s : State) :
    (State.settle ctx s).settings = s.settings := by simp [State.settle]
@[simp] theorem State.giveOut_keeps (ctx ix cw off : Nat) (bytes : List Byte) (last : Bool) (s : State) :
    (State.giveOut ctx ix cw off bytes last s).settings = s.settings := by
  unfold State.giveOut
  repeat' split
  all_goals simp
@[simp] theorem State.skipCws_keeps (ctx ix : Nat) (cws : List Nat) (s : State) :
    (State.skipCws ctx ix cws s).settings = s.settings := by
  unfold State.skipCws
  repeat' (first
    | with_reducible rfl | (intro _; intros) | split | (with_reducible refine fold_keeps _ _ _ _ ?_ ?_) | simp)
@[simp] theorem State.endUnder_keeps (ix : Nat) (status : Status) (failCw : Nat) (s : State) :
    (State.endUnder ix status failCw s).settings = s.settings := by
  unfold State.endUnder
  repeat' split
  all_goals simp
@[simp] theorem State.pageEnd_keeps (ix : Nat) (s : State) : (State.pageEnd ix s).settings = s.settings := by
  unfold State.pageEnd
  repeat' (first | rfl | split | simp)

/-! ## Commands -/

@[simp] theorem State.takeCmd_keeps (ctx : List Nat) (mk : BitVec 16 → Cmd) (s : State) :
    (State.takeCmd ctx mk s).settings = s.settings := by
  unfold State.takeCmd
  repeat' (first
    | with_reducible assumption | with_reducible rfl | (intro _; intros)
    | (extract_lets +onlyGivenNames y; first
       | (refine split_var y _ _ ?_ ?_; unfold y; clear y; have y : True := True.intro; rotate_left
          intro hy; clear_value y; have y : True := True.intro; rotate_right)
       | (clear_value y; have y : True := True.intro))
    | split | (with_reducible refine fold_keeps _ _ _ _ ?_ ?_)
    | (with_reducible refine State.onPwr_keeps' _ _ _ ?_ ?_) | (with_reducible refine State.onLdg_keeps' _ _ _ ?_ ?_)
    | simp)
@[simp] theorem State.bindPredicate_keeps (ctx : Nat) (s : State) :
    (State.bindPredicate ctx s).settings = s.settings := by
  unfold State.bindPredicate
  repeat' (first | rfl | split | simp)
@[simp] theorem State.beginCmd_keeps (ctx : Nat) (s : State) : (State.beginCmd ctx s).settings = s.settings := by
  unfold State.beginCmd
  repeat' (first | rfl | split | simp)
theorem State.acceptEntry_keeps {op : Op} {e : BitVec 512} {ctx : List Nat} {s t : State} {c : Nat}
    (h : s.acceptEntry op e ctx = some (c, t)) : t.settings = s.settings := by
  unfold State.acceptEntry at h
  split at h
  · cases h
  · split at h
    · cases h
    · rename_i q k u hq
      split at h
      · cases h
      · simp only [] at h
        split at h
        · cases h
          rw [State.beginCmd_keeps, State.takeCmd_keeps, State.onSq_keeps]
          exact State.fetched_keeps hq
        · cases h
theorem fetchedMeaning_keeps (op : Op) (e : BitVec 512) (ctx : List Nat) (go : Nat → State → State) (s : State)
    (h : ∀ c t, (go c t).settings = t.settings) : Res.keeps (fetchedMeaning op e ctx go s) s.settings := by
  unfold fetchedMeaning
  split
  · rename_i c0 t ht
    have k := State.acceptEntry_keeps ht
    split
    · refine next_keeps _ _ ?_
      split
      · exact k
      · rw [h, k]
    · exact next_keeps _ _ k
  · exact next_keeps _ _ rfl
@[simp] theorem State.tryLink_keeps (ix : Nat) (s : State) : (State.tryLink ix s).settings = s.settings := by
  unfold State.tryLink
  repeat' split
  all_goals simp
@[simp] theorem State.progAsk_keeps (ctx : Nat) (s : State) : (State.progAsk ctx s).settings = s.settings := by
  unfold State.progAsk
  repeat' split
  all_goals simp
@[simp] theorem State.startDma_keeps (ix : Nat) (s : State) : (State.startDma ix s).settings = s.settings := by
  unfold State.startDma
  repeat' split
  all_goals simp
@[simp] theorem State.rawRefill_keeps (ix : Nat) (s : State) : (State.rawRefill ix s).settings = s.settings := by
  unfold State.rawRefill
  repeat' (first | rfl | split | simp)
@[simp] theorem State.bindRoute_keeps (ix inst : Nat) (s : State) :
    (State.bindRoute ix inst s).settings = s.settings := by
  unfold State.bindRoute
  repeat' split
  all_goals simp
@[simp] theorem State.noteSources_keeps (c : Cmd) (ix : Nat) (s : State) :
    (State.noteSources c ix s).settings = s.settings := by
  unfold State.noteSources
  split <;> rfl
@[simp] theorem State.beginAway_keeps (ctx : Nat) (c : Cmd) (ix : Nat) (s : State) :
    (State.beginAway ctx c ix s).settings = s.settings := by
  unfold State.beginAway
  repeat' split
  all_goals simp
@[simp] theorem State.beginHere_keeps (ctx : Nat) (c : Cmd) (ix : Nat) (s : State) :
    (State.beginHere ctx c ix s).settings = s.settings := by
  unfold State.beginHere
  repeat' (first | rfl | split | simp)
@[simp] theorem State.beginUnit_keeps (ix : Nat) (s : State) : (State.beginUnit ix s).settings = s.settings := by
  unfold State.beginUnit
  repeat' (first | rfl | split | simp)
@[simp] theorem State.takeNext_keeps (ctx ix : Nat) (s : State) :
    (State.takeNext ctx ix s).settings = s.settings := by
  unfold State.takeNext
  dsimp only
  repeat' split
  all_goals simp
theorem execUnitEntryTaken_keeps (ctx ix : Nat) (ecc : Ecc) (s : State) :
    Res.keeps (execUnitEntryTaken ctx ix ecc s) s.settings := by
  unfold execUnitEntryTaken
  repeat' (first
    | with_reducible assumption | with_reducible rfl | (intro _; intros)
    | (extract_lets +onlyGivenNames y; first
       | ((first | refine split_var y _ _ ?_ ?_ | refine split_res y _ _ ?_ ?_); unfold y; clear y; have y : True := True.intro; rotate_left
          intro hy; clear_value y; have y : True := True.intro; rotate_right)
       | (clear_value y; have y : True := True.intro))
    | (with_reducible refine next_keeps _ _ ?_) | (with_reducible refine onlyIf_keeps _ _ _ _ ?_ ?_) | split | simp)
theorem execEntryFree_keeps (ix : Nat) (s : State) : Res.keeps (execEntryFree ix s) s.settings := by
  refine onlyIf_keeps _ _ _ _ rfl (fun _ => ?_)
  repeat' split
  all_goals simp
theorem execUnknownOpcode_keeps (entry : BitVec 512) (ctx : List Nat) (s : State) :
    Res.keeps (execUnknownOpcode entry ctx s) s.settings := fetchedMeaning_keeps _ _ _ _ _ (fun _ _ => by simp)
theorem execRead_keeps (entry : BitVec 512) (ctx : List Nat) (s : State) :
    Res.keeps (execRead entry ctx s) s.settings := fetchedMeaning_keeps _ _ _ _ _ (fun _ _ => by simp)
theorem execReadScan_keeps (entry : BitVec 512) (ctx : List Nat) (s : State) :
    Res.keeps (execReadScan entry ctx s) s.settings := fetchedMeaning_keeps _ _ _ _ _ (fun _ _ => by simp)
theorem execReadSherd_keeps (entry : BitVec 512) (ctx : List Nat) (s : State) :
    Res.keeps (execReadSherd entry ctx s) s.settings := fetchedMeaning_keeps _ _ _ _ _ (fun _ _ => by simp)
theorem execReadStream_keeps (entry : BitVec 512) (ctx : List Nat) (s : State) :
    Res.keeps (execReadStream entry ctx s) s.settings := fetchedMeaning_keeps _ _ _ _ _ (fun _ _ => by simp)
theorem execProgram_keeps (entry : BitVec 512) (ctx : List Nat) (s : State) :
    Res.keeps (execProgram entry ctx s) s.settings := fetchedMeaning_keeps _ _ _ _ _ (fun _ _ => by simp)
theorem execProgramSlc_keeps (entry : BitVec 512) (ctx : List Nat) (s : State) :
    Res.keeps (execProgramSlc entry ctx s) s.settings := fetchedMeaning_keeps _ _ _ _ _ (fun _ _ => by simp)
theorem execFold_keeps (entry : BitVec 512) (ctx : List Nat) (s : State) :
    Res.keeps (execFold entry ctx s) s.settings := fetchedMeaning_keeps _ _ _ _ _ (fun _ _ => by simp)
theorem execErase_keeps (entry : BitVec 512) (ctx : List Nat) (s : State) :
    Res.keeps (execErase entry ctx s) s.settings := fetchedMeaning_keeps _ _ _ _ _ (fun _ _ => by simp)
theorem execRaw_keeps (entry : BitVec 512) (ctx : List Nat) (s : State) :
    Res.keeps (execRaw entry ctx s) s.settings := fetchedMeaning_keeps _ _ _ _ _ (fun _ _ => by simp)
theorem execNop_keeps (entry : BitVec 512) (ctx : List Nat) (s : State) :
    Res.keeps (execNop entry ctx s) s.settings := fetchedMeaning_keeps _ _ _ _ _ (fun _ _ => by simp)
theorem execRingFence_keeps (entry : BitVec 512) (ctx : List Nat) (s : State) :
    Res.keeps (execRingFence entry ctx s) s.settings := by
  unfold execRingFence
  repeat' (first
    | with_reducible rfl | (intro _; intros) | (with_reducible refine fetchedMeaning_keeps _ _ _ _ _ ?_) | split
    | simp)
@[simp] theorem State.cancelUnit_keeps (ix : Nat) (s : State) : (State.cancelUnit ix s).settings = s.settings := by
  unfold State.cancelUnit
  repeat' split
  all_goals simp
theorem State.cancelAll_keeps (k : Nat) (s : State) : (s.cancelAll k).1.settings = s.settings := by
  unfold State.cancelAll
  split
  · rfl
  · rename_i c hc
    have key : ∀ (l : List (Nat × LUnit)) (a : State × Nat × Nat), (l.foldl (fun (a : State × Nat × Nat) e =>
        let s := a.1.onUnit e.1 (fun u => { u with contested := true })
        if unissued e.2 then (s.cancelUnit e.1, a.2.1 + 1, a.2.2) else (s, a.2.1, a.2.2 + 1)) a).1.settings = a.1.settings := by
      intro l
      induction l with
      | nil => intro a; rfl
      | cons e r ih =>
        intro a
        rw [List.foldl_cons, ih]
        simp only []
        split <;> simp
    simp only []
    split
    · exact key _ _
    · simp only [State.settle_keeps, State.progAsk_keeps, State.stopAfter_keeps]; exact key _ _
theorem execCancel_keeps (entry : BitVec 512) (ctx : List Nat) (s : State) :
    Res.keeps (execCancel entry ctx s) s.settings := by
  unfold execCancel
  refine fetchedMeaning_keeps _ _ _ _ _ (fun c t => ?_)
  split
  · rfl
  · rw [State.onCmd_keeps]
    split
    · exact State.cancelAll_keeps _ _
    · rfl
@[simp] theorem State.predBound_keeps (ctx : Nat) (s : State) : (State.predBound ctx s).settings = s.settings := by
  unfold State.predBound
  repeat' (first
    | with_reducible rfl | (intro _; intros) | split | (with_reducible refine fold_keeps _ _ _ _ ?_ ?_) | simp)
@[simp] theorem State.stopTaking_keeps (ctx : Nat) (s : State) : (State.stopTaking ctx s).settings = s.settings := by
  unfold State.stopTaking
  dsimp only
  split <;> simp
@[simp] theorem State.predRefused_keeps (ctx : Nat) (status : Status) (s : State) :
    (State.predRefused ctx status s).settings = s.settings := by simp [State.predRefused]
theorem execPredicateData_keeps (ctx : Nat) (bits : BitVec 1024) (s : State) :
    Res.keeps (execPredicateData ctx bits s) s.settings := by
  unfold execPredicateData
  repeat' (first
    | with_reducible rfl | (intro _; intros) | (with_reducible refine next_keeps _ _ ?_)
    | (with_reducible refine onlyIf_keeps _ _ _ _ ?_ ?_) | split
    | (with_reducible refine State.onHif_keeps' _ _ _ ?_ ?_)
    | simp only [State.predBound_keeps, State.onCmd_keeps, State.predRefused_keeps]
    | with_reducible exact (State.popRead_keeps (by assumption)).trans (by assumption) | rfl)
theorem execPredicateFetchError_keeps (ctx : Nat) (s : State) :
    Res.keeps (execPredicateFetchError ctx s) s.settings := by
  unfold execPredicateFetchError
  repeat' (first
    | with_reducible rfl | (intro _; intros) | (with_reducible refine next_keeps _ _ ?_)
    | (with_reducible refine onlyIf_keeps _ _ _ _ ?_ ?_) | split | simp
    | with_reducible exact (State.popRead_keeps (by assumption)).trans (by assumption))

/-! ## Dma -/

@[simp] theorem State.wrongShape_keeps (ctx : Nat) (s : State) :
    (State.wrongShape ctx s).settings = s.settings := by simp [State.wrongShape]
@[simp] theorem State.shapeDone_keeps (ctx : Nat) (s : State) : (State.shapeDone ctx s).settings = s.settings := by
  unfold State.shapeDone
  repeat' (first
    | with_reducible assumption | with_reducible rfl | (intro _; intros)
    | (extract_lets +onlyGivenNames y; first
       | (refine split_var y _ _ ?_ ?_; unfold y; clear y; have y : True := True.intro; rotate_left
          intro hy; clear_value y; have y : True := True.intro; rotate_right)
       | (clear_value y; have y : True := True.intro))
    | split | (with_reducible refine fold_keeps _ _ _ _ ?_ ?_) | simp)
@[simp] theorem State.walkSeg_keeps (ctx : Nat) (g : Seg) (w : Walk) (s : State) :
    (State.walkSeg ctx g w s).settings = s.settings := by
  unfold State.walkSeg
  repeat' split
  all_goals simp
@[simp] theorem State.legacyDone_keeps (s : State) : (State.legacyDone s).settings = s.settings := by
  unfold State.legacyDone
  dsimp only
  split <;> simp
@[simp] theorem State.legacyPump_keeps (s : State) : (State.legacyPump s).settings = s.settings := by
  unfold State.legacyPump
  repeat' (first | rfl | split | simp)
@[simp] theorem State.openStream_keeps (ctx : Nat) (g : Seg) (d : BitVec 256) (s : State) :
    (State.openStream ctx g d s).settings = s.settings := by
  unfold State.openStream
  split <;> simp
@[simp] theorem State.segIn_keeps (id : ChainId) (addr : Nat) (d : BitVec 256) (s : State) :
    (State.segIn id addr d s).settings = s.settings := by
  unfold State.segIn
  repeat' (first | rfl | split | simp)
theorem execSegmentDescriptorData_keeps (chain : ChainId) (desc : BitVec 256) (s : State) :
    Res.keeps (execSegmentDescriptorData chain desc s) s.settings := by
  unfold execSegmentDescriptorData
  repeat' (first
    | with_reducible rfl | (intro _; intros) | (with_reducible refine onlyIf_keeps _ _ _ _ ?_ ?_)
    | with_reducible exact State.answerGone_keeps _ | split | simp
    | with_reducible exact (State.popRead_keeps (by assumption)).trans (by assumption))
@[simp] theorem State.linkIn_keeps (id : ChainId) (link : BitVec 64) (s : State) :
    (State.linkIn id link s).settings = s.settings := by
  unfold State.linkIn
  repeat' split
  all_goals simp
theorem execAppendLinkData_keeps (chain : ChainId) (link : BitVec 64) (s : State) :
    Res.keeps (execAppendLinkData chain link s) s.settings := by
  unfold execAppendLinkData
  repeat' (first
    | with_reducible rfl | (intro _; intros) | (with_reducible refine onlyIf_keeps _ _ _ _ ?_ ?_)
    | with_reducible exact State.answerGone_keeps _ | split | simp
    | with_reducible exact (State.popRead_keeps (by assumption)).trans (by assumption))
@[simp] theorem State.peckFilled_keeps (ix key : Nat) (c : Cmd) (s : State) :
    (State.peckFilled ix key c s).settings = s.settings := by
  unfold State.peckFilled
  split <;> rfl
@[simp] theorem State.storePart_keeps (ix : Nat) (c : Cmd) (s : State) (q : Nat × Nat × List Byte) :
    (State.storePart ix c s q).settings = s.settings := by
  unfold State.storePart
  repeat' (first | rfl | split | simp)
@[simp] theorem State.storeSource_keeps (ix : Nat) (c : Cmd) (off : Nat) (bs : List Byte) (s : State) :
    (State.storeSource ix c off bs s).settings = s.settings := foldl_keeps _ _ (fun _ _ => State.storePart_keeps _ _ _ _) _
@[simp] theorem State.sourceDone_keeps (ix : Nat) (s : State) : (State.sourceDone ix s).settings = s.settings := by
  unfold State.sourceDone
  repeat' (first | rfl | split | simp)
@[simp] theorem State.sourceIn_keeps (id : ChainId) (ix off len skip : Nat) (data : List Byte) (s : State) :
    (State.sourceIn id ix off len skip data s).settings = s.settings := by
  unfold State.sourceIn
  dsimp only [State.drawFree]
  repeat' (first
    | with_reducible rfl | (intro _; intros) | split | (with_reducible refine fold_keeps _ _ _ _ ?_ ?_)
    | (with_reducible refine State.onDma_keeps' _ _ _ ?_ ?_) | simp)
theorem State.sourceReturn_keeps {id : ChainId} {n : Nat} {d : List Byte} {s t : State} {i : Nat}
    (h : s.sourceReturn id n d = some (i, t)) : t.settings = s.settings := by
  unfold State.sourceReturn at h
  obtain ⟨⟨r, u⟩, h1, h⟩ := Option.bind_eq_some_iff.mp h
  dsimp only at h
  split at h
  · simp only [Option.some.injEq, Prod.mk.injEq] at h
    obtain ⟨-, rfl⟩ := h
    rw [← State.popTag_keeps h1]
    split <;> simp
  · cases h
theorem execProgramPageLink_keeps (ix : Nat) (s : State) : Res.keeps (execProgramPageLink ix s) s.settings := by
  unfold execProgramPageLink
  repeat' (first
    | with_reducible rfl | (intro _; intros)
    | (extract_lets +onlyGivenNames y; first
       | ((first | refine split_var y _ _ ?_ ?_ | refine split_res y _ _ ?_ ?_); unfold y; clear y; have y : True := True.intro; rotate_left
          intro hy; clear_value y; have y : True := True.intro; rotate_right)
       | (clear_value y; have y : True := True.intro))
    | (with_reducible refine next_keeps _ _ ?_) | (with_reducible refine onlyIf_keeps _ _ _ _ ?_ ?_) | split | simp)
@[simp] theorem State.recordLess_keeps (ix off n : Nat) (s : State) :
    (State.recordLess ix off n s).settings = s.settings := by
  unfold State.recordLess
  repeat' (first
    | with_reducible rfl | (intro _; intros)
    | (extract_lets +onlyGivenNames y; first
       | (refine split_var y _ _ ?_ ?_; unfold y; clear y; have y : True := True.intro; rotate_left
          intro hy; clear_value y; have y : True := True.intro; rotate_right)
       | (clear_value y; have y : True := True.intro))
    | split | (with_reducible refine fold_keeps _ _ _ _ ?_ ?_) | simp)
theorem execDataWriteAck_keeps (id : Nat) (s : State) : Res.keeps (execDataWriteAck id s) s.settings := by
  unfold execDataWriteAck
  repeat' (first
    | with_reducible rfl | (intro _; intros) | (with_reducible refine next_keeps _ _ ?_)
    | (with_reducible refine onlyIf_keeps _ _ _ _ ?_ ?_) | split | simp
    | with_reducible exact State.popWrite_keeps (by assumption))
@[simp] theorem State.statusAcked_keeps (id : ChainId) (addr : Nat) (s : State) :
    (State.statusAcked id addr s).settings = s.settings := by
  unfold State.statusAcked
  repeat' split
  all_goals simp
theorem execSegmentWriteBackAck_keeps (id : Nat) (s : State) :
    Res.keeps (execSegmentWriteBackAck id s) s.settings := by
  unfold execSegmentWriteBackAck
  repeat' (first
    | with_reducible assumption | with_reducible rfl | (intro _; intros)
    | (extract_lets +onlyGivenNames y; first
       | ((first | refine split_var y _ _ ?_ ?_ | refine split_res y _ _ ?_ ?_); unfold y; clear y; have y : True := True.intro; rotate_left
          intro hy; clear_value y; have y : True := True.intro; rotate_right)
       | (clear_value y; have y : True := True.intro))
    | (with_reducible refine next_keeps _ _ ?_) | (with_reducible refine onlyIf_keeps _ _ _ _ ?_ ?_) | split | simp
    | with_reducible exact State.popWrite_keeps (by assumption))
theorem State.failing_keeps {id : ChainId} {w : Bool} {n : Nat} {s t : State} {f : Failed}
    (h : s.failing id w n = some (f, t)) : t.settings = s.settings := by
  unfold State.failing at h
  split at h
  · split at h
    · rename_i h2
      split at h
      · cases h; exact State.popWrite_keeps h2
      · cases h
    · cases h
  · simp only [Option.map_eq_some_iff, Prod.mk.injEq] at h
    obtain ⟨⟨r, u⟩, h1, -, rfl⟩ := h
    exact State.popTag_keeps h1
theorem execChainBusError_keeps (chain : ChainId) (write : Bool) (tag : Nat) (s : State) :
    Res.keeps (execChainBusError chain write tag s) s.settings := by
  unfold execChainBusError
  repeat' (first
    | with_reducible rfl | (intro _; intros) | (with_reducible refine next_keeps _ _ ?_)
    | (with_reducible refine onlyIf_keeps _ _ _ _ ?_ ?_) | split | simp
    | with_reducible exact State.failing_keeps (by assumption))
@[simp] theorem State.chainAbort_keeps (s : State) : (State.chainAbort s).settings = s.settings := by
  unfold State.chainAbort
  repeat' (first
    | with_reducible assumption | with_reducible rfl | (intro _; intros)
    | (extract_lets +onlyGivenNames y; first
       | (refine split_var y _ _ ?_ ?_; unfold y; clear y; have y : True := True.intro; rotate_left
          intro hy; clear_value y; have y : True := True.intro; rotate_right)
       | (clear_value y; have y : True := True.intro))
    | split | (with_reducible refine fold_keeps _ _ _ _ ?_ ?_)
    | (with_reducible refine State.onDma_keeps' _ _ _ ?_ ?_) | simp)
theorem execChainAbort_keeps (s : State) : Res.keeps (execChainAbort s) s.settings := by
  unfold execChainAbort
  repeat' (first
    | with_reducible assumption | with_reducible rfl | (intro _; intros)
    | (with_reducible refine hcpAccess_keeps _ _ _ ?_ ?_) | split | simp)
@[simp] theorem State.chainDisable_keeps (s : State) :
    (State.chainDisable s).settings = s.settings := by simp [State.chainDisable]
theorem execChainDisable_keeps (s : State) : Res.keeps (execChainDisable s) s.settings := by
  unfold execChainDisable
  repeat' (first
    | with_reducible assumption | with_reducible rfl | (intro _; intros)
    | (with_reducible refine hcpAccess_keeps _ _ _ ?_ ?_) | split | simp)
@[simp] theorem State.legacyGone_keeps (s : State) : (State.legacyGone s).settings = s.settings := rfl
@[simp] theorem State.writeLegStart_keeps (data : Word) (s : State) :
    (State.writeLegStart data s).settings = s.settings := by
  unfold State.writeLegStart
  repeat' (first
    | with_reducible assumption | with_reducible rfl | (intro _; intros)
    | (extract_lets +onlyGivenNames y; first
       | (refine split_var y _ _ ?_ ?_; unfold y; clear y; have y : True := True.intro; rotate_left
          intro hy; clear_value y; have y : True := True.intro; rotate_right)
       | (clear_value y; have y : True := True.intro))
    | split | (with_reducible refine fold_keeps _ _ _ _ ?_ ?_)
    | (with_reducible refine State.onDma_keeps' _ _ _ ?_ ?_) | simp)
theorem execLegacyStart_keeps (data : Word) (s : State) : Res.keeps (execLegacyStart data s) s.settings := by
  unfold execLegacyStart
  repeat' (first
    | with_reducible assumption | with_reducible rfl | (intro _; intros)
    | (with_reducible refine hcpAction_keeps _ _ _ _ ?_ ?_) | split | simp)
theorem execLegacyResume_keeps (data : Word) (s : State) : Res.keeps (execLegacyResume data s) s.settings := by
  unfold execLegacyResume
  repeat' (first
    | with_reducible assumption | with_reducible rfl | (intro _; intros)
    | (with_reducible refine hcpAction_keeps _ _ _ _ ?_ ?_) | split | simp)
theorem execLegacyAbort_keeps (data : Word) (s : State) : Res.keeps (execLegacyAbort data s) s.settings := by
  unfold execLegacyAbort
  repeat' (first
    | with_reducible assumption | with_reducible rfl | (intro _; intros)
    | (with_reducible refine hcpAction_keeps _ _ _ _ ?_ ?_) | split | simp)
@[simp] theorem State.legacyHalt_keeps (f : Failed) (s : State) :
    (State.legacyHalt f s).settings = s.settings := by simp [State.legacyHalt]
theorem execLegacyBusError_keeps (write : Bool) (tag : Nat) (s : State) :
    Res.keeps (execLegacyBusError write tag s) s.settings := by
  unfold execLegacyBusError
  repeat' (first
    | with_reducible rfl | (intro _; intros) | (with_reducible refine next_keeps _ _ ?_)
    | (with_reducible refine onlyIf_keeps _ _ _ _ ?_ ?_) | split | simp
    | with_reducible exact State.popTag_keeps (by assumption)
    | with_reducible exact State.popWrite_keeps (by assumption))
@[simp] theorem State.admitPage_keeps (ctx ix : Nat) (s : State) :
    (State.admitPage ctx ix s).settings = s.settings := by
  unfold State.admitPage
  repeat' (first | rfl | split | simp)
theorem execStreamPageAdmit_keeps (ctx ix : Nat) (s : State) :
    Res.keeps (execStreamPageAdmit ctx ix s) s.settings := by
  unfold execStreamPageAdmit
  repeat' (first
    | with_reducible rfl | (intro _; intros) | (with_reducible refine next_keeps _ _ ?_)
    | (with_reducible refine onlyIf_keeps _ _ _ _ ?_ ?_) | split | simp)
@[simp] theorem State.consIn_keeps (ctx : Nat) (cons high low : BitVec 64) (s : State) :
    (State.consIn ctx cons high low s).settings = s.settings := by
  unfold State.consIn
  repeat' (first | rfl | split | simp)
theorem execConsReadData_keeps (ctx : Nat) (cons high low : BitVec 64) (s : State) :
    Res.keeps (execConsReadData ctx cons high low s) s.settings := by
  unfold execConsReadData
  repeat' (first
    | with_reducible rfl | (intro _; intros) | (with_reducible refine next_keeps _ _ ?_)
    | (with_reducible refine onlyIf_keeps _ _ _ _ ?_ ?_) | split | simp
    | with_reducible exact (State.popRead_keeps (by assumption)).trans (by assumption))
theorem execHdpResponseDiscard_keeps (s : State) :
    Res.keeps (execHdpResponseDiscard s) s.settings := onlyIf_keeps _ _ _ _ rfl (fun _ => rfl)
theorem execHdpReissue_keeps (s : State) :
    Res.keeps (execHdpReissue s) s.settings := onlyIf_keeps _ _ _ _ rfl (fun _ => by simp)

/-! ## Replay -/

@[simp] theorem State.dropDecodes_keeps (ix : Nat) (s : State) : (State.dropDecodes ix s).settings = s.settings := rfl
@[simp] theorem State.cacheTurns_keeps (l : Nat) (s : State) : (State.cacheTurns l s).settings = s.settings := rfl
@[simp] theorem State.offDie_keeps (ix : Nat) (s : State) : (State.offDie ix s).settings = s.settings := by
  unfold State.offDie
  split <;> simp
@[simp] theorem State.unaccount_keeps (ix : Nat) (s : State) : (State.unaccount ix s).settings = s.settings := by
  unfold State.unaccount
  repeat' split
  all_goals simp
@[simp] theorem State.markReplayed_keeps (ix : Nat) (s : State) :
    (State.markReplayed ix s).settings = s.settings := rfl
@[simp] theorem State.requeueRead_keeps (ix : Nat) (s : State) :
    (State.requeueRead ix s).settings = s.settings := by simp [State.requeueRead]
@[simp] theorem State.askReset_keeps (l : Nat) (s : State) : (State.askReset l s).settings = s.settings := rfl
@[simp] theorem State.requeueWrite_keeps (ix : Nat) (reset : Bool) (s : State) :
    (State.requeueWrite ix reset s).settings = s.settings := by
  unfold State.requeueWrite
  repeat' split
  all_goals simp
@[simp] theorem State.joinOp_keeps (l ix : Nat) (u : LUnit) (s : State) :
    (State.joinOp l ix u s).settings = s.settings := rfl
@[simp] theorem State.pollAgain_keeps (ix : Nat) (s : State) : (State.pollAgain ix s).settings = s.settings := by
  unfold State.pollAgain
  split <;> rfl
@[simp] theorem State.fromSources_keeps (ix : Nat) (s : State) :
    (State.fromSources ix s).settings = s.settings := by simp [State.fromSources]
@[simp] theorem State.unknownEnd_keeps (ix : Nat) (status : Status) (s : State) :
    (State.unknownEnd ix status s).settings = s.settings := by simp [State.unknownEnd]
@[simp] theorem State.replayUnit_keeps (ix : Nat) (s : State) : (State.replayUnit ix s).settings = s.settings := by
  unfold State.replayUnit
  repeat' split
  all_goals simp
@[simp] theorem State.dropGrant_keeps (ch : Nat) (s : State) : (State.dropGrant ch s).settings = s.settings := rfl
@[simp] theorem State.losePackets_keeps (ixs : List Nat) (s : State) :
    (State.losePackets ixs s).settings = s.settings := by
  unfold State.losePackets
  repeat' (first
    | with_reducible rfl | (intro _; intros) | split | (with_reducible refine fold_keeps _ _ _ _ ?_ ?_) | simp)
@[simp] theorem State.packetLands_keeps (u : LUnit) (e : Expect) (flags : Byte) (len : Nat) (data : List Byte) (s :
    State) : (State.packetLands u e flags len data s).settings = s.settings := by
  unfold State.packetLands
  split <;> rfl
@[simp] theorem State.cutPacket_keeps (ch : Nat) (s : State) : (State.cutPacket ch s).settings = s.settings := by
  unfold State.cutPacket
  dsimp only
  repeat' split
  all_goals simp
@[simp] theorem State.beginRelearn_keeps (ctx : Nat) (fetching : Bool) (s : State) :
    (State.beginRelearn ctx fetching s).settings = s.settings := by
  unfold State.beginRelearn
  repeat' (first | rfl | split | simp)
@[simp] theorem State.trainingEnded_keeps (ok : Bool) (s : State) (ctx : Nat) :
    (State.trainingEnded ok s ctx).settings = s.settings := by
  unfold State.trainingEnded
  repeat' split
  all_goals simp
@[simp] theorem State.leaveMask_keeps (ch : Nat) (s : State) : (State.leaveMask ch s).settings = s.settings := by
  unfold State.leaveMask
  repeat' (first | rfl | split | simp)
@[simp] theorem State.fenceTraining_keeps (ch : Nat) (s : State) :
    (State.fenceTraining ch s).settings = s.settings := by
  unfold State.fenceTraining
  repeat' (first
    | with_reducible assumption | with_reducible rfl | (intro _; intros)
    | (extract_lets +onlyGivenNames y; first
       | (refine split_var y _ _ ?_ ?_; unfold y; clear y; have y : True := True.intro; rotate_left
          intro hy; clear_value y; have y : True := True.intro; rotate_right)
       | (clear_value y; have y : True := True.intro))
    | split | (with_reducible refine fold_keeps _ _ _ _ ?_ ?_)
    | (with_reducible refine State.onCal_keeps' _ _ _ ?_ ?_) | simp)
@[simp] theorem State.fence_keeps (ch : Nat) (s : State) : (State.fence ch s).settings = s.settings := by
  unfold State.fence
  repeat' (first
    | with_reducible assumption | with_reducible rfl | (intro _; intros)
    | (extract_lets +onlyGivenNames y; first
       | (refine split_var y _ _ ?_ ?_; unfold y; clear y; have y : True := True.intro; rotate_left
          intro hy; clear_value y; have y : True := True.intro; rotate_right)
       | (clear_value y; have y : True := True.intro))
    | split | (with_reducible refine fold_keeps _ _ _ _ ?_ ?_)
    | (with_reducible refine State.onPool_keeps' _ _ _ ?_ ?_) | simp)
@[simp] theorem State.mismatch_keeps (ch : Nat) (m : Mismatch) (lost : List Nat) (s : State) :
    (State.mismatch ch m lost s).settings = s.settings := by
  unfold State.mismatch
  repeat' (first | with_reducible rfl | split | (with_reducible refine State.onPool_keeps' _ _ _ ?_ ?_) | simp)

/-! ## Arbiter -/

theorem State.arbitrate_keeps (ch n : Nat) (s : State) : (State.arbitrate ch n s).1.settings = s.settings := by
  induction n generalizing s with
  | zero => rfl
  | succ n ih =>
    have key : ∀ (l : List (Nat × Status)) (t : State),
        (l.foldl (fun (s : State) (q : Nat × Status) => s.endUnder q.1 q.2 0) t).settings = t.settings :=
      fun l t => foldl_keeps _ _ (fun a q => by simp) t
    unfold State.arbitrate
    split
    · rfl
    · extract_lets l group bad s'
      split
      · rfl
      · split
        · split
          · exact key _ _
          · exact (ih _).trans (key _ _)
        · exact key _ _
@[simp] theorem State.countPasses_keeps (ch won : Nat) (as : List (Nat × Ask)) (s : State) :
    (State.countPasses ch won as s).settings = s.settings := foldl_keeps _ _ (fun _ _ => by split <;> simp) _

/-! ## Spm -/

@[simp] theorem State.askLine_keeps (l : Nat) (pre : Bool) (s : State) :
    (State.askLine l pre s).settings = s.settings := rfl
@[simp] theorem State.xipServe_keeps (s : State) : (State.xipServe s).settings = s.settings := by
  unfold State.xipServe
  split
  · rfl
  · rename_i off h
    split
    · rfl
    · generalize s.spm.xipByte off = a
      dsimp only
      split
      · rfl
      · split
        · exact (State.onSpm_keeps _ _ rfl).trans (State.onHcp_keeps _ _)
        · split
          · exact State.onSpm_keeps _ _ rfl
          · split
            · exact State.askLine_keeps _ _ _
            · rfl
@[simp] theorem State.prefetch_keeps (s : State) : (State.prefetch s).settings = s.settings := by
  unfold State.prefetch
  repeat' split
  all_goals simp
@[simp] theorem State.onOp_keeps (f : SpmOp → SpmOp) (s : State) : (State.onOp f s).settings = s.settings := rfl
@[simp] theorem State.onDevice_keeps (f : SpmOp → SpmOp) (s : State) :
    (State.onDevice f s).settings = s.settings := by
  unfold State.onDevice
  repeat' (first | with_reducible rfl | split | (with_reducible refine State.onSpm_keeps' _ _ _ ?_ ?_))
@[simp] theorem State.devStart_keeps (t : SerialTx) (s : State) : (State.devStart t s).settings = s.settings := rfl
@[simp] theorem State.eraseGo_keeps (s : State) : (State.eraseGo s).settings = s.settings := by
  unfold State.eraseGo
  repeat' split
  all_goals simp
@[simp] theorem State.spmGo_keeps (s : State) : (State.spmGo s).settings = s.settings := by
  unfold State.spmGo
  repeat' (first | rfl | split | simp)
@[simp] theorem State.syncCheck_keeps (s : State) :
    (State.syncCheck s).settings = s.settings := foldl_keeps _ _ (fun _ _ => by split <;> simp) _
@[simp] theorem State.consolidate_keeps (ctx : Nat) (s : State) :
    (State.consolidate ctx s).settings = s.settings := by
  unfold State.consolidate
  dsimp only
  split <;> simp
@[simp] theorem State.spmNext_keeps (s : State) : (State.spmNext s).settings = s.settings := by
  unfold State.spmNext
  repeat' (first
    | with_reducible rfl | (intro _; intros) | split | (with_reducible refine fold_keeps _ _ _ _ ?_ ?_)
    | (with_reducible refine State.onSpm_keeps' _ _ _ ?_ ?_) | simp)
@[simp] theorem State.consolidated_keeps (o : SpmOp) (s : State) :
    (State.consolidated o s).settings = s.settings := by simp [State.consolidated]
@[simp] theorem State.clearRegion_keeps (o : SpmOp) (s : State) : (State.clearRegion o s).settings = s.settings := by
  unfold State.clearRegion
  repeat' (first
    | with_reducible assumption | with_reducible rfl | (intro _; intros)
    | (extract_lets +onlyGivenNames y; first
       | (refine split_var y _ _ ?_ ?_; unfold y; clear y; have y : True := True.intro; rotate_left
          intro hy; clear_value y; have y : True := True.intro; rotate_right)
       | (clear_value y; have y : True := True.intro))
    | split | (with_reducible refine fold_keeps _ _ _ _ ?_ ?_)
    | (with_reducible refine State.onLdg_keeps' _ _ _ ?_ ?_) | simp)
@[simp] theorem State.spmAdvance_keeps (s : State) : (State.spmAdvance s).settings = s.settings := by
  unfold State.spmAdvance
  repeat' (first | rfl | split | simp)
@[simp] theorem State.devDone_keeps (s : State) : (State.devDone s).settings = s.settings := by
  unfold State.devDone
  repeat' split
  all_goals simp
theorem execNvsSync_keeps (entry : BitVec 512) (ctx : List Nat) (s : State) :
    Res.keeps (execNvsSync entry ctx s) s.settings := by
  unfold execNvsSync
  repeat' (first
    | with_reducible assumption | (intro _; intros)
    | (extract_lets +onlyGivenNames y; first
       | ((first | refine split_var y _ _ ?_ ?_ | refine split_res y _ _ ?_ ?_); unfold y; clear y; have y : True := True.intro; rotate_left
          intro hy; clear_value y; have y : True := True.intro; rotate_right)
       | (clear_value y; have y : True := True.intro))
    | (with_reducible refine fetchedMeaning_keeps _ _ _ _ _ ?_) | split | simp)
@[simp] theorem State.spmEnd_keeps (r : Nat) (s : State) :
    (State.spmEnd r s).settings = s.settings := by simp [State.spmEnd]
@[simp] theorem State.spmWrite_keeps (data : Word) (o : Spm → SpmOp) (s : State) :
    (State.spmWrite data o s).settings = s.settings := by
  unfold State.spmWrite
  repeat' (first | rfl | split | simp)
theorem spmCmd_keeps (action : Nat) (data : Word) (o : Spm → SpmOp) (s : State) :
    Res.keeps (spmCmd action data o s) s.settings := by
  unfold spmCmd
  refine hcpAction_keeps _ _ _ _ rfl (fun t ht => ?_)
  split
  · simp [ht]
  · exact ht
theorem execSpmBufferData_keeps (data : List Byte) (error : Bool) (s : State) :
    Res.keeps (execSpmBufferData data error s) s.settings := by
  unfold execSpmBufferData
  repeat' (first
    | with_reducible rfl | (intro _; intros)
    | (extract_lets +onlyGivenNames y; first
       | ((first | refine split_var y _ _ ?_ ?_ | refine split_res y _ _ ?_ ?_); unfold y; clear y; have y : True := True.intro; rotate_left
          intro hy; clear_value y; have y : True := True.intro; rotate_right)
       | (clear_value y; have y : True := True.intro))
    | (with_reducible refine next_keeps _ _ ?_) | (with_reducible refine onlyIf_keeps _ _ _ _ ?_ ?_) | split | simp
    | with_reducible exact (State.popRead_keeps (by assumption)).trans (by assumption))
@[simp] theorem State.consolidationFails_keeps (o : SpmOp) (s : State) :
    (State.consolidationFails o s).settings = s.settings := by simp [State.consolidationFails]
@[simp] theorem State.deviceSuspended_keeps (s : State) :
    (State.deviceSuspended s).settings = s.settings := by simp [State.deviceSuspended]
theorem execSerialStatusPoll_keeps (busy suspended : Bool) (s : State) :
    Res.keeps (execSerialStatusPoll busy suspended s) s.settings := by
  refine onlyIf_keeps _ _ _ _ rfl (fun _ => ?_)
  repeat' split
  all_goals simp
theorem execSpmOpEnd_keeps (deviceOk : Bool) (s : State) : Res.keeps (execSpmOpEnd deviceOk s) s.settings := by
  unfold execSpmOpEnd
  repeat' (first
    | with_reducible assumption | with_reducible rfl | (intro _; intros) | (with_reducible refine next_keeps _ _ ?_)
    | (with_reducible refine onlyIf_keeps _ _ _ _ ?_ ?_) | split
    | (with_reducible refine State.onSpm_keeps' _ _ _ ?_ ?_)
    | simp only [State.consolidationFails_keeps, State.spmEnd_keeps] | rfl)
theorem execSpmSuspend_keeps (s : State) : Res.keeps (execSpmSuspend s) s.settings := by
  unfold execSpmSuspend
  split
  · exact next_keeps _ _ rfl
  · exact onlyIf_keeps _ _ _ _ rfl (fun _ => by simp)
theorem execSpmResume_keeps (s : State) : Res.keeps (execSpmResume s) s.settings := by
  unfold execSpmResume
  split
  · exact next_keeps _ _ rfl
  · exact onlyIf_keeps _ _ _ _ rfl (fun _ => by simp)
@[simp] theorem State.xipRead_keeps (off : BitVec 16) (s : State) :
    (State.xipRead off s).settings = s.settings := by simp [State.xipRead]
theorem execXipLineArrival_keeps (line : List Byte) (s : State) :
    Res.keeps (execXipLineArrival line s) s.settings := by
  unfold execXipLineArrival
  repeat' (first
    | with_reducible assumption | with_reducible rfl | (intro _; intros) | (with_reducible refine next_keeps _ _ ?_)
    | (with_reducible refine onlyIf_keeps _ _ _ _ ?_ ?_) | split
    | (with_reducible refine State.onSpm_keeps' _ _ _ ?_ ?_)
    | simp only [State.spmGo_keeps, State.prefetch_keeps, State.xipServe_keeps] | rfl)

/-! ## Engine -/

@[simp] theorem State.onGrant_keeps (l : Nat) (f : Grant → Grant) (s : State) :
    (State.onGrant l f s).settings = s.settings := rfl
@[simp] theorem State.noteSetup_keeps (ch ce : Nat) (acts : List PinAct) (s : State) :
    (State.noteSetup ch ce acts s).settings = s.settings := rfl
@[simp] theorem State.restoreSdr_keeps (l : Nat) (s : State) : (State.restoreSdr l s).settings = s.settings := by
  unfold State.restoreSdr
  dsimp only
  split <;> simp
@[simp] theorem State.dieReset_keeps (l : Nat) (b : Byte) (s : State) :
    (State.dieReset l b s).settings = s.settings := by
  unfold State.dieReset
  repeat' (first
    | with_reducible rfl | (intro _; intros)
    | (extract_lets +onlyGivenNames y; first
       | (refine split_var y _ _ ?_ ?_; unfold y; clear y; have y : True := True.intro; rotate_left
          intro hy; clear_value y; have y : True := True.intro; rotate_right)
       | (clear_value y; have y : True := True.intro))
    | split | (with_reducible refine fold_keeps _ _ _ _ ?_ ?_) | simp)
@[simp] theorem State.closeGrant_keeps (l : Nat) (s : State) : (State.closeGrant l s).settings = s.settings := by
  unfold State.closeGrant
  repeat' (first | rfl | split | simp)
@[simp] theorem State.schedFault_keeps (l n : Nat) (broken : Bool) (s : State) :
    (State.schedFault l n broken s).settings = s.settings := by
  unfold State.schedFault
  repeat' (first
    | with_reducible assumption | with_reducible rfl
    | (extract_lets +onlyGivenNames y; first
       | (refine split_var y _ _ ?_ ?_; unfold y; clear y; have y : True := True.intro; rotate_left
          intro hy; clear_value y; have y : True := True.intro; rotate_right)
       | (clear_value y; have y : True := True.intro))
    | split | (with_reducible refine State.onSched_keeps' _ _ _ ?_ ?_) | simp)
@[simp] theorem State.stepError_keeps (l n : Nat) (s : State) : (State.stepError l n s).settings = s.settings := by
  unfold State.stepError
  repeat' (first
    | with_reducible assumption | with_reducible rfl
    | (extract_lets +onlyGivenNames y; first
       | (refine split_var y _ _ ?_ ?_; unfold y; clear y; have y : True := True.intro; rotate_left
          intro hy; clear_value y; have y : True := True.intro; rotate_right)
       | (clear_value y; have y : True := True.intro))
    | split | (with_reducible refine State.onSched_keeps' _ _ _ ?_ ?_) | simp)
@[simp] theorem State.takeRun_keeps (l : Nat) (g : Grant) (x : Run) (s : State) :
    (State.takeRun l g x s).settings = s.settings := by
  unfold State.takeRun
  repeat' (first
    | with_reducible assumption | with_reducible rfl | (intro _; intros)
    | (extract_lets +onlyGivenNames y; first
       | (refine split_var y _ _ ?_ ?_; unfold y; clear y; have y : True := True.intro; rotate_left
          intro hy; clear_value y; have y : True := True.intro; rotate_right)
       | (clear_value y; have y : True := True.intro))
    | split | (with_reducible refine fold_keeps _ _ _ _ ?_ ?_)
    | (with_reducible refine State.onPool_keeps' _ _ _ ?_ ?_) | simp)
theorem State.runGrant_keeps {l : Nat} {s t : State} (h : s.runGrant l = some t) : t.settings = s.settings := by
  unfold State.runGrant at h
  split at h
  · simp only [Option.map_eq_some_iff] at h
    obtain ⟨x, -, rfl⟩ := h
    simp
  · cases h; rfl
@[simp] theorem State.issue_keeps (l : Nat) (a : Ask) (members : List Nat) (cache : Option Nat) (s : State) :
    (State.issue l a members cache s).settings = s.settings := by
  unfold State.issue
  repeat' (first
    | with_reducible assumption | with_reducible rfl | (intro _; intros)
    | (extract_lets +onlyGivenNames y; first
       | (refine split_var y _ _ ?_ ?_; unfold y; clear y; have y : True := True.intro; rotate_left
          intro hy; clear_value y; have y : True := True.intro; rotate_right)
       | (clear_value y; have y : True := True.intro))
    | split | (with_reducible refine fold_keeps _ _ _ _ ?_ ?_) | simp)
@[simp] theorem State.clearAsk_keeps (l : Nat) (d : DieType) (a : Ask) (s : State) :
    (State.clearAsk l d a s).settings = s.settings := by
  unfold State.clearAsk
  repeat' (first
    | with_reducible assumption | (intro _; intros)
    | (extract_lets +onlyGivenNames y; first
       | (refine split_var y _ _ ?_ ?_; unfold y; clear y; have y : True := True.intro; rotate_left
          intro hy; clear_value y; have y : True := True.intro; rotate_right)
       | (clear_value y; have y : True := True.intro))
    | split | (with_reducible refine fold_keeps _ _ _ _ ?_ ?_) | simp)
@[simp] theorem State.grantMismatch_keeps (ch : Nat) (g : Grant) (s : State) :
    (State.grantMismatch ch g s).settings = s.settings := by
  unfold State.grantMismatch
  repeat' (first
    | with_reducible assumption | with_reducible rfl | (intro _; intros)
    | (extract_lets +onlyGivenNames y; first
       | (refine split_var y _ _ ?_ ?_; unfold y; clear y; have y : True := True.intro; rotate_left
          intro hy; clear_value y; have y : True := True.intro; rotate_right)
       | (clear_value y; have y : True := True.intro))
    | split | (with_reducible refine fold_keeps _ _ _ _ ?_ ?_) | simp)
theorem State.grant_keeps {ch l : Nat} {d : DieType} {a : Ask} {m : List Nat} {io : GrantIo} {s t : State}
    (h : State.grant ch l d a m io s = some t) : t.settings = s.settings := by
  unfold State.grant at h
  dsimp only at h
  refine (State.runGrant_keeps h).trans ?_
  simp only [State.headEvent_keeps, State.grantMismatch_keeps, State.onLun_keeps, State.issue_keeps, State.clearAsk_keeps,
    State.onChan_keeps]
  exact (State.onSched_keeps _ _ (fold_leaves Sched.set Sched.upset_set rfl _)).trans (State.countPasses_keeps _ _ _ _)
theorem execArbiterDecision_keeps (ch : Nat) (io : GrantIo) (s : State) :
    Res.keeps (execArbiterDecision ch io s) s.settings := by
  unfold execArbiterDecision
  split
  · extract_lets s1
    have h1 : s1.settings = s.settings := State.ecc_keeps _ _
    split
    · exact next_keeps _ _ h1
    · have h2 := State.arbitrate_keeps ch (s1.ldg.units.length + 1) s1
      split
      rename_i t won ht
      rw [ht, h1] at h2
      split
      · exact next_keeps _ _ h2
      · split
        · exact runRes_keeps _ _ (fun u hu => (State.grant_keeps hu).trans h2)
        · exact next_keeps _ _ h2
  · exact next_keeps _ _ rfl
@[simp] theorem State.started_keeps (l : Nat) (d : DieType) (cached : Bool) (s : State) (ix : Nat) :
    (State.started l d cached s ix).settings = s.settings := by
  unfold State.started
  repeat' split
  all_goals simp
@[simp] theorem State.dropStale_keeps (l : Nat) (s : State) : (State.dropStale l s).settings = s.settings := by
  unfold State.dropStale
  repeat' (first
    | with_reducible assumption | with_reducible rfl | (intro _; intros)
    | (extract_lets +onlyGivenNames y; first
       | (refine split_var y _ _ ?_ ?_; unfold y; clear y; have y : True := True.intro; rotate_left
          intro hy; clear_value y; have y : True := True.intro; rotate_right)
       | (clear_value y; have y : True := True.intro))
    | split | (with_reducible refine fold_keeps _ _ _ _ ?_ ?_) | simp)
theorem execArrayStartPinEnd_keeps (ch : Nat) (status : List (BitVec 64)) (s : State) :
    Res.keeps (execArrayStartPinEnd ch status s) s.settings := by
  unfold execArrayStartPinEnd
  repeat' (first
    | with_reducible assumption | with_reducible rfl | (intro _; intros)
    | (extract_lets +onlyGivenNames y; first
       | ((first | refine split_var y _ _ ?_ ?_ | refine split_res y _ _ ?_ ?_); unfold y; clear y; have y : True := True.intro; rotate_left
          intro hy; clear_value y; have y : True := True.intro; rotate_right)
       | (clear_value y; have y : True := True.intro))
    | (with_reducible refine next_keeps _ _ ?_) | (with_reducible refine runRes_keeps _ _ ?_) | split
    | (with_reducible refine fold_keeps _ _ _ _ ?_ ?_) | simp
    | with_reducible refine (State.runGrant_keeps (by assumption)).trans ?_)
@[simp] theorem State.offOp_keeps (l ix : Nat) (s : State) :
    (State.offOp l ix s).settings = s.settings := by simp [State.offOp]
@[simp] theorem State.opPass_keeps (l ix : Nat) (s : State) : (State.opPass l ix s).settings = s.settings := by
  unfold State.opPass
  repeat' split
  all_goals simp
@[simp] theorem State.opFail_keeps (l ix : Nat) (s : State) : (State.opFail l ix s).settings = s.settings := by
  unfold State.opFail
  repeat' split
  all_goals simp
@[simp] theorem State.opUnknown_keeps (l ix : Nat) (s : State) : (State.opUnknown l ix s).settings = s.settings := by
  unfold State.opUnknown
  repeat' split
  all_goals simp
@[simp] theorem State.suspended_keeps (l : Nat) (d : DieType) (s : State) :
    (State.suspended l d s).settings = s.settings := by
  unfold State.suspended
  dsimp only
  split <;> simp
@[simp] theorem State.polled_keeps (l ix : Nat) (d : DieType) (result : Nat) (s : State) :
    (State.polled l ix d result s).settings = s.settings := by
  unfold State.polled
  repeat' split
  all_goals simp
@[simp] theorem State.suspendEnd_keeps (l : Nat) (d : DieType) (result : Nat) (s : State) :
    (State.suspendEnd l d result s).settings = s.settings := by
  unfold State.suspendEnd
  split <;> simp
@[simp] theorem State.resumed_keeps (l : Nat) (d : DieType) (s : State) :
    (State.resumed l d s).settings = s.settings := by
  unfold State.resumed
  repeat' (first
    | with_reducible assumption | with_reducible rfl | (intro _; intros)
    | (extract_lets +onlyGivenNames y; first
       | (refine split_var y _ _ ?_ ?_; unfold y; clear y; have y : True := True.intro; rotate_left
          intro hy; clear_value y; have y : True := True.intro; rotate_right)
       | (clear_value y; have y : True := True.intro))
    | split | (with_reducible refine fold_keeps _ _ _ _ ?_ ?_) | simp)
@[simp] theorem State.dataEnd_keeps (l : Nat) (d : DieType) (g : Grant) (result : Nat) (s : State) :
    (State.dataEnd l d g result s).settings = s.settings := by
  unfold State.dataEnd
  dsimp only
  repeat' split
  all_goals simp
@[simp] theorem State.dataInAborted_keeps (l : Nat) (g : Grant) (s : State) :
    (State.dataInAborted l g s).settings = s.settings := foldl_keeps _ _ (fun _ _ => by simp) _
@[simp] theorem State.schedEnd_keeps (l : Nat) (d : DieType) (g : Grant) (result : Nat) (st : BitVec 64) (s :
    State) : (State.schedEnd l d g result st s).settings = s.settings := by
  unfold State.schedEnd
  repeat' (first
    | with_reducible assumption | (intro _; intros)
    | (extract_lets +onlyGivenNames y; first
       | (refine split_var y _ _ ?_ ?_; unfold y; clear y; have y : True := True.intro; rotate_left
          intro hy; clear_value y; have y : True := True.intro; rotate_right)
       | (clear_value y; have y : True := True.intro))
    | split | (with_reducible refine fold_keeps _ _ _ _ ?_ ?_) | simp)
theorem execScheduleEnd_keeps (ch : Nat) (s : State) : Res.keeps (execScheduleEnd ch s) s.settings := by
  unfold execScheduleEnd
  repeat' (first
    | with_reducible assumption | with_reducible rfl | (intro _; intros)
    | (extract_lets +onlyGivenNames y; first
       | ((first | refine split_var y _ _ ?_ ?_ | refine split_res y _ _ ?_ ?_); unfold y; clear y; have y : True := True.intro; rotate_left
          intro hy; clear_value y; have y : True := True.intro; rotate_right)
       | (clear_value y; have y : True := True.intro))
    | (with_reducible refine next_keeps _ _ ?_) | (with_reducible refine onlyIf_keeps _ _ _ _ ?_ ?_) | split | simp)
theorem execGrantRelease_keeps (ch : Nat) (s : State) : Res.keeps (execGrantRelease ch s) s.settings := by
  unfold execGrantRelease
  repeat' (first
    | with_reducible rfl | (intro _; intros) | (with_reducible refine next_keeps _ _ ?_)
    | (with_reducible refine onlyIf_keeps _ _ _ _ ?_ ?_) | split | simp)
theorem execGrantLimitExceeded_keeps (ch : Nat) (s : State) : Res.keeps (execGrantLimitExceeded ch s) s.settings := by
  unfold execGrantLimitExceeded
  repeat' (first
    | with_reducible rfl | (intro _; intros) | (with_reducible refine next_keeps _ _ ?_)
    | (with_reducible refine onlyIf_keeps _ _ _ _ ?_ ?_) | split | simp)
theorem State.resumeGrants_keeps {n : Nat} {ls : List Nat} {s t : State} (h : State.resumeGrants n ls s = some t) :
    t.settings = s.settings :=
  bindFold_keeps _ (fun l s t h => by
    split at h
    · split at h
      · exact State.runGrant_keeps h
      · cases h; rfl
    · cases h; rfl) ls (some s) _ (fun _ h => by cases h; rfl) t h
theorem execUrgencyPromotion_keeps (ix : Nat) (gen : BitVec 16) (s : State) :
    Res.keeps (execUrgencyPromotion ix gen s) s.settings := by
  unfold execUrgencyPromotion
  repeat' (first
    | with_reducible assumption | with_reducible rfl | (intro _; intros)
    | (extract_lets +onlyGivenNames y; first
       | ((first | refine split_var y _ _ ?_ ?_ | refine split_res y _ _ ?_ ?_); unfold y; clear y; have y : True := True.intro; rotate_left
          intro hy; clear_value y; have y : True := True.intro; rotate_right)
       | (clear_value y; have y : True := True.intro))
    | (with_reducible refine onlyIf_keeps _ _ _ _ ?_ ?_) | split | simp)
theorem State.eventActs_keeps (e : Option Event) (f : State → State) (s : State) (h : (f s).settings = s.settings) :
    (State.eventActs e f s).settings = s.settings := by
  unfold State.eventActs
  split
  · rfl
  · exact h
theorem execReadyPollDue_keeps (lun : Nat) (s : State) : Res.keeps (execReadyPollDue lun s) s.settings :=
  State.onEvent_keeps _ _ _ _ _ rfl ((State.eventActs_keeps _ _ _ (by simp)).trans (State.onLun_keeps _ _ _))
theorem execRunTimeExpiry_keeps (lun : Nat) (s : State) : Res.keeps (execRunTimeExpiry lun s) s.settings :=
  State.onEvent_keeps _ _ _ _ _ rfl ((State.eventActs_keeps _ _ _ (by simp)).trans (State.onLun_keeps _ _ _))
theorem execSuspendWindowExpiry_keeps (lun : Nat) (s : State) :
    Res.keeps (execSuspendWindowExpiry lun s) s.settings :=
  State.onEvent_keeps _ _ _ _ _ rfl ((State.eventActs_keeps _ _ _ (by simp)).trans (State.onLun_keeps _ _ _))
theorem execMergeWindowExpiry_keeps (lun : Nat) (s : State) : Res.keeps (execMergeWindowExpiry lun s) s.settings :=
  State.onEvent_keeps _ _ _ _ _ rfl ((State.eventActs_keeps _ _ _ (by simp)).trans (State.onLun_keeps _ _ _))
theorem State.resumeStarved_keeps {l : Nat} {s t : State} (h : s.resumeStarved l = some t) :
    t.settings = s.settings := by
  unfold State.resumeStarved at h
  split at h
  · split at h
    · exact State.runGrant_keeps h
    · cases h; rfl
  · cases h; rfl
theorem execSourceDataReturn_keeps (chain : ChainId) (tag : Nat) (data : List Byte) (s : State) :
    Res.keeps (execSourceDataReturn chain tag data s) s.settings := by
  unfold execSourceDataReturn
  repeat' split
  · exact next_keeps _ _ rfl
  · exact next_keeps _ _ (State.popTag_keeps (by assumption))
  · exact next_keeps _ _ rfl
  · exact runRes_keeps _ _ fun t ht => (State.resumeStarved_keeps ht).trans (State.sourceReturn_keeps (by assumption))
  · exact next_keeps _ _ (State.sourceReturn_keeps (by assumption))

/-! ## Setup -/

@[simp] theorem State.addSetup_keeps (ch ce : Nat) (acts : List PinAct) (s : State) :
    (State.addSetup ch ce acts s).settings = s.settings := rfl
@[simp] theorem State.setUpDone_keeps (l : Nat) (x : Run) (s : State) :
    (State.setUpDone l x s).settings = s.settings := by
  unfold State.setUpDone
  repeat' (first
    | with_reducible assumption | (intro _; intros)
    | (extract_lets +onlyGivenNames y; first
       | (refine split_var y _ _ ?_ ?_; unfold y; clear y; have y : True := True.intro; rotate_left
          intro hy; clear_value y; have y : True := True.intro; rotate_right)
       | (clear_value y; have y : True := True.intro))
    | split | (with_reducible refine fold_keeps _ _ _ _ ?_ ?_) | simp)
theorem State.runSetUp_keeps {l : Nat} {d : DieType} {sdr : Option Nat} {ps : List SetUp} {s t : State}
    (h : s.runSetUp l d sdr ps = some t) : t.settings = s.settings := by
  unfold State.runSetUp at h
  split at h
  · cases h; rfl
  · dsimp only at h
    obtain ⟨x, -, rfl⟩ := Option.map_eq_some_iff.mp h
    simp

end Sys2Proof.Machine
end

