-- ==== Sys2Proof/Laws/KeepUnits.lean ====
section
/-! SUPPORT. The settings are kept: recovery, intake, decoding, learning, the relay and the PSP. -/

namespace Sys2Proof.Machine

/-! ## Ladder -/

@[simp] theorem State.sourceRead_keeps (ix : Nat) (s : State) :
    (State.sourceRead ix s).settings = s.settings := by simp [State.sourceRead]
@[simp] theorem State.readEnd_keeps (ix : Nat) (s : State) : (State.readEnd ix s).settings = s.settings := by
  unfold State.readEnd
  repeat' split
  all_goals simp
@[simp] theorem State.cwFails_keeps (ix cw : Nat) (st : Status) (s : State) :
    (State.cwFails ix cw st s).settings = s.settings := by
  unfold State.cwFails
  split <;> simp
@[simp] theorem State.climb_keeps (ix : Nat) (s : State) : (State.climb ix s).settings = s.settings := by
  unfold State.climb
  repeat' (first | rfl | split | simp)
@[simp] theorem State.askSense_keeps (ix : Nat) (s : State) : (State.askSense ix s).settings = s.settings := by
  unfold State.askSense
  split <;> rfl
@[simp] theorem State.stepDone_keeps (ix : Nat) (s : State) : (State.stepDone ix s).settings = s.settings := by
  unfold State.stepDone
  repeat' (first
    | with_reducible assumption | with_reducible rfl | (intro _; intros)
    | (extract_lets +onlyGivenNames y; first
       | (refine split_var y _ _ ?_ ?_; unfold y; clear y; have y : True := True.intro; rotate_left
          intro hy; clear_value y; have y : True := True.intro; rotate_right)
       | (clear_value y; have y : True := True.intro))
    | split | (with_reducible refine fold_keeps _ _ _ _ ?_ ?_) | simp)
@[simp] theorem State.unhold_keeps (s : State) (ix : Nat) : (State.unhold s ix).settings = s.settings := by
  unfold State.unhold
  repeat' split
  all_goals simp
@[simp] theorem State.unholdAll_keeps (ctx : Nat) (s : State) : (State.unholdAll ctx s).settings = s.settings := by
  unfold State.unholdAll
  repeat' (first
    | with_reducible rfl | (intro _; intros) | split | (with_reducible refine fold_keeps _ _ _ _ ?_ ?_) | simp)
@[simp] theorem State.chainResume_keeps (s : State) : (State.chainResume s).settings = s.settings := by
  unfold State.chainResume
  repeat' (first
    | with_reducible assumption | with_reducible rfl | (intro _; intros)
    | (extract_lets +onlyGivenNames y; first
       | (refine split_var y _ _ ?_ ?_; unfold y; clear y; have y : True := True.intro; rotate_left
          intro hy; clear_value y; have y : True := True.intro; rotate_right)
       | (clear_value y; have y : True := True.intro))
    | split | (with_reducible refine fold_keeps _ _ _ _ ?_ ?_)
    | (with_reducible refine State.onDma_keeps' _ _ _ ?_ ?_) | simp)
theorem execChainResume_keeps (s : State) : Res.keeps (execChainResume s) s.settings := by
  unfold execChainResume
  repeat' (first
    | with_reducible assumption | with_reducible rfl | (intro _; intros)
    | (with_reducible refine hcpAccess_keeps _ _ _ ?_ ?_) | split | simp)
theorem execRefireBackoffExpiry_keeps (lun : Nat) (s : State) :
    Res.keeps (execRefireBackoffExpiry lun s) s.settings :=
  State.onEvent_keeps _ _ _ _ _ rfl ((State.eventActs_keeps _ _ _ (foldl_keeps _ _ (fun _ _ => by simp) _)).trans (State.onLun_keeps _ _ _))
@[simp] theorem State.toLane_keeps (ix cw : Nat) (soft : Bool) (s : State) :
    (State.toLane ix cw soft s).settings = s.settings := by
  unfold State.toLane
  split <;> simp
@[simp] theorem State.takeSample_keeps (ix : Nat) (s : State) : (State.takeSample ix s).settings = s.settings := by
  unfold State.takeSample
  repeat' (first | rfl | split | simp)

/-! ## Intake -/

@[simp] theorem State.allArrived_keeps (ix : Nat) (s : State) : (State.allArrived ix s).settings = s.settings := by
  unfold State.allArrived
  repeat' (first
    | with_reducible assumption | with_reducible rfl | (intro _; intros)
    | (extract_lets +onlyGivenNames y; first
       | (refine split_var y _ _ ?_ ?_; unfold y; clear y; have y : True := True.intro; rotate_left
          intro hy; clear_value y; have y : True := True.intro; rotate_right)
       | (clear_value y; have y : True := True.intro))
    | split | (with_reducible refine fold_keeps _ _ _ _ ?_ ?_) | simp)
@[simp] theorem State.senseArrived_keeps (ix : Nat) (s : State) :
    (State.senseArrived ix s).settings = s.settings := by
  unfold State.senseArrived
  repeat' (first
    | with_reducible rfl | (intro _; intros) | split | (with_reducible refine fold_keeps _ _ _ _ ?_ ?_) | simp)
@[simp] theorem State.codewordIn_keeps (ix r zeros : Nat) (s : State) :
    (State.codewordIn ix r zeros s).settings = s.settings := by
  unfold State.codewordIn
  repeat' (first | rfl | split | simp)
@[simp] theorem State.sherdOutcome_keeps (ix : Nat) (st : Status) (payload : List Byte) (s : State) :
    (State.sherdOutcome ix st payload s).settings = s.settings := by
  unfold State.sherdOutcome
  repeat' split
  all_goals simp
@[simp] theorem State.sherdLost_keeps (ix : Nat) (s : State) :
    (State.sherdLost ix s).settings = s.settings := by simp [State.sherdLost]
@[simp] theorem State.sherdIn_keeps (ix zeros : Nat) (bytes : List Byte) (s : State) :
    (State.sherdIn ix zeros bytes s).settings = s.settings := by
  unfold State.sherdIn
  repeat' (first | rfl | split | simp)
@[simp] theorem State.rawIn_keeps (ix n : Nat) (bytes : List Byte) (s : State) :
    (State.rawIn ix n bytes s).settings = s.settings := by
  unfold State.rawIn
  repeat' split
  all_goals simp
@[simp] theorem State.cutEgress_keeps (ch : Nat) (s : State) : (State.cutEgress ch s).settings = s.settings := by
  unfold State.cutEgress
  repeat' (first | rfl | split | simp)
theorem execPacketComplete_keeps (ch : Nat) (bytes : List Byte) (short : Bool) (mismatch : Option Mismatch) (s :
    State) : Res.keeps (execPacketComplete ch bytes short mismatch s) s.settings := by
  unfold execPacketComplete
  repeat' (first
    | with_reducible assumption | with_reducible rfl | (intro _; intros)
    | (extract_lets +onlyGivenNames y; first
       | ((first | refine split_var y _ _ ?_ ?_ | refine split_res y _ _ ?_ ?_); unfold y; clear y; have y : True := True.intro; rotate_left
          intro hy; clear_value y; have y : True := True.intro; rotate_right)
       | (clear_value y; have y : True := True.intro))
    | (with_reducible refine next_keeps _ _ ?_) | (with_reducible refine onlyIf_keeps _ _ _ _ ?_ ?_) | split
    | (with_reducible refine State.onPool_keeps' _ _ _ ?_ ?_) | simp)
theorem execFlushTakesEffect_keeps (ch : Nat) (egress : Bool) (s : State) :
    Res.keeps (execFlushTakesEffect ch egress s) s.settings := by
  unfold execFlushTakesEffect
  repeat' (first
    | with_reducible assumption | with_reducible rfl | (intro _; intros)
    | (extract_lets +onlyGivenNames y; first
       | ((first | refine split_var y _ _ ?_ ?_ | refine split_res y _ _ ?_ ?_); unfold y; clear y; have y : True := True.intro; rotate_left
          intro hy; clear_value y; have y : True := True.intro; rotate_right)
       | (clear_value y; have y : True := True.intro))
    | (with_reducible refine onlyIf_keeps _ _ _ _ ?_ ?_) | split
    | (with_reducible refine State.onPool_keeps' _ _ _ ?_ ?_) | simp)
@[simp] theorem State.writeFlush_keeps (data : Word) (s : State) :
    (State.writeFlush data s).settings = s.settings := by
  unfold State.writeFlush
  repeat' (first | rfl | split | simp)
theorem execPoolFlushIngress_keeps (data : Word) (s : State) :
    Res.keeps (execPoolFlushIngress data s) s.settings := by
  unfold execPoolFlushIngress
  repeat' (first
    | with_reducible assumption | with_reducible rfl | (intro _; intros)
    | (with_reducible refine hcpAction_keeps _ _ _ _ ?_ ?_) | split | simp)
theorem execPoolFlushEgress_keeps (data : Word) (s : State) : Res.keeps (execPoolFlushEgress data s) s.settings := by
  unfold execPoolFlushEgress
  repeat' (first
    | with_reducible assumption | with_reducible rfl | (intro _; intros)
    | (with_reducible refine hcpAction_keeps _ _ _ _ ?_ ?_) | split | simp)
@[simp] theorem State.serve_keeps (c : Nat) (r : AllocReq) (pecks : List Nat) (s : State) :
    (State.serve c r pecks s).settings = s.settings := by
  unfold State.serve
  repeat' (first
    | with_reducible assumption | with_reducible rfl | (intro _; intros)
    | (extract_lets +onlyGivenNames y; first
       | (refine split_var y _ _ ?_ ?_; unfold y; clear y; have y : True := True.intro; rotate_left
          intro hy; clear_value y; have y : True := True.intro; rotate_right)
       | (clear_value y; have y : True := True.intro))
    | split | (with_reducible refine fold_keeps _ _ _ _ ?_ ?_)
    | (with_reducible refine State.onPool_keeps' _ _ _ ?_ ?_) | simp)
theorem execPeckAllocationGrant_keeps (ch : Option Nat) (pecks : List Nat) (s : State) :
    Res.keeps (execPeckAllocationGrant ch pecks s) s.settings := by
  unfold execPeckAllocationGrant
  repeat' (first
    | with_reducible assumption | with_reducible rfl | (intro _; intros)
    | (extract_lets +onlyGivenNames y; first
       | ((first | refine split_var y _ _ ?_ ?_ | refine split_res y _ _ ?_ ?_); unfold y; clear y; have y : True := True.intro; rotate_left
          intro hy; clear_value y; have y : True := True.intro; rotate_right)
       | (clear_value y; have y : True := True.intro))
    | (with_reducible refine next_keeps _ _ ?_) | (with_reducible refine onlyIf_keeps _ _ _ _ ?_ ?_) | split
    | (with_reducible refine fold_keeps _ _ _ _ ?_ ?_) | (with_reducible refine State.onPool_keeps' _ _ _ ?_ ?_)
    | simp)
theorem execFoldAdmission_keeps (lun : Nat) (pecks : List Nat) (s : State) :
    Res.keeps (execFoldAdmission lun pecks s) s.settings := by
  unfold execFoldAdmission
  repeat' (first
    | with_reducible assumption | with_reducible rfl | (intro _; intros)
    | (extract_lets +onlyGivenNames y; first
       | ((first | refine split_var y _ _ ?_ ?_ | refine split_res y _ _ ?_ ?_); unfold y; clear y; have y : True := True.intro; rotate_left
          intro hy; clear_value y; have y : True := True.intro; rotate_right)
       | (clear_value y; have y : True := True.intro))
    | (with_reducible refine next_keeps _ _ ?_) | (with_reducible refine onlyIf_keeps _ _ _ _ ?_ ?_) | split | simp)

/-! ## Decoders -/

theorem execDecodeStart_keeps (kind : LaneKind) (s : State) : Res.keeps (execDecodeStart kind s) s.settings := by
  unfold execDecodeStart
  split
  · exact next_keeps _ _ rfl
  · exact onlyIf_keeps _ _ _ _ rfl (fun _ => by simp)
@[simp] theorem State.freeLane_keeps (lane : Nat) (s : State) : (State.freeLane lane s).settings = s.settings := rfl
@[simp] theorem State.orphans_keeps (s : State) : (State.orphans s).settings = s.settings := by
  unfold State.orphans
  repeat' (first
    | with_reducible assumption | with_reducible rfl | (intro _; intros)
    | (extract_lets +onlyGivenNames y; first
       | (refine split_var y _ _ ?_ ?_; unfold y; clear y; have y : True := True.intro; rotate_left
          intro hy; clear_value y; have y : True := True.intro; rotate_right)
       | (clear_value y; have y : True := True.intro))
    | split | (with_reducible refine fold_keeps _ _ _ _ ?_ ?_)
    | (with_reducible refine State.onDec_keeps' _ _ _ ?_ ?_) | simp)
@[simp] theorem State.decoderFault_keeps (kind : LaneKind) (lane : Nat) (i : DecItem) (cause : DecCause) (s :
    State) : (State.decoderFault kind lane i cause s).settings = s.settings := by
  unfold State.decoderFault
  repeat' (first | with_reducible rfl | split | (with_reducible refine State.onDec_keeps' _ _ _ ?_ ?_) | simp)
theorem execSpareLaneInService_keeps (lane : Nat) (s : State) :
    Res.keeps (execSpareLaneInService lane s) s.settings := onlyIf_keeps _ _ _ _ rfl (fun _ => rfl)
@[simp] theorem State.cwPasses_keeps (ix cw n : Nat) (data : List Byte) (s : State) :
    (State.cwPasses ix cw n data s).settings = s.settings := by
  unfold State.cwPasses
  dsimp only
  repeat' split
  all_goals simp
@[simp] theorem State.addIters_keeps (ix : Nat) (gen : BitVec 16) (n : Nat) (s : State) :
    (State.addIters ix gen n s).settings = s.settings := rfl
@[simp] theorem State.cwLimit_keeps (ix cw n : Nat) (s : State) :
    (State.cwLimit ix cw n s).settings = s.settings := by
  unfold State.cwLimit
  repeat' split
  all_goals simp
@[simp] theorem State.hardEnd_keeps (lane : Nat) (i : DecItem) (cfg llr : Word) (s : State) :
    (State.hardEnd lane i cfg llr s).settings = s.settings := by
  unfold State.hardEnd
  repeat' (first | rfl | split | simp)
theorem execHardDecodeEnd_keeps (kind : LaneKind) (lane : Nat) (fault : Option DecCause) (s : State) :
    Res.keeps (execHardDecodeEnd kind lane fault s) s.settings := by
  unfold execHardDecodeEnd
  repeat' (first
    | with_reducible rfl | (intro _; intros)
    | (extract_lets +onlyGivenNames y; first
       | ((first | refine split_var y _ _ ?_ ?_ | refine split_res y _ _ ?_ ?_); unfold y; clear y; have y : True := True.intro; rotate_left
          intro hy; clear_value y; have y : True := True.intro; rotate_right)
       | (clear_value y; have y : True := True.intro))
    | (with_reducible refine next_keeps _ _ ?_) | (with_reducible refine onlyIf_keeps _ _ _ _ ?_ ?_) | split | simp)
@[simp] theorem State.softEnd_keeps (lane : Nat) (i : DecItem) (cfg llr : Word) (s : State) :
    (State.softEnd lane i cfg llr s).settings = s.settings := by
  unfold State.softEnd
  repeat' (first | rfl | split | simp)
theorem execSoftDecodeEnd_keeps (lane : Nat) (fault : Option DecCause) (s : State) :
    Res.keeps (execSoftDecodeEnd lane fault s) s.settings := by
  unfold execSoftDecodeEnd
  repeat' (first
    | with_reducible rfl | (intro _; intros) | (with_reducible refine next_keeps _ _ ?_)
    | (with_reducible refine onlyIf_keeps _ _ _ _ ?_ ?_) | split | simp)
@[simp] theorem State.sherdEnd_keeps (lane : Nat) (i : DecItem) (s : State) :
    (State.sherdEnd lane i s).settings = s.settings := by
  unfold State.sherdEnd
  repeat' (first
    | with_reducible assumption | with_reducible rfl
    | (extract_lets +onlyGivenNames y; first
       | (refine split_var y _ _ ?_ ?_; unfold y; clear y; have y : True := True.intro; rotate_left
          intro hy; clear_value y; have y : True := True.intro; rotate_right)
       | (clear_value y; have y : True := True.intro))
    | split | (with_reducible refine State.onDec_keeps' _ _ _ ?_ ?_) | simp)
theorem execSherdDecodeEnd_keeps (lane : Nat) (fault : Option DecCause) (s : State) :
    Res.keeps (execSherdDecodeEnd lane fault s) s.settings := by
  unfold execSherdDecodeEnd
  repeat' (first
    | with_reducible rfl | (intro _; intros) | (with_reducible refine next_keeps _ _ ?_)
    | (with_reducible refine onlyIf_keeps _ _ _ _ ?_ ?_) | split | simp)
@[simp] theorem State.decideScan_keeps (ix : Nat) (u : LUnit) (c : Cmd) (st : Status) (s : State) :
    (State.decideScan ix u c st s).settings = s.settings := by
  unfold State.decideScan
  dsimp only
  repeat' split
  all_goals simp
theorem execPredicateDecision_keeps (ix : Nat) (gen : BitVec 16) (s : State) :
    Res.keeps (execPredicateDecision ix gen s) s.settings := by
  unfold execPredicateDecision
  repeat' (first
    | with_reducible rfl | (intro _; intros) | (with_reducible refine next_keeps _ _ ?_)
    | (with_reducible refine onlyIf_keeps _ _ _ _ ?_ ?_) | split | simp)

/-! ## Cal -/

@[simp] theorem State.relearnConverged_keeps (l : Nat) (s : State) :
    (State.relearnConverged l s).settings = s.settings :=
  (State.autoSnapshot_keeps _).trans (State.onCal_keeps _ _ rfl)
@[simp] theorem State.relearnTimedOut_keeps (l : Nat) (r : Relearn) (s : State) :
    (State.relearnTimedOut l r s).settings = s.settings :=
  (State.raise_keeps _ _).trans (State.onCal_keeps _ _ rfl)
@[simp] theorem State.relearnSample_keeps (p : Sample) (e : Int) (r : Relearn) (s : State) :
    (State.relearnSample p e r s).settings = s.settings := by
  unfold State.relearnSample
  repeat' (first | rfl | split | simp)
@[simp] theorem State.calConverged_keeps (ctx : Nat) (s : State) :
    (State.calConverged ctx s).settings = s.settings := by
  unfold State.calConverged
  repeat' (first
    | with_reducible assumption | with_reducible rfl | (intro _; intros)
    | (extract_lets +onlyGivenNames y; first
       | (refine split_var y _ _ ?_ ?_; unfold y; clear y; have y : True := True.intro; rotate_left
          intro hy; clear_value y; have y : True := True.intro; rotate_right)
       | (clear_value y; have y : True := True.intro))
    | split | (with_reducible refine fold_keeps _ _ _ _ ?_ ?_)
    | (with_reducible refine State.onHif_keeps' _ _ _ ?_ ?_) | simp)
@[simp] theorem State.internalSample_keeps (ctx : Nat) (p : Sample) (e : Int) (s : State) :
    (State.internalSample ctx p e s).settings = s.settings := by
  unfold State.internalSample
  repeat' (first | rfl | split | simp)
@[simp] theorem State.applySample_keeps (p : Sample) (s : State) : (State.applySample p s).settings = s.settings := by
  unfold State.applySample
  extract_lets e s1 tracked
  have h1 : s1.settings = s.settings := State.onCal_keeps _ _ rfl
  have h2 : ∀ t, (tracked t).settings = t.settings := fun t => State.onCal_keeps _ _ rfl
  repeat' split
  all_goals simp [h1, h2]
theorem execSampleApply_keeps (s : State) : Res.keeps (execSampleApply s) s.settings := by
  unfold execSampleApply
  repeat' (first
    | with_reducible assumption | with_reducible rfl | (intro _; intros)
    | (extract_lets +onlyGivenNames y; first
       | ((first | refine split_var y _ _ ?_ ?_ | refine split_res y _ _ ?_ ?_); unfold y; clear y; have y : True := True.intro; rotate_left
          intro hy; clear_value y; have y : True := True.intro; rotate_right)
       | (clear_value y; have y : True := True.intro))
    | (with_reducible refine next_keeps _ _ ?_) | (with_reducible refine onlyIf_keeps _ _ _ _ ?_ ?_) | split
    | (with_reducible refine State.onCal_keeps' _ _ _ ?_ ?_) | simp)
theorem execTemperatureReadDue_keeps (lun : Nat) (s : State) :
    Res.keeps (execTemperatureReadDue lun s) s.settings := by
  unfold execTemperatureReadDue
  repeat' (first
    | with_reducible assumption | with_reducible rfl
    | (extract_lets +onlyGivenNames y; first
       | ((first | refine split_var y _ _ ?_ ?_ | refine split_res y _ _ ?_ ?_); unfold y; clear y; have y : True := True.intro; rotate_left
          intro hy; clear_value y; have y : True := True.intro; rotate_right)
       | (clear_value y; have y : True := True.intro))
    | (with_reducible refine next_keeps _ _ ?_) | (with_reducible refine State.onEvent_keeps _ _ _ _ _ ?_ ?_) | split
    | simp)
@[simp] theorem State.urgentCheck_keeps (l : Nat) (s : State) : (State.urgentCheck l s).settings = s.settings := by
  unfold State.urgentCheck
  dsimp only
  split <;> simp
@[simp] theorem State.crossing_keeps (l : Nat) (hot : Bool) (s : State) :
    (State.crossing l hot s).settings = s.settings := by simp [State.crossing]
theorem execTemperatureReading_keeps (lun : Nat) (t : Int) (s : State) :
    Res.keeps (execTemperatureReading lun t s) s.settings := by
  unfold execTemperatureReading
  repeat' (first
    | with_reducible assumption | with_reducible rfl | (intro _; intros)
    | (extract_lets +onlyGivenNames y; first
       | ((first | refine split_var y _ _ ?_ ?_ | refine split_res y _ _ ?_ ?_); unfold y; clear y; have y : True := True.intro; rotate_left
          intro hy; clear_value y; have y : True := True.intro; rotate_right)
       | (clear_value y; have y : True := True.intro))
    | (with_reducible refine onlyIf_keeps _ _ _ _ ?_ ?_) | split
    | (with_reducible refine State.onCal_keeps' _ _ _ ?_ ?_) | simp)
theorem execRelearnTimeout_keeps (lun : Nat) (s : State) : Res.keeps (execRelearnTimeout lun s) s.settings := by
  unfold execRelearnTimeout
  split
  · exact next_keeps _ _ rfl
  · exact onlyIf_keeps _ _ _ _ rfl (fun _ => by simp)
@[simp] theorem State.askTraining_keeps (k : Nat) (s : State) : (State.askTraining k s).settings = s.settings := by
  unfold State.askTraining
  split <;> rfl
theorem execThmDieTSample_keeps (code : BitVec 10) (s : State) : Res.keeps (execThmDieTSample code s) s.settings := by
  unfold execThmDieTSample
  repeat' (first
    | with_reducible assumption | with_reducible rfl | (intro _; intros)
    | (extract_lets +onlyGivenNames y; first
       | ((first | refine split_var y _ _ ?_ ?_ | refine split_res y _ _ ?_ ?_); unfold y; clear y; have y : True := True.intro; rotate_left
          intro hy; clear_value y; have y : True := True.intro; rotate_right)
       | (clear_value y; have y : True := True.intro))
    | (with_reducible refine onlyIf_keeps _ _ _ _ ?_ ?_) | split | (with_reducible refine fold_keeps _ _ _ _ ?_ ?_)
    | (with_reducible refine State.onCal_keeps' _ _ _ ?_ ?_) | simp)
@[simp] theorem State.joinTraining_keeps (ctx : Nat) (s : State) :
    (State.joinTraining ctx s).settings = s.settings := by
  unfold State.joinTraining
  repeat' (first | rfl | split | simp)
@[simp] theorem State.beginCalibrate_keeps (ctx : Nat) (fetching : Bool) (s : State) :
    (State.beginCalibrate ctx fetching s).settings = s.settings := by
  unfold State.beginCalibrate
  repeat' split
  all_goals simp
@[simp] theorem State.beginRemote_keeps (ctx : Nat) (s : State) :
    (State.beginRemote ctx s).settings = s.settings := rfl
theorem execCalibrate_keeps (entry : BitVec 512) (ctx : List Nat) (s : State) :
    Res.keeps (execCalibrate entry ctx s) s.settings := by
  unfold execCalibrate
  repeat' (first | (intro _; intros) | (with_reducible refine fetchedMeaning_keeps _ _ _ _ _ ?_) | split | simp)
@[simp] theorem State.onPatrol_keeps (l : Nat) (f : Patrol → Patrol) (s : State) :
    (State.onPatrol l f s).settings = s.settings := rfl
@[simp] theorem State.setPeriod_keeps (l : Nat) (n : Nat) (s : State) :
    (State.setPeriod l n s).settings = s.settings := by
  unfold State.setPeriod
  repeat' (first | rfl | split | simp)
theorem execPatrolAccrual_keeps (lun : Nat) (s : State) : Res.keeps (execPatrolAccrual lun s) s.settings := by
  unfold execPatrolAccrual
  repeat' (first
    | with_reducible assumption | with_reducible rfl
    | (extract_lets +onlyGivenNames y; first
       | ((first | refine split_var y _ _ ?_ ?_ | refine split_res y _ _ ?_ ?_); unfold y; clear y; have y : True := True.intro; rotate_left
          intro hy; clear_value y; have y : True := True.intro; rotate_right)
       | (clear_value y; have y : True := True.intro))
    | (with_reducible refine next_keeps _ _ ?_) | (with_reducible refine State.onEvent_keeps _ _ _ _ _ ?_ ?_) | split
    | (with_reducible refine State.onCal_keeps' _ _ _ ?_ ?_) | simp)
theorem execPatrolReadLink_keeps (lun ix : Nat) (s : State) : Res.keeps (execPatrolReadLink lun ix s) s.settings := by
  unfold execPatrolReadLink
  repeat' (first
    | with_reducible assumption | with_reducible rfl | (intro _; intros)
    | (extract_lets +onlyGivenNames y; first
       | ((first | refine split_var y _ _ ?_ ?_ | refine split_res y _ _ ?_ ?_); unfold y; clear y; have y : True := True.intro; rotate_left
          intro hy; clear_value y; have y : True := True.intro; rotate_right)
       | (clear_value y; have y : True := True.intro))
    | (with_reducible refine next_keeps _ _ ?_) | (with_reducible refine onlyIf_keeps _ _ _ _ ?_ ?_) | split
    | (with_reducible refine State.onCal_keeps' _ _ _ ?_ ?_) | simp)
theorem execPatrolNow_keeps (entry : BitVec 512) (ctx : List Nat) (s : State) :
    Res.keeps (execPatrolNow entry ctx s) s.settings := by
  unfold execPatrolNow
  repeat' (first
    | with_reducible rfl | (intro _; intros) | (with_reducible refine fetchedMeaning_keeps _ _ _ _ _ ?_) | split
    | simp)

/-! ## Cq -/

@[simp] theorem State.writeCqe_keeps (ctx : Nat) (c : Cmd) (s : State) :
    (State.writeCqe ctx c s).settings = s.settings := by
  unfold State.writeCqe
  repeat' (first
    | with_reducible assumption | with_reducible rfl | (intro _; intros)
    | (extract_lets +onlyGivenNames y; first
       | (refine split_var y _ _ ?_ ?_; unfold y; clear y; have y : True := True.intro; rotate_left
          intro hy; clear_value y; have y : True := True.intro; rotate_right)
       | (clear_value y; have y : True := True.intro))
    | split | (with_reducible refine fold_keeps _ _ _ _ ?_ ?_) | simp)
theorem execCqWrite_keeps (ctx : Nat) (s : State) : Res.keeps (execCqWrite ctx s) s.settings := by
  unfold execCqWrite
  repeat' (first
    | with_reducible rfl | (intro _; intros) | (with_reducible refine next_keeps _ _ ?_)
    | (with_reducible refine onlyIf_keeps _ _ _ _ ?_ ?_) | split | simp)
theorem execCqWriteAck_keeps (cq : Nat) (s : State) : Res.keeps (execCqWriteAck cq s) s.settings := by
  unfold execCqWriteAck
  repeat' (first
    | with_reducible assumption | with_reducible rfl | (intro _; intros)
    | (extract_lets +onlyGivenNames y; first
       | ((first | refine split_var y _ _ ?_ ?_ | refine split_res y _ _ ?_ ?_); unfold y; clear y; have y : True := True.intro; rotate_left
          intro hy; clear_value y; have y : True := True.intro; rotate_right)
       | (clear_value y; have y : True := True.intro))
    | (with_reducible refine next_keeps _ _ ?_) | (with_reducible refine onlyIf_keeps _ _ _ _ ?_ ?_) | split
    | (with_reducible refine State.onHif_keeps' _ _ _ ?_ ?_) | simp
    | with_reducible exact State.popWrite_keeps (by assumption))
theorem execCqWriteError_keeps (cq : Nat) (s : State) : Res.keeps (execCqWriteError cq s) s.settings := by
  unfold execCqWriteError
  repeat' (first
    | with_reducible rfl | (intro _; intros) | (with_reducible refine next_keeps _ _ ?_)
    | (with_reducible refine onlyIf_keeps _ _ _ _ ?_ ?_) | split
    | (with_reducible refine State.onHif_keeps' _ _ _ ?_ ?_) | simp
    | with_reducible exact State.popWrite_keeps (by assumption))

/-! ## Relay -/

@[simp] theorem State.openLink_keeps (b : Nat) (s : State) : (State.openLink b s).settings = s.settings := by
  unfold State.openLink
  repeat' split
  all_goals simp
@[simp] theorem State.linkTrained_keeps (ch : Nat) (s : State) : (State.linkTrained ch s).settings = s.settings := by
  unfold State.linkTrained
  repeat' split
  all_goals simp
@[simp] theorem State.linkEvent_keeps (b : Nat) (s : State) : (State.linkEvent b s).settings = s.settings := by
  unfold State.linkEvent
  dsimp only
  split <;> simp
@[simp] theorem State.park_keeps (ix : Nat) (s : State) : (State.park ix s).settings = s.settings := rfl
@[simp] theorem State.retract_keeps (ctx ix : Nat) (s : State) : (State.retract ctx ix s).settings = s.settings := by
  unfold State.retract
  repeat' split
  all_goals simp
@[simp] theorem State.discardData_keeps (ix : Nat) (o : Origin) (s : State) :
    (State.discardData ix o s).settings = s.settings := by
  unfold State.discardData
  repeat' (first
    | with_reducible assumption | (intro _; intros)
    | (extract_lets +onlyGivenNames y; first
       | (refine split_var y _ _ ?_ ?_; unfold y; clear y; have y : True := True.intro; rotate_left
          intro hy; clear_value y; have y : True := True.intro; rotate_right)
       | (clear_value y; have y : True := True.intro))
    | split | (with_reducible refine fold_keeps _ _ _ _ ?_ ?_) | simp)
@[simp] theorem State.loseData_keeps (s : State) (ctx ix loss : Nat) :
    (State.loseData s ctx ix loss).settings = s.settings := by
  unfold State.loseData
  dsimp only
  split <;> simp
@[simp] theorem State.ownerSafe_keeps (s : State) (ctx : Nat) : (State.ownerSafe s ctx).settings = s.settings := by
  unfold State.ownerSafe
  repeat' split
  all_goals simp
@[simp] theorem State.linkDown_keeps (b : Nat) (s : State) : (State.linkDown b s).settings = s.settings := by
  unfold State.linkDown
  repeat' (first
    | with_reducible assumption | with_reducible rfl | (intro _; intros)
    | (extract_lets +onlyGivenNames y; first
       | (refine split_var y _ _ ?_ ?_; unfold y; clear y; have y : True := True.intro; rotate_left
          intro hy; clear_value y; have y : True := True.intro; rotate_right)
       | (clear_value y; have y : True := True.intro))
    | split | (with_reducible refine fold_keeps _ _ _ _ ?_ ?_) | simp)
@[simp] theorem State.relayLost_keeps (s : State) (ix : Nat) :
    (State.relayLost s ix).settings = s.settings := by simp [State.relayLost]
@[simp] theorem State.loseUnits_keeps (b : Nat) (s : State) :
    (State.loseUnits b s).settings = s.settings := foldl_keeps _ _ (fun _ _ => by simp) _
@[simp] theorem State.dropSession_keeps (b : Nat) (s : State) : (State.dropSession b s).settings = s.settings := by
  unfold State.dropSession
  repeat' (first
    | with_reducible assumption | with_reducible rfl | (intro _; intros)
    | (extract_lets +onlyGivenNames y; first
       | (refine split_var y _ _ ?_ ?_; unfold y; clear y; have y : True := True.intro; rotate_left
          intro hy; clear_value y; have y : True := True.intro; rotate_right)
       | (clear_value y; have y : True := True.intro))
    | split | (with_reducible refine fold_keeps _ _ _ _ ?_ ?_) | simp)
@[simp] theorem State.sendLog_keeps (b : Nat) (s : State) : (State.sendLog b s).settings = s.settings := by
  unfold State.sendLog
  repeat' split
  all_goals simp
@[simp] theorem State.unpark_keeps (s : State) (ix : Nat) : (State.unpark s ix).settings = s.settings := by
  unfold State.unpark
  repeat' (first | rfl | split | simp)
@[simp] theorem State.linkUp_keeps (b : Nat) (f : RFrame) (s : State) :
    (State.linkUp b f s).settings = s.settings := by
  unfold State.linkUp
  repeat' (first
    | with_reducible assumption | with_reducible rfl | (intro _; intros)
    | (extract_lets +onlyGivenNames y; first
       | (refine split_var y _ _ ?_ ?_; unfold y; clear y; have y : True := True.intro; rotate_left
          intro hy; clear_value y; have y : True := True.intro; rotate_right)
       | (clear_value y; have y : True := True.intro))
    | split | (with_reducible refine fold_keeps _ _ _ _ ?_ ?_)
    | (with_reducible refine State.onRly_keeps' _ _ _ ?_ ?_) | simp)
@[simp] theorem State.rxGood_keeps (b ch : Nat) (f : RFrame) (s : State) :
    (State.rxGood b ch f s).settings = s.settings := by
  unfold State.rxGood
  repeat' (first
    | with_reducible assumption | with_reducible rfl | (intro _; intros)
    | (extract_lets +onlyGivenNames y; first
       | (refine split_var y _ _ ?_ ?_; unfold y; clear y; have y : True := True.intro; rotate_left
          intro hy; clear_value y; have y : True := True.intro; rotate_right)
       | (clear_value y; have y : True := True.intro))
    | split | (with_reducible refine fold_keeps _ _ _ _ ?_ ?_) | simp)
@[simp] theorem State.ownLocal_keeps (ctx ix : Nat) (c : Cmd) (s : State) :
    (State.ownLocal ctx ix c s).settings = s.settings := by
  unfold State.ownLocal
  dsimp only
  repeat' split
  all_goals simp
@[simp] theorem State.ownOnward_keeps (ctx ix : Nat) (c : Cmd) (hops : Nat) (s : State) :
    (State.ownOnward ctx ix c hops s).settings = s.settings := by
  unfold State.ownOnward
  repeat' split
  all_goals simp
@[simp] theorem State.takeCommand_keeps (b : Nat) (f : RFrame) (ixs : List Nat) (s : State) :
    (State.takeCommand b f ixs s).settings = s.settings := by
  unfold State.takeCommand
  dsimp only
  repeat' split
  all_goals simp
@[simp] theorem State.fillPeck_keeps (p ix : Nat) (u : LUnit) (f : RFrame) (s : State) :
    (State.fillPeck p ix u f s).settings = s.settings := rfl
@[simp] theorem State.rawRoom_keeps (ix : Nat) (u : LUnit) (s : State) :
    (State.rawRoom ix u s).settings = s.settings := by
  unfold State.rawRoom
  repeat' split
  all_goals simp
@[simp] theorem State.ownerData_keeps (b : Nat) (f : RFrame) (held : Option Nat) (s : State) :
    (State.ownerData b f held s).settings = s.settings := by
  unfold State.ownerData
  repeat' (first | rfl | split | simp)
@[simp] theorem State.upstreamData_keeps (f : RFrame) (s : State) :
    (State.upstreamData f s).settings = s.settings := by
  unfold State.upstreamData
  repeat' split
  all_goals simp
@[simp] theorem State.sendAgain_keeps (ix : Nat) (s : State) :
    (State.sendAgain ix s).settings = s.settings := by simp [State.sendAgain]
@[simp] theorem State.upstreamDone_keeps (f : RFrame) (s : State) :
    (State.upstreamDone f s).settings = s.settings := by
  unfold State.upstreamDone
  dsimp only
  repeat' split
  all_goals simp
@[simp] theorem State.takeFrame_keeps (b : Nat) (f : RFrame) (held : Option Nat) (ixs : List Nat) (s : State) :
    (State.takeFrame b f held ixs s).settings = s.settings := by
  unfold State.takeFrame
  repeat' (first | rfl | split | simp)
@[simp] theorem State.holdAhead_keeps (b : Nat) (f : RFrame) (s : State) :
    (State.holdAhead b f s).settings = s.settings := by
  unfold State.holdAhead
  repeat' (first | rfl | split | simp)
@[simp] theorem State.drainReorder_keeps (b n : Nat) (s : State) :
    (State.drainReorder b n s).settings = s.settings := by
  induction n generalizing s with
  | zero => rfl
  | succ n ih =>
    unfold State.drainReorder
    repeat' split
    all_goals first | rfl | (dsimp only; split; rfl; rw [ih]; simp)
@[simp] theorem State.rxSequenced_keeps (b ch : Nat) (f : RFrame) (ixs : List Nat) (s : State) :
    (State.rxSequenced b ch f ixs s).settings = s.settings := by
  unfold State.rxSequenced
  repeat' (first | rfl | split | simp)
@[simp] theorem State.leaveService_keeps (ch : Nat) (l : Link) (s : State) :
    (State.leaveService ch l s).settings = s.settings := by
  unfold State.leaveService
  split <;> simp
@[simp] theorem State.badFrame_keeps (b ch : Nat) (l : Link) (s : State) :
    (State.badFrame b ch l s).settings = s.settings := by
  unfold State.badFrame
  dsimp only
  split <;> simp
theorem relayRx_keeps (ch typ : Nat) (f : RFrame) (go : Nat → Link → State → State) (s : State)
    (h : ∀ b l t, (go b l t).settings = t.settings) : Res.keeps (relayRx ch typ f go s) s.settings := by
  unfold relayRx
  repeat' (first
    | exact next_keeps _ _ rfl
    | (refine onlyIf_keeps _ _ _ _ rfl ?_)
    | exact next_keeps _ _ (h _ _ _)
    | exact (fun _ => h _ _ _)
    | split
    | (intro _; simp [h]; done))
theorem State.resumeAll_keeps {s t : State} (h : s.resumeAll = some t) : t.settings = s.settings :=
  bindFold_keeps (fun l s => s.resumeStarved l) (fun _ _ _ h => State.resumeStarved_keeps h) _ (some s) _
    (fun _ h => by cases h; rfl) t h
theorem thenResume_keeps (r : Res) (x : Settings) (h : Res.keeps r x) : Res.keeps (thenResume r) x := by
  unfold thenResume
  split
  · split
    · exact runRes_keeps _ _ (fun t ht => (State.resumeAll_keeps ht).trans (h.out _ rfl))
    · exact h
  · exact h
theorem execRelayCommandFrame_keeps (ch : Nat) (f : RFrame) (ctx : List Nat) (s : State) :
    Res.keeps (execRelayCommandFrame ch f ctx s) s.settings :=
  thenResume_keeps _ _ (relayRx_keeps _ _ _ _ _ (fun _ _ _ => by split <;> simp))
theorem execRelayDataFrame_keeps (ch : Nat) (f : RFrame) (s : State) :
    Res.keeps (execRelayDataFrame ch f s) s.settings :=
  thenResume_keeps _ _ (relayRx_keeps _ _ _ _ _ (fun _ _ _ => by simp))
theorem execRelayCompletionFrame_keeps (ch : Nat) (f : RFrame) (s : State) :
    Res.keeps (execRelayCompletionFrame ch f s) s.settings := by
  unfold execRelayCompletionFrame
  repeat' (first
    | with_reducible rfl | (intro _; intros) | (with_reducible refine relayRx_keeps _ _ _ _ _ ?_) | split | simp)
theorem execRelayCreditFrame_keeps (ch : Nat) (f : RFrame) (s : State) :
    Res.keeps (execRelayCreditFrame ch f s) s.settings := relayRx_keeps _ _ _ _ _ (fun _ _ _ => by simp)
theorem execRelayHeartbeatFrame_keeps (ch : Nat) (f : RFrame) (s : State) :
    Res.keeps (execRelayHeartbeatFrame ch f s) s.settings := relayRx_keeps _ _ _ _ _ (fun _ _ _ => by simp)
theorem execRelayHelloFrame_keeps (ch : Nat) (f : RFrame) (s : State) :
    Res.keeps (execRelayHelloFrame ch f s) s.settings := by
  unfold execRelayHelloFrame
  repeat' (first
    | with_reducible assumption | (intro _; intros)
    | (extract_lets +onlyGivenNames y; first
       | ((first | refine split_var y _ _ ?_ ?_ | refine split_res y _ _ ?_ ?_); unfold y; clear y; have y : True := True.intro; rotate_left
          intro hy; clear_value y; have y : True := True.intro; rotate_right)
       | (clear_value y; have y : True := True.intro))
    | (with_reducible refine relayRx_keeps _ _ _ _ _ ?_) | split | simp)
theorem execRelayTrainFrame_keeps (ch : Nat) (f : RFrame) (s : State) :
    Res.keeps (execRelayTrainFrame ch f s) s.settings := by
  unfold execRelayTrainFrame
  repeat' (first
    | with_reducible assumption | (intro _; intros)
    | (extract_lets +onlyGivenNames y; first
       | ((first | refine split_var y _ _ ?_ ?_ | refine split_res y _ _ ?_ ?_); unfold y; clear y; have y : True := True.intro; rotate_left
          intro hy; clear_value y; have y : True := True.intro; rotate_right)
       | (clear_value y; have y : True := True.intro))
    | (with_reducible refine relayRx_keeps _ _ _ _ _ ?_) | split | simp)
theorem execRelayBadFrame_keeps (ch : Nat) (s : State) : Res.keeps (execRelayBadFrame ch s) s.settings := by
  unfold execRelayBadFrame
  repeat' (first
    | with_reducible rfl | (intro _; intros) | (with_reducible refine next_keeps _ _ ?_)
    | (with_reducible refine onlyIf_keeps _ _ _ _ ?_ ?_) | split | simp)
theorem execRelayReadIdPoll_keeps (ch : Nat) (id : List Byte) (s : State) :
    Res.keeps (execRelayReadIdPoll ch id s) s.settings := by
  unfold execRelayReadIdPoll
  repeat' (first
    | with_reducible assumption | with_reducible rfl | (intro _; intros)
    | (extract_lets +onlyGivenNames y; first
       | ((first | refine split_var y _ _ ?_ ?_ | refine split_res y _ _ ?_ ?_); unfold y; clear y; have y : True := True.intro; rotate_left
          intro hy; clear_value y; have y : True := True.intro; rotate_right)
       | (clear_value y; have y : True := True.intro))
    | (with_reducible refine next_keeps _ _ ?_) | (with_reducible refine onlyIf_keeps _ _ _ _ ?_ ?_) | split | simp)
theorem execTargetReadId_keeps (ch : Nat) (s : State) : Res.keeps (execTargetReadId ch s) s.settings := by
  unfold execTargetReadId
  split
  · exact next_keeps _ _ rfl
  · exact onlyIf_keeps _ _ _ _ rfl (fun _ => by simp)
@[simp] theorem State.startPull_keeps (b ch : Nat) (s : State) : (State.startPull b ch s).settings = s.settings := rfl
theorem execRelayPullDue_keeps (ch : Nat) (rbLow : Bool) (s : State) :
    Res.keeps (execRelayPullDue ch rbLow s) s.settings := by
  unfold execRelayPullDue
  repeat' (first
    | with_reducible rfl | (intro _; intros) | (with_reducible refine next_keeps _ _ ?_)
    | (with_reducible refine onlyIf_keeps _ _ _ _ ?_ ?_) | split | simp)
theorem execTargetPull_keeps (ch : Nat) (s : State) : Res.keeps (execTargetPull ch s) s.settings := by
  unfold execTargetPull
  repeat' (first
    | with_reducible rfl | (intro _; intros) | (with_reducible refine next_keeps _ _ ?_)
    | (with_reducible refine onlyIf_keeps _ _ _ _ ?_ ?_) | split | simp)
theorem execRelayTransferEnd_keeps (ch : Nat) (rbLow : Bool) (s : State) :
    Res.keeps (execRelayTransferEnd ch rbLow s) s.settings := by
  unfold execRelayTransferEnd
  repeat' (first
    | with_reducible assumption | with_reducible rfl | (intro _; intros)
    | (extract_lets +onlyGivenNames y; first
       | ((first | refine split_var y _ _ ?_ ?_ | refine split_res y _ _ ?_ ?_); unfold y; clear y; have y : True := True.intro; rotate_left
          intro hy; clear_value y; have y : True := True.intro; rotate_right)
       | (clear_value y; have y : True := True.intro))
    | (with_reducible refine next_keeps _ _ ?_) | (with_reducible refine onlyIf_keeps _ _ _ _ ?_ ?_) | split | simp)
theorem execRelayHeartbeatDue_keeps (ch : Nat) (s : State) : Res.keeps (execRelayHeartbeatDue ch s) s.settings := by
  unfold execRelayHeartbeatDue
  repeat' (first
    | with_reducible rfl | (intro _; intros)
    | (extract_lets +onlyGivenNames y; first
       | ((first | refine split_var y _ _ ?_ ?_ | refine split_res y _ _ ?_ ?_); unfold y; clear y; have y : True := True.intro; rotate_left
          intro hy; clear_value y; have y : True := True.intro; rotate_right)
       | (clear_value y; have y : True := True.intro))
    | (with_reducible refine next_keeps _ _ ?_) | (with_reducible refine onlyIf_keeps _ _ _ _ ?_ ?_) | split | simp)
theorem execRelayRetryTimeout_keeps (ch : Nat) (s : State) : Res.keeps (execRelayRetryTimeout ch s) s.settings := by
  unfold execRelayRetryTimeout
  repeat' (first
    | with_reducible rfl | (intro _; intros) | (with_reducible refine next_keeps _ _ ?_)
    | (with_reducible refine onlyIf_keeps _ _ _ _ ?_ ?_) | split | simp)
theorem execRelayChannelSilent_keeps (ch : Nat) (s : State) : Res.keeps (execRelayChannelSilent ch s) s.settings := by
  unfold execRelayChannelSilent
  repeat' (first
    | with_reducible rfl | (intro _; intros)
    | (extract_lets +onlyGivenNames y; first
       | ((first | refine split_var y _ _ ?_ ?_ | refine split_res y _ _ ?_ ?_); unfold y; clear y; have y : True := True.intro; rotate_left
          intro hy; clear_value y; have y : True := True.intro; rotate_right)
       | (clear_value y; have y : True := True.intro))
    | (with_reducible refine next_keeps _ _ ?_) | (with_reducible refine onlyIf_keeps _ _ _ _ ?_ ?_) | split | simp)
theorem execRelayLinkDown_keeps (ch : Nat) (s : State) : Res.keeps (execRelayLinkDown ch s) s.settings := by
  unfold execRelayLinkDown
  split
  · exact next_keeps _ _ rfl
  · exact onlyIf_keeps _ _ _ _ rfl (fun _ => by simp)
theorem execTrainHoldExpiry_keeps (ch : Nat) (s : State) : Res.keeps (execTrainHoldExpiry ch s) s.settings := by
  unfold execTrainHoldExpiry
  split
  · exact next_keeps _ _ rfl
  · exact onlyIf_keeps _ _ _ _ rfl (fun _ => by simp)
theorem execRelayHoldExpiry_keeps (ch : Nat) (s : State) : Res.keeps (execRelayHoldExpiry ch s) s.settings := by
  unfold execRelayHoldExpiry
  split
  · exact next_keeps _ _ rfl
  · exact onlyIf_keeps _ _ _ _ rfl (fun _ => by simp)

/-! ## Train -/

@[simp] theorem State.setInterface_keeps (k c e : Nat) (s : State) :
    (State.setInterface k c e s).settings = s.settings := rfl
@[simp] theorem State.calibrateZq_keeps (k c e : Nat) (s : State) :
    (State.calibrateZq k c e s).settings = s.settings := by
  unfold State.calibrateZq
  split <;> rfl
theorem State.driveVref_keeps {ch l n : Nat} {s t : State} (h : s.driveVref ch l n = some t) :
    t.settings = s.settings := by
  unfold State.driveVref at h
  split at h
  · exact State.runSetUp_keeps h
  · cases h; rfl
theorem State.trainCe_keeps {ch rate : Nat} {first : Bool} {v : BitVec 6} {e l : Nat} {s t : State}
    (h : s.trainCe ch rate first v e l = some t) : t.settings = s.settings := by
  unfold State.trainCe at h
  dsimp only at h
  obtain ⟨a, h1, rfl⟩ := Option.map_eq_some_iff.mp h
  obtain ⟨b, hb, h1⟩ := Option.bind_eq_some_iff.mp h1
  have hl : b.settings = s.settings := by
    split at hb
    · refine bindFold_keeps (fun n s => (State.driveVref ch l n s).map (State.addSetup ch e [.wrTrain])) (fun n s t h => ?_)
        ((List.range 64).filter (fun i => i % sweepStride rate == 0))
        (some (s.addSetup ch e [.rdTrain])) _ (fun u hu => ?_) b ?_
      · obtain ⟨u, hu, rfl⟩ := Option.map_eq_some_iff.mp h
        rw [State.addSetup_keeps, State.driveVref_keeps hu]
      · cases hu
        exact State.addSetup_keeps _ _ _ _
      · rw [← hb]
        congr 1
        funext o n
        cases o <;> rfl
    · cases hb; rfl
  have ha := (State.driveVref_keeps h1).trans hl
  repeat' split
  all_goals simp [ha]
theorem State.trainPins_keeps {ch rate : Nat} {v : BitVec 6} {s t : State} (h : s.trainPins ch rate v = some t) :
    t.settings = s.settings := by
  unfold State.trainPins at h
  split at h
  · cases h; rfl
  · obtain ⟨u, hu, rfl⟩ := Option.map_eq_some_iff.mp h
    have e := bindFold_keeps (fun (q : Nat × Nat) t => State.trainCe ch rate (some q.1 == (s.countedCes ch).head?) v q.1 q.2 t)
      (fun _ _ _ h => State.trainCe_keeps h) _ (some s) _ (fun _ h => by cases h; rfl) u hu
    split
    · exact (State.addSetup_keeps _ _ _ _).trans e
    · exact e
theorem State.eachCounted_keeps (k : Nat) (f : Nat → Nat → State → State) (s : State)
    (h : ∀ c e s, (f c e s).settings = s.settings) : (s.eachCounted k f).settings = s.settings :=
  foldl_keeps _ _ (fun s c => foldl_keeps _ _ (fun s e => h c e s) s) s
@[simp] theorem State.setUpPair_keeps (k : Nat) (s : State) : (State.setUpPair k s).settings = s.settings := by
  unfold State.setUpPair
  refine (State.eachCounted_keeps _ _ _ (State.calibrateZq_keeps _)).trans
    ((State.eachCounted_keeps _ _ _ (State.setInterface_keeps _)).trans ?_)
  split
  · rfl
  · exact (foldl_keeps _ _ (fun _ _ => State.onLun_keeps _ _ _) _).trans (State.onPair_keeps _ _ _)
@[simp] theorem State.beginTraining_keeps (k : Nat) (s : State) :
    (State.beginTraining k s).settings = s.settings := by
  unfold State.beginTraining
  dsimp only
  split <;> simp
theorem execStartTraining_keeps (pair : Nat) (s : State) :
    Res.keeps (execStartTraining pair s) s.settings := onlyIf_keeps _ _ _ _ rfl (fun _ => by simp)
theorem execTrainingStart_keeps (pair : Nat) (s : State) : Res.keeps (execTrainingStart pair s) s.settings := by
  unfold execTrainingStart
  repeat' (first
    | with_reducible assumption | with_reducible rfl | (intro _; intros)
    | (extract_lets +onlyGivenNames y; first
       | ((first | refine split_var y _ _ ?_ ?_ | refine split_res y _ _ ?_ ?_); unfold y; clear y; have y : True := True.intro; rotate_left
          intro hy; clear_value y; have y : True := True.intro; rotate_right)
       | (clear_value y; have y : True := True.intro))
    | (with_reducible refine onlyIf_keeps _ _ _ _ ?_ ?_) | split | simp)
theorem State.pairPins_keeps {k : Nat} {lo hi : Sweep} {s t : State} (h : s.pairPins k lo hi = some t) :
    t.settings = s.settings := by
  unfold State.pairPins at h
  exact bindFold_keeps (fun c t => t.trainPins c (s.pair k).rate (s.trained c (s.pair k).rate (sweepOf c lo hi)).1.wrVref)
    (fun _ _ _ h => State.trainPins_keeps h) _ (some s) _ (fun _ h => by cases h; rfl) t h
theorem State.sequenceRun_keeps (k : Nat) (lo hi : Sweep) (f : State → State) (s : State)
    (h : ∀ t, (f t).settings = t.settings) : Res.keeps (State.sequenceRun k lo hi f s) s.settings :=
  runRes_keeps _ _ (fun t ht => by
    obtain ⟨u, hu, rfl⟩ := Option.map_eq_some_iff.mp ht
    have hu := State.pairPins_keeps hu
    split
    · exact (h u).trans hu
    · exact hu)
@[simp] theorem State.trainingPassed_keeps (k : Nat) (lo hi : Sweep) (s : State) :
    (State.trainingPassed k lo hi s).settings = s.settings := by
  unfold State.trainingPassed
  repeat' (first
    | with_reducible assumption | with_reducible rfl | (intro _; intros)
    | (extract_lets +onlyGivenNames y; first
       | (refine split_var y _ _ ?_ ?_; unfold y; clear y; have y : True := True.intro; rotate_left
          intro hy; clear_value y; have y : True := True.intro; rotate_right)
       | (clear_value y; have y : True := True.intro))
    | (with_reducible refine fold_keeps _ _ _ _ ?_ ?_) | (with_reducible refine State.onCal_keeps' _ _ _ ?_ ?_) | simp)
theorem execTrainingComplete_keeps (pair : Nat) (lo hi : Sweep) (s : State) :
    Res.keeps (execTrainingComplete pair lo hi s) s.settings := by
  unfold execTrainingComplete
  split
  · exact State.sequenceRun_keeps _ _ _ _ _ (fun _ => by simp)
  · exact next_keeps _ _ rfl
@[simp] theorem State.trainFailed_keeps (k cause : Nat) (bad : List Nat) (s : State) :
    (State.trainFailed k cause bad s).settings = s.settings := by
  unfold State.trainFailed
  repeat' (first
    | with_reducible rfl | (intro _; intros) | split | (with_reducible refine fold_keeps _ _ _ _ ?_ ?_)
    | (with_reducible refine State.onCal_keeps' _ _ _ ?_ ?_) | simp)
theorem execTrainingFail_keeps (pair : Nat) (lo hi : Sweep) (s : State) :
    Res.keeps (execTrainingFail pair lo hi s) s.settings := by
  unfold execTrainingFail
  dsimp only
  split
  · exact State.sequenceRun_keeps _ _ _ _ _ (fun _ => by simp)
  · exact next_keeps _ _ rfl
theorem execTrainingTimeout_keeps (pair : Nat) (s : State) :
    Res.keeps (execTrainingTimeout pair s) s.settings := onlyIf_keeps _ _ _ _ rfl (fun _ => by simp)
@[simp] theorem State.targetReturns_keeps (ch : Nat) (s : State) :
    (State.targetReturns ch s).settings = s.settings := by
  unfold State.targetReturns
  split <;> rfl
theorem execTargetTrainingCommand_keeps (ch : Nat) (sweep : Sweep) (s : State) :
    Res.keeps (execTargetTrainingCommand ch sweep s) s.settings := by
  unfold execTargetTrainingCommand
  repeat' (first
    | with_reducible assumption | with_reducible rfl | (intro _; intros)
    | (extract_lets +onlyGivenNames y; first
       | ((first | refine split_var y _ _ ?_ ?_ | refine split_res y _ _ ?_ ?_); unfold y; clear y; have y : True := True.intro; rotate_left
          intro hy; clear_value y; have y : True := True.intro; rotate_right)
       | (clear_value y; have y : True := True.intro))
    | (with_reducible refine onlyIf_keeps _ _ _ _ ?_ ?_) | split | simp)

/-! ## Psp -/

@[simp] theorem State.pspEvent_keeps (was : Bool) (f : Psp → Psp) (s : State) (h : (f s.psp).cfg = s.psp.cfg) :
    (State.pspEvent was f s).settings = s.settings := by
  unfold State.pspEvent
  dsimp only
  repeat' split
  all_goals simp [h]
@[simp] theorem State.pspSource_keeps (s : State) : (State.pspSource s).settings = s.settings := by
  unfold State.pspSource
  dsimp only
  split <;> simp
@[simp] theorem State.takeEpoch_keeps (e : Word) (s : State) :
    (State.takeEpoch e s).settings = s.settings := by simp [State.takeEpoch]
@[simp] theorem State.pspHear_keeps (f : PFrame) (s : State) : (State.pspHear f s).settings = s.settings := by
  unfold State.pspHear
  repeat' (first | rfl | split | simp)
theorem execPspMemberDue_keeps (s : State) :
    Res.keeps (execPspMemberDue s) s.settings := onlyIf_keeps _ _ _ _ rfl (fun _ => by simp)
theorem execPspTimeDue_keeps (s : State) :
    Res.keeps (execPspTimeDue s) s.settings := onlyIf_keeps _ _ _ _ rfl (fun _ => rfl)
theorem execPspMemberFrame_keeps (f : PFrame) (s : State) :
    Res.keeps (execPspMemberFrame f s) s.settings := onlyIf_keeps _ _ _ _ rfl (fun _ => by simp)
@[simp] theorem Time.takeOffset_set (o : Int) (t : Time) : (t.takeOffset o).set = t.set := by
  unfold Time.takeOffset
  dsimp only
  split <;> rfl
theorem execPspTimeFrame_keeps (f : PFrame) (local_ : Ns) (s : State) :
    Res.keeps (execPspTimeFrame f local_ s) s.settings := by
  refine onlyIf_keeps _ _ _ _ rfl (fun _ => ?_)
  dsimp only
  split <;> simp
theorem execPspBadFrame_keeps (s : State) :
    Res.keeps (execPspBadFrame s) s.settings := onlyIf_keeps _ _ _ _ rfl (fun _ => rfl)
theorem execPspMemberTimeout_keeps (id : Nat) (s : State) : Res.keeps (execPspMemberTimeout id s) s.settings := by
  unfold execPspMemberTimeout
  split
  · exact next_keeps _ _ rfl
  · exact onlyIf_keeps _ _ _ _ rfl (fun _ => by simp)
theorem execPspListenEnd_keeps (s : State) : Res.keeps (execPspListenEnd s) s.settings := by
  unfold execPspListenEnd
  split
  · exact next_keeps _ _ rfl
  · exact onlyIf_keeps _ _ _ _ rfl (fun _ => by simp)
theorem execPspSyncLapse_keeps (s : State) :
    Res.keeps (execPspSyncLapse s) s.settings := onlyIf_keeps _ _ _ _ rfl (fun _ => rfl)

end Sys2Proof.Machine
end

