-- ==== Sys2Proof/Laws/KeepPlatform.lean ====
section
/-! SUPPORT. The settings are kept: NVS, start-up, resets, the sleep states and the host control port. -/

namespace Sys2Proof.Machine

/-! ## Nvs -/

@[simp] theorem State.markUnit_keeps (unit : Option Nat) (kind : Nat) (s : State) :
    (State.markUnit unit kind s).settings = s.settings := by
  unfold State.markUnit
  repeat' split
  all_goals simp
@[simp] theorem State.markDurable_keeps (unit : Option Nat) (kind : Nat) (r : NvsReq) (s : State) :
    (State.markDurable unit kind r s).settings = s.settings := by
  unfold State.markDurable
  repeat' (first | rfl | split | simp)
@[simp] theorem State.snapDurable_keeps (k : Nat) (r : NvsReq) (s : State) :
    (State.snapDurable k r s).settings = s.settings := by
  unfold State.snapDurable
  repeat' (first
    | with_reducible assumption | with_reducible rfl | (intro _; intros)
    | (extract_lets +onlyGivenNames y; first
       | (refine split_var y _ _ ?_ ?_; unfold y; clear y; have y : True := True.intro; rotate_left
          intro hy; clear_value y; have y : True := True.intro; rotate_right)
       | (clear_value y; have y : True := True.intro))
    | split | (with_reducible refine fold_keeps _ _ _ _ ?_ ?_)
    | (with_reducible refine State.onNvs_keeps' _ _ _ ?_ ?_) | simp)
@[simp] theorem State.scanEnds_keeps (s : State) : (State.scanEnds s).settings = s.settings := by
  unfold State.scanEnds
  split <;> rfl
theorem execNvsRetryDue_keeps (s : State) :
    Res.keeps (execNvsRetryDue s) s.settings := onlyIf_keeps _ _ _ _ rfl (fun _ => by simp)
theorem execSnapshotStart_keeps (s : State) :
    Res.keeps (execSnapshotStart s) s.settings := onlyIf_keeps _ _ _ _ rfl (fun _ => by simp)
theorem execHealthUpdateDue_keeps (s : State) :
    Res.keeps (execHealthUpdateDue s) s.settings := onlyIf_keeps _ _ _ _ rfl (fun _ => by simp)

/-! ## Startup -/

@[simp] theorem Nvs.scanRing_set (n : Nvs) : n.scanRing.set = n.set := by
  unfold Nvs.scanRing
  dsimp only
  repeat' (first | rfl | split)
@[simp] theorem Nvs.scanHealth_set (n : Nvs) : n.scanHealth.set = n.set := by
  unfold Nvs.scanHealth
  dsimp only
  repeat' (first | rfl | split)
@[simp] theorem Nvs.scanSnaps_set (n : Nvs) : n.scanSnaps.set = n.set := by
  unfold Nvs.scanSnaps
  dsimp only
  repeat' (first | rfl | split)
theorem execNvsStartScanEnd_keeps (s : State) : Res.keeps (execNvsStartScanEnd s) s.settings := by
  refine onlyIf_keeps _ _ _ _ rfl (fun _ => ?_)
  have h : ∀ n : Nvs, ∀ a b c e, ({ n.scanRing.scanHealth.scanSnaps with scanned := a, booting := b, sparesLeft := c, healthAt := e } : Nvs).set =
      n.set := fun n _ _ _ _ => (Nvs.scanSnaps_set _).trans ((Nvs.scanHealth_set _).trans (Nvs.scanRing_set _))
  dsimp only
  split
  · exact (State.onRly_keeps _ _ rfl).trans (State.onNvs_keeps _ _ (h _ _ _ _ _))
  · exact (State.nvsHealth_keeps _ _).trans (State.onNvs_keeps _ _ (h _ _ _ _ _))
theorem execSerialDiscovery_keeps (sfdp : Sfdp) (opt0 opt1 : List Byte) (suspended : Bool) (s : State) :
    Res.keeps (execSerialDiscovery sfdp opt0 opt1 suspended s) s.settings := by
  refine onlyIf_keeps _ _ _ _ rfl (fun _ => ?_)
  repeat' split
  all_goals simp
@[simp] theorem State.askReerase_keeps (secs : List Nat) (s : State) :
    (State.askReerase secs s).settings = s.settings := foldl_keeps _ _ (fun _ _ => by simp) _
@[simp] theorem State.bootFails_keeps (s : State) :
    (State.bootFails s).settings = s.settings := by simp [State.bootFails]
@[simp] theorem State.chooseRecord_keeps (s : State) : (State.chooseRecord s).settings = s.settings := by
  unfold State.chooseRecord
  repeat' (first | rfl | split | simp)
theorem execSlotSelection_keeps (s : State) : Res.keeps (execSlotSelection s) s.settings := by
  refine onlyIf_keeps _ _ _ _ rfl (fun _ => ?_)
  dsimp only
  split <;> simp
@[simp] theorem State.setPers_keeps (s : State) :
    (State.setPers s).settings = s.settings := foldl_keeps _ _ (fun _ _ => by simp) _
@[simp] theorem State.loadIdentity_keeps (slot : Bool) (m : SparseBytes) (s : State) :
    (State.loadIdentity slot m s).settings = s.settings := rfl
@[simp] theorem State.slotFails_keeps (s : State) : (State.slotFails s).settings = s.settings := by
  unfold State.slotFails
  split <;> simp
theorem execSerialSectorReerase_keeps (sector : Nat) (s : State) :
    Res.keeps (execSerialSectorReerase sector s) s.settings := onlyIf_keeps _ _ _ _ rfl (fun _ => by simp)
theorem execWasterTableBuild_keeps (s : State) : Res.keeps (execWasterTableBuild s) s.settings := by
  unfold execWasterTableBuild
  repeat' (first
    | with_reducible assumption | with_reducible rfl | (intro _; intros)
    | (extract_lets +onlyGivenNames y; first
       | ((first | refine split_var y _ _ ?_ ?_ | refine split_res y _ _ ?_ ?_); unfold y; clear y; have y : True := True.intro; rotate_left
          intro hy; clear_value y; have y : True := True.intro; rotate_right)
       | (clear_value y; have y : True := True.intro))
    | (with_reducible refine onlyIf_keeps _ _ _ _ ?_ ?_) | (with_reducible refine fold_keeps _ _ _ _ ?_ ?_)
    | (with_reducible refine State.onLdg_keeps' _ _ _ ?_ ?_) | simp)
theorem execCalibrationRestore_keeps (s : State) : Res.keeps (execCalibrationRestore s) s.settings := by
  unfold execCalibrationRestore
  repeat' (first
    | with_reducible assumption | with_reducible rfl | (intro _; intros)
    | (extract_lets +onlyGivenNames y; first
       | ((first | refine split_var y _ _ ?_ ?_ | refine split_res y _ _ ?_ ?_); unfold y; clear y; have y : True := True.intro; rotate_left
          intro hy; clear_value y; have y : True := True.intro; rotate_right)
       | (clear_value y; have y : True := True.intro))
    | (with_reducible refine onlyIf_keeps _ _ _ _ ?_ ?_) | split | (with_reducible refine fold_keeps _ _ _ _ ?_ ?_)
    | (with_reducible refine State.onCal_keeps' _ _ _ ?_ ?_) | simp)
@[simp] theorem State.checkDone_keeps (lun : Nat) (good ext : Bool) (s : State) :
    (State.checkDone lun good ext s).settings = s.settings := rfl
theorem execDieCheck_keeps (lun : Nat) (id : List Byte) (ext : Byte) (s : State) :
    Res.keeps (execDieCheck lun id ext s) s.settings := by
  unfold execDieCheck
  split
  · exact next_keeps _ _ rfl
  · extract_lets before base
    split
    · split
      split
      refine runRes_keeps _ _ (fun t h => ?_)
      obtain ⟨x, -, h⟩ := Option.bind_eq_some_iff.mp h
      dsimp only at h
      obtain ⟨y, -, rfl⟩ := Option.map_eq_some_iff.mp h
      split <;> simp
    · exact next_keeps _ _ rfl
@[simp] theorem State.placeTemps_keeps (s : State) : (State.placeTemps s).settings = s.settings := by
  unfold State.placeTemps
  repeat' (first
    | with_reducible rfl | (intro _; intros)
    | (extract_lets +onlyGivenNames y; first
       | (refine split_var y _ _ ?_ ?_; unfold y; clear y; have y : True := True.intro; rotate_left
          intro hy; clear_value y; have y : True := True.intro; rotate_right)
       | (clear_value y; have y : True := True.intro))
    | split | (with_reducible refine fold_keeps _ _ _ _ ?_ ?_) | simp)
@[simp] theorem State.placePatrol_keeps (l : Nat) (s : State) : (State.placePatrol l s).settings = s.settings := by
  unfold State.placePatrol
  split <;> rfl
@[simp] theorem State.becomeReady_keeps (s : State) : (State.becomeReady s).settings = s.settings := by
  unfold State.becomeReady
  repeat' (first
    | with_reducible assumption | with_reducible rfl | (intro _; intros)
    | (extract_lets +onlyGivenNames y; first
       | (refine split_var y _ _ ?_ ?_; unfold y; clear y; have y : True := True.intro; rotate_left
          intro hy; clear_value y; have y : True := True.intro; rotate_right)
       | (clear_value y; have y : True := True.intro))
    | split | (with_reducible refine fold_keeps _ _ _ _ ?_ ?_)
    | (with_reducible refine State.onHif_keeps' _ _ _ ?_ ?_) | simp)
theorem execStartUpReady_keeps (s : State) :
    Res.keeps (execStartUpReady s) s.settings := onlyIf_keeps _ _ _ _ rfl (fun _ => by simp)

/-! ## Resets -/

@[simp] theorem State.cutHcp_keeps (s : State) : (State.cutHcp s).settings = s.settings := by
  unfold State.cutHcp
  split <;> rfl
@[simp] theorem State.beginStart_keeps (straps : BitVec 11) (s : State) :
    (State.beginStart straps s).settings = s.settings := by simp [State.beginStart]
theorem execColdStart_keeps (straps : BitVec 11) (s : State) :
    Res.keeps (execColdStart straps s) s.settings := onlyIf_keeps _ _ _ _ rfl (fun _ => by simp)
@[simp] theorem State.warmHdp_keeps (s : State) : (State.warmHdp s).settings = s.settings := rfl
@[simp] theorem State.restartDma_keeps (ix : Nat) (s : State) : (State.restartDma ix s).settings = s.settings := by
  unfold State.restartDma
  repeat' split
  all_goals simp
@[simp] theorem State.warmDma_keeps (s : State) : (State.warmDma s).settings = s.settings := by
  unfold State.warmDma
  dsimp only [State.drawFree]
  repeat' (first | with_reducible rfl | split | (with_reducible refine State.onDma_keeps' _ _ _ ?_ ?_) | simp)
@[simp] theorem State.cutGrant_keeps (s : State) (g : Grant) : (State.cutGrant s g).settings = s.settings := by
  unfold State.cutGrant
  split <;> rfl
@[simp] theorem State.warmGrants_keeps (s : State) : (State.warmGrants s).settings = s.settings := by
  unfold State.warmGrants
  repeat' (first
    | with_reducible assumption | with_reducible rfl | (intro _; intros)
    | (extract_lets +onlyGivenNames y; first
       | (refine split_var y _ _ ?_ ?_; unfold y; clear y; have y : True := True.intro; rotate_left
          intro hy; clear_value y; have y : True := True.intro; rotate_right)
       | (clear_value y; have y : True := True.intro))
    | (with_reducible refine fold_keeps _ _ _ _ ?_ ?_) | simp)
@[simp] theorem State.warmPool_keeps (s : State) : (State.warmPool s).settings = s.settings := rfl
@[simp] theorem State.resetTrainees_keeps (k : Nat) (s : State) :
    (State.resetTrainees k s).settings = s.settings := by
  unfold State.resetTrainees
  repeat' (first | with_reducible rfl | (intro _; intros) | (with_reducible refine fold_keeps _ _ _ _ ?_ ?_) | simp)
@[simp] theorem State.warmCal_keeps (s : State) :
    (State.warmCal s).settings = s.settings := foldl_keeps _ _ (fun _ _ => by simp) _
@[simp] theorem State.warmAssert_keeps (s : State) : (State.warmAssert s).settings = s.settings := by
  unfold State.warmAssert
  repeat' (first
    | with_reducible assumption | with_reducible rfl | (intro _; intros)
    | (extract_lets +onlyGivenNames y; first
       | (refine split_var y _ _ ?_ ?_; unfold y; clear y; have y : True := True.intro; rotate_left
          intro hy; clear_value y; have y : True := True.intro; rotate_right)
       | (clear_value y; have y : True := True.intro))
    | (with_reducible refine fold_keeps _ _ _ _ ?_ ?_)
    | (with_reducible first
       | refine State.onHif_keeps' _ _ _ ?_ ?_ | refine State.onIrq_keeps' _ _ _ ?_ ?_ | refine State.onLdg_keeps' _ _ _ ?_ ?_)
    | (with_reducible first | refine State.onRly_keeps' _ _ _ ?_ ?_ | refine State.onSpm_keeps' _ _ _ ?_ ?_)
    | simp)
@[simp] theorem State.warmSpm_keeps (suspended : Bool) (s : State) :
    (State.warmSpm suspended s).settings = s.settings := by
  unfold State.warmSpm
  repeat' (first | rfl | split | simp)
@[simp] theorem State.walkBegins_keeps (s : State) : (State.walkBegins s).settings = s.settings := rfl
@[simp] theorem State.replayWalk_keeps (s : State) : (State.replayWalk s).settings = s.settings := by
  unfold State.replayWalk
  repeat' (first
    | with_reducible rfl | (intro _; intros) | split | (with_reducible refine fold_keeps _ _ _ _ ?_ ?_) | simp)
@[simp] theorem State.warmStart_keeps (ecc : Ecc) (suspended : Bool) (s : State) :
    (State.warmStart ecc suspended s).settings = s.settings := by
  unfold State.warmStart
  repeat' (first
    | with_reducible assumption | with_reducible rfl | (intro _; intros)
    | (extract_lets +onlyGivenNames y; first
       | (refine split_var y _ _ ?_ ?_; unfold y; clear y; have y : True := True.intro; rotate_left
          intro hy; clear_value y; have y : True := True.intro; rotate_right)
       | (clear_value y; have y : True := True.intro))
    | split | (with_reducible refine fold_keeps _ _ _ _ ?_ ?_)
    | (with_reducible refine State.onHif_keeps' _ _ _ ?_ ?_) | (with_reducible refine State.onLdg_keeps' _ _ _ ?_ ?_)
    | simp)

/-! ## Power -/

@[simp] theorem Time.correct_set (k : BitVec 48) (t : Time) : (t.correct k).set = t.set := by
  unfold Time.correct
  dsimp only
  split <;> rfl
theorem Time.advance_set (a : Int) (t : Time) : (t.advance a).set = t.set := rfl
@[simp] theorem Time.edge_set (t : Time) : t.edge.set = t.set := by
  unfold Time.edge
  extract_lets u
  have hu : u.set = t.set := rfl
  clear_value u
  repeat' (first
    | exact hu | exact (Time.advance_set _ _).trans hu | split
    | (simp only [Time.set, Time.advance, Time.setSum] at *; exact hu))
theorem Pwr.request_set (v : BitVec 3) (p : Pwr) : (p.request v).set = p.set := by
  unfold Pwr.request
  split <;> rfl
theorem Pwr.edge_set (p : Pwr) : p.edge.set = p.set := by
  unfold Pwr.edge
  repeat' split
  all_goals first | rfl | exact Pwr.request_set _ _
@[simp] theorem State.aonEdge_keeps (s : State) : (State.aonEdge s).settings = s.settings := by
  unfold State.aonEdge
  refine (State.onIrq_keeps _ _ ?_).trans ((State.onTime_keeps _ _ ?_).trans (State.onPwr_keeps _ _ (Pwr.edge_set _)))
  · repeat' (first | rfl | split)
  · dsimp only
    split
    · exact Time.correct_set _ _
    · rfl
@[simp] theorem State.noteIdle_keeps (s : State) : (State.noteIdle s).settings = s.settings := rfl
@[simp] theorem State.noteTick_keeps (before : Ns) (s : State) :
    (State.noteTick before s).settings = s.settings := rfl
theorem keeps_ite {c : Prop} [Decidable c] {a b : State} {x : Settings} (ha : a.settings = x) (hb : b.settings = x) :
    (if c then a else b).settings = x := by
  split <;> assumption
@[simp] theorem State.tick_keeps (s : State) : (State.tick s).settings = s.settings := by
  unfold State.tick
  split
  · exact State.aonEdge_keeps s
  · refine (State.noteIdle_keeps _).trans ((State.noteTick_keeps _ _).trans ?_)
    have h : (if s.sys.started = true then s.onTime Time.edge else s).settings = s.settings := by
      split
      · refine State.onTime_keeps _ _ ?_
        unfold Time.edge
        dsimp only
        repeat' (first | rfl | split)
      · rfl
    exact keeps_ite ((State.onTime_keeps _ _ rfl).trans h)
      ((State.onTime_keeps _ _ rfl).trans ((State.aonEdge_keeps _).trans h))
theorem execPaceWindowEnd_keeps (crossings : Nat) (s : State) :
    Res.keeps (execPaceWindowEnd crossings s) s.settings := by
  unfold execPaceWindowEnd
  repeat' (first
    | with_reducible assumption | with_reducible rfl | (intro _; intros)
    | (with_reducible refine onlyIf_keeps _ _ _ _ ?_ ?_) | split
    | (with_reducible refine State.onTime_keeps' _ _ _ ?_ ?_) | simp only [State.onFreeCtr_keeps] | rfl)
theorem execTimeAlarmFire_keeps (s : State) :
    Res.keeps (execTimeAlarmFire s) s.settings := onlyIf_keeps _ _ _ _ rfl (fun _ => by simp)
theorem execTimeCompensation_keeps (s : State) :
    Res.keeps (execTimeCompensation s) s.settings := onlyIf_keeps _ _ _ _ rfl (fun _ => rfl)
theorem execTimeAonCorrection_keeps (s : State) :
    Res.keeps (execTimeAonCorrection s) s.settings := onlyIf_keeps _ _ _ _ rfl (fun _ => by simp)
@[simp] theorem State.sleepAborted_keeps (unit : Nat) (s : State) :
    (State.sleepAborted unit s).settings = s.settings := by simp [State.sleepAborted]
theorem execSoakEntry_keeps (wakeDuringPrepare : Bool) (refuses : Option Nat) (s : State) :
    Res.keeps (execSoakEntry wakeDuringPrepare refuses s) s.settings := by
  refine onlyIf_keeps _ _ _ _ rfl (fun _ => ?_)
  repeat' split
  all_goals first | exact State.sleepAborted_keeps _ _ | exact State.onPwr_keeps _ _ (Pwr.request_set 1 _)
theorem execBankEntry_keeps (s : State) : Res.keeps (execBankEntry s) s.settings :=
  onlyIf_keeps _ _ _ _ rfl fun _ => State.onPwr_keeps _ _ (Pwr.request_set 2 _)
theorem execEmberEntry_keeps (s : State) : Res.keeps (execEmberEntry s) s.settings :=
  onlyIf_keeps _ _ _ _ rfl fun _ => (State.onTime_keeps _ _ rfl).trans (State.onPwr_keeps _ _ (Pwr.request_set 3 _))
theorem execWakeEvent_keeps (cause : Wake) (s : State) :
    Res.keeps (execWakeEvent cause s) s.settings := onlyIf_keeps _ _ _ _ rfl (fun _ => by split <;> simp)
theorem execWakeIn_keeps (s : State) :
    Res.keeps (execWakeIn s) s.settings := onlyIf_keeps _ _ _ _ rfl (fun _ => by simp)
theorem execWatcherWake_keeps (cause : Wake) (s : State) : Res.keeps (execWatcherWake cause s) s.settings := by
  unfold execWatcherWake
  dsimp only [State.drawFree]
  repeat' (first
    | with_reducible assumption | with_reducible rfl | (intro _; intros)
    | (with_reducible refine onlyIf_keeps _ _ _ _ ?_ ?_) | split
    | (with_reducible refine State.onPwr_keeps' _ _ _ ?_ ?_))
theorem execPwrAckRise_keeps (s : State) : Res.keeps (execPwrAckRise s) s.settings :=
  onlyIf_keeps _ _ _ _ rfl fun _ => State.onPwr_keeps _ _ (by split <;> rfl)
@[simp] theorem State.exitEnds_keeps (s : State) : (State.exitEnds s).settings = s.settings := by
  unfold State.exitEnds
  repeat' (first | rfl | split | simp)
@[simp] theorem State.padRelease_keeps (s : State) : (State.padRelease s).settings = s.settings := by
  unfold State.padRelease
  repeat' (first
    | with_reducible assumption | with_reducible rfl | (intro _; intros)
    | (extract_lets +onlyGivenNames y; first
       | (refine split_var y _ _ ?_ ?_; unfold y; clear y; have y : True := True.intro; rotate_left
          intro hy; clear_value y; have y : True := True.intro; rotate_right)
       | (clear_value y; have y : True := True.intro))
    | split | (with_reducible refine fold_keeps _ _ _ _ ?_ ?_)
    | (with_reducible refine State.onPwr_keeps' _ _ _ ?_ ?_) | simp)
theorem execPadRelease_keeps (data : Word) (s : State) : Res.keeps (execPadRelease data s) s.settings := by
  unfold execPadRelease
  repeat' (first
    | with_reducible assumption | with_reducible rfl | (intro _; intros)
    | (with_reducible refine hcpAccess_keeps _ _ _ ?_ ?_) | split | simp)

/-! ## Hcp -/

theorem ite_keeps (c : Prop) [Decidable c] (a b : State) (x : Settings) (h : a.settings = x) (k : b.settings = x) :
    (if c then a else b).settings = x := by
  split
  · exact h
  · exact k
@[simp] theorem State.readEffect_keeps (o : Nat) (s : State) : (State.readEffect o s).settings = s.settings := by
  unfold State.readEffect
  dsimp only
  repeat' (first | with_reducible refine ite_keeps _ _ _ _ ?_ ?_ | simp)
@[simp] theorem State.readAccess_keeps (o : Nat) (s : State) :
    (State.readAccess o s).settings = s.settings := by simp [State.readAccess]
@[simp] theorem State.windowWrite_keeps (s : State) : (State.windowWrite s).settings = s.settings := rfl
theorem execHcpAccessInReset_keeps (_write : Bool) (_off : BitVec 16) (_data : Word) (s : State) :
    Res.keeps (execHcpAccessInReset _write _off _data s) s.settings := onlyIf_keeps _ _ _ _ rfl (fun _ => rfl)
theorem execHcpAccessInSleep_keeps (_write : Bool) (_off : BitVec 16) (_data : Word) (s : State) :
    Res.keeps (execHcpAccessInSleep _write _off _data s) s.settings := onlyIf_keeps _ _ _ _ rfl (fun _ => rfl)
theorem execHcpAccessInBank_keeps (write : Bool) (off : BitVec 16) (data : Word) (s : State) :
    Res.keeps (execHcpAccessInBank write off data s) s.settings := onlyIf_keeps _ _ _ _ rfl (fun _ => by simp)
theorem execRcRegisterRead_keeps (off : BitVec 16) (s : State) : Res.keeps (execRcRegisterRead off s) s.settings := by
  unfold execRcRegisterRead
  repeat' (first
    | with_reducible assumption | with_reducible rfl | (intro _; intros)
    | (with_reducible refine hcpAccess_keeps _ _ _ ?_ ?_) | split | simp)
theorem execTimeCaptureRead_keeps (aon : Bool) (s : State) :
    Res.keeps (execTimeCaptureRead aon s) s.settings := hcpAccess_keeps _ _ _ rfl (fun _ h => by simp [h])
theorem execXipRead_keeps (off : BitVec 16) (s : State) : Res.keeps (execXipRead off s) s.settings := by
  unfold execXipRead
  repeat' (first
    | with_reducible assumption | with_reducible rfl | (intro _; intros)
    | (with_reducible refine hcpAccess_keeps _ _ _ ?_ ?_) | split | simp)
theorem execXipWrite_keeps (off : BitVec 16) (_data : Word) (s : State) :
    Res.keeps (execXipWrite off _data s) s.settings := by
  unfold execXipWrite
  repeat' (first
    | with_reducible assumption | with_reducible rfl | (intro _; intros)
    | (with_reducible refine hcpAccess_keeps _ _ _ ?_ ?_) | split | simp)
@[simp] theorem Spm.writeBase_set (v : Word) (m : Spm) : (m.writeBase v).set = m.set := by
  unfold Spm.writeBase
  dsimp only
  split <;> rfl
theorem execXipBaseWrite_keeps (data : Word) (s : State) : Res.keeps (execXipBaseWrite data s) s.settings :=
  hcpAccess_keeps _ _ _ rfl (fun t h => (State.onSpm_keeps _ _ (Spm.writeBase_set data t.spm)).trans h)
theorem execSpmProgram_keeps (data : Word) (s : State) :
    Res.keeps (execSpmProgram data s) s.settings := spmCmd_keeps _ _ _ _
theorem execSpmErase_keeps (data : Word) (s : State) :
    Res.keeps (execSpmErase data s) s.settings := spmCmd_keeps _ _ _ _
theorem execSpmCommit_keeps (data : Word) (image : SparseBytes) (s : State) :
    Res.keeps (execSpmCommit data image s) s.settings := spmCmd_keeps _ _ _ _
theorem execIrqSrcClr_keeps (data : Word) (s : State) : Res.keeps (execIrqSrcClr data s) s.settings :=
  hcpAccess_keeps _ _ _ rfl (fun _ h => (State.onIrq_keeps _ _ rfl).trans h)
theorem execIrqPendWrite_keeps (hi : Bool) (data : Word) (s : State) :
    Res.keeps (execIrqPendWrite hi data s) s.settings :=
  hcpAccess_keeps _ _ _ rfl (fun _ h => (State.onIrq_keeps _ _ rfl).trans h)
theorem execWakeEnWrite_keeps (data : Word) (s : State) : Res.keeps (execWakeEnWrite data s) s.settings :=
  hcpAccess_keeps _ _ _ rfl (fun _ h => (State.onIrq_keeps _ _ rfl).trans h)

end Sys2Proof.Machine
end

