-- ==== Sys2Proof/Laws/State.lean ====
section
/-! SUPPORT. What each block updater of Machine/Access.lean reads as, field by field, by unfolding nothing else. -/

namespace Sys2Proof.Machine

@[simp] theorem State.onSys_sys (s : State) (f : Sys → Sys) : (s.onSys f).sys = f s.sys := rfl
@[simp] theorem State.onSys_hcp (s : State) (f : Sys → Sys) : (s.onSys f).hcp = s.hcp := rfl
@[simp] theorem State.onSys_hif (s : State) (f : Sys → Sys) : (s.onSys f).hif = s.hif := rfl
@[simp] theorem State.onSys_hdp (s : State) (f : Sys → Sys) : (s.onSys f).hdp = s.hdp := rfl
@[simp] theorem State.onSys_irq (s : State) (f : Sys → Sys) : (s.onSys f).irq = s.irq := rfl
@[simp] theorem State.onSys_pwr (s : State) (f : Sys → Sys) : (s.onSys f).pwr = s.pwr := rfl
@[simp] theorem State.onSys_time (s : State) (f : Sys → Sys) : (s.onSys f).time = s.time := rfl
@[simp] theorem State.onSys_ldg (s : State) (f : Sys → Sys) : (s.onSys f).ldg = s.ldg := rfl
@[simp] theorem State.onSys_pool (s : State) (f : Sys → Sys) : (s.onSys f).pool = s.pool := rfl
@[simp] theorem State.onSys_dec (s : State) (f : Sys → Sys) : (s.onSys f).dec = s.dec := rfl
@[simp] theorem State.onSys_cal (s : State) (f : Sys → Sys) : (s.onSys f).cal = s.cal := rfl
@[simp] theorem State.onSys_img (s : State) (f : Sys → Sys) : (s.onSys f).img = s.img := rfl
@[simp] theorem State.onSys_luns (s : State) (f : Sys → Sys) : (s.onSys f).luns = s.luns := rfl
@[simp] theorem State.onSys_che (s : State) (f : Sys → Sys) : (s.onSys f).che = s.che := rfl
@[simp] theorem State.onSys_phy (s : State) (f : Sys → Sys) : (s.onSys f).phy = s.phy := rfl
@[simp] theorem State.onSys_pairs (s : State) (f : Sys → Sys) : (s.onSys f).pairs = s.pairs := rfl
@[simp] theorem State.onSys_sched (s : State) (f : Sys → Sys) : (s.onSys f).sched = s.sched := rfl
@[simp] theorem State.onSys_rly (s : State) (f : Sys → Sys) : (s.onSys f).rly = s.rly := rfl
@[simp] theorem State.onSys_psp (s : State) (f : Sys → Sys) : (s.onSys f).psp = s.psp := rfl
@[simp] theorem State.onSys_spm (s : State) (f : Sys → Sys) : (s.onSys f).spm = s.spm := rfl
@[simp] theorem State.onSys_nvs (s : State) (f : Sys → Sys) : (s.onSys f).nvs = s.nvs := rfl
@[simp] theorem State.onSys_dma (s : State) (f : Sys → Sys) : (s.onSys f).dma = s.dma := rfl
@[simp] theorem State.onSys_jtag (s : State) (f : Sys → Sys) : (s.onSys f).jtag = s.jtag := rfl
@[simp] theorem State.onSys_freeCtr (s : State) (f : Sys → Sys) : (s.onSys f).freeCtr = s.freeCtr := rfl
@[simp] theorem State.onSys_pending (s : State) (f : Sys → Sys) : (s.onSys f).pending = s.pending := rfl

@[simp] theorem State.onHcp_sys (s : State) (f : Hcp → Hcp) : (s.onHcp f).sys = s.sys := rfl
@[simp] theorem State.onHcp_hcp (s : State) (f : Hcp → Hcp) : (s.onHcp f).hcp = f s.hcp := rfl
@[simp] theorem State.onHcp_hif (s : State) (f : Hcp → Hcp) : (s.onHcp f).hif = s.hif := rfl
@[simp] theorem State.onHcp_hdp (s : State) (f : Hcp → Hcp) : (s.onHcp f).hdp = s.hdp := rfl
@[simp] theorem State.onHcp_irq (s : State) (f : Hcp → Hcp) : (s.onHcp f).irq = s.irq := rfl
@[simp] theorem State.onHcp_pwr (s : State) (f : Hcp → Hcp) : (s.onHcp f).pwr = s.pwr := rfl
@[simp] theorem State.onHcp_time (s : State) (f : Hcp → Hcp) : (s.onHcp f).time = s.time := rfl
@[simp] theorem State.onHcp_ldg (s : State) (f : Hcp → Hcp) : (s.onHcp f).ldg = s.ldg := rfl
@[simp] theorem State.onHcp_pool (s : State) (f : Hcp → Hcp) : (s.onHcp f).pool = s.pool := rfl
@[simp] theorem State.onHcp_dec (s : State) (f : Hcp → Hcp) : (s.onHcp f).dec = s.dec := rfl
@[simp] theorem State.onHcp_cal (s : State) (f : Hcp → Hcp) : (s.onHcp f).cal = s.cal := rfl
@[simp] theorem State.onHcp_img (s : State) (f : Hcp → Hcp) : (s.onHcp f).img = s.img := rfl
@[simp] theorem State.onHcp_luns (s : State) (f : Hcp → Hcp) : (s.onHcp f).luns = s.luns := rfl
@[simp] theorem State.onHcp_che (s : State) (f : Hcp → Hcp) : (s.onHcp f).che = s.che := rfl
@[simp] theorem State.onHcp_phy (s : State) (f : Hcp → Hcp) : (s.onHcp f).phy = s.phy := rfl
@[simp] theorem State.onHcp_pairs (s : State) (f : Hcp → Hcp) : (s.onHcp f).pairs = s.pairs := rfl
@[simp] theorem State.onHcp_sched (s : State) (f : Hcp → Hcp) : (s.onHcp f).sched = s.sched := rfl
@[simp] theorem State.onHcp_rly (s : State) (f : Hcp → Hcp) : (s.onHcp f).rly = s.rly := rfl
@[simp] theorem State.onHcp_psp (s : State) (f : Hcp → Hcp) : (s.onHcp f).psp = s.psp := rfl
@[simp] theorem State.onHcp_spm (s : State) (f : Hcp → Hcp) : (s.onHcp f).spm = s.spm := rfl
@[simp] theorem State.onHcp_nvs (s : State) (f : Hcp → Hcp) : (s.onHcp f).nvs = s.nvs := rfl
@[simp] theorem State.onHcp_dma (s : State) (f : Hcp → Hcp) : (s.onHcp f).dma = s.dma := rfl
@[simp] theorem State.onHcp_jtag (s : State) (f : Hcp → Hcp) : (s.onHcp f).jtag = s.jtag := rfl
@[simp] theorem State.onHcp_freeCtr (s : State) (f : Hcp → Hcp) : (s.onHcp f).freeCtr = s.freeCtr := rfl
@[simp] theorem State.onHcp_pending (s : State) (f : Hcp → Hcp) : (s.onHcp f).pending = s.pending := rfl

@[simp] theorem State.onHif_sys (s : State) (f : Hif → Hif) : (s.onHif f).sys = s.sys := rfl
@[simp] theorem State.onHif_hcp (s : State) (f : Hif → Hif) : (s.onHif f).hcp = s.hcp := rfl
@[simp] theorem State.onHif_hif (s : State) (f : Hif → Hif) : (s.onHif f).hif = f s.hif := rfl
@[simp] theorem State.onHif_hdp (s : State) (f : Hif → Hif) : (s.onHif f).hdp = s.hdp := rfl
@[simp] theorem State.onHif_irq (s : State) (f : Hif → Hif) : (s.onHif f).irq = s.irq := rfl
@[simp] theorem State.onHif_pwr (s : State) (f : Hif → Hif) : (s.onHif f).pwr = s.pwr := rfl
@[simp] theorem State.onHif_time (s : State) (f : Hif → Hif) : (s.onHif f).time = s.time := rfl
@[simp] theorem State.onHif_ldg (s : State) (f : Hif → Hif) : (s.onHif f).ldg = s.ldg := rfl
@[simp] theorem State.onHif_pool (s : State) (f : Hif → Hif) : (s.onHif f).pool = s.pool := rfl
@[simp] theorem State.onHif_dec (s : State) (f : Hif → Hif) : (s.onHif f).dec = s.dec := rfl
@[simp] theorem State.onHif_cal (s : State) (f : Hif → Hif) : (s.onHif f).cal = s.cal := rfl
@[simp] theorem State.onHif_img (s : State) (f : Hif → Hif) : (s.onHif f).img = s.img := rfl
@[simp] theorem State.onHif_luns (s : State) (f : Hif → Hif) : (s.onHif f).luns = s.luns := rfl
@[simp] theorem State.onHif_che (s : State) (f : Hif → Hif) : (s.onHif f).che = s.che := rfl
@[simp] theorem State.onHif_phy (s : State) (f : Hif → Hif) : (s.onHif f).phy = s.phy := rfl
@[simp] theorem State.onHif_pairs (s : State) (f : Hif → Hif) : (s.onHif f).pairs = s.pairs := rfl
@[simp] theorem State.onHif_sched (s : State) (f : Hif → Hif) : (s.onHif f).sched = s.sched := rfl
@[simp] theorem State.onHif_rly (s : State) (f : Hif → Hif) : (s.onHif f).rly = s.rly := rfl
@[simp] theorem State.onHif_psp (s : State) (f : Hif → Hif) : (s.onHif f).psp = s.psp := rfl
@[simp] theorem State.onHif_spm (s : State) (f : Hif → Hif) : (s.onHif f).spm = s.spm := rfl
@[simp] theorem State.onHif_nvs (s : State) (f : Hif → Hif) : (s.onHif f).nvs = s.nvs := rfl
@[simp] theorem State.onHif_dma (s : State) (f : Hif → Hif) : (s.onHif f).dma = s.dma := rfl
@[simp] theorem State.onHif_jtag (s : State) (f : Hif → Hif) : (s.onHif f).jtag = s.jtag := rfl
@[simp] theorem State.onHif_freeCtr (s : State) (f : Hif → Hif) : (s.onHif f).freeCtr = s.freeCtr := rfl
@[simp] theorem State.onHif_pending (s : State) (f : Hif → Hif) : (s.onHif f).pending = s.pending := rfl

@[simp] theorem State.onHdp_sys (s : State) (f : Hdp → Hdp) : (s.onHdp f).sys = s.sys := rfl
@[simp] theorem State.onHdp_hcp (s : State) (f : Hdp → Hdp) : (s.onHdp f).hcp = s.hcp := rfl
@[simp] theorem State.onHdp_hif (s : State) (f : Hdp → Hdp) : (s.onHdp f).hif = s.hif := rfl
@[simp] theorem State.onHdp_hdp (s : State) (f : Hdp → Hdp) : (s.onHdp f).hdp = f s.hdp := rfl
@[simp] theorem State.onHdp_irq (s : State) (f : Hdp → Hdp) : (s.onHdp f).irq = s.irq := rfl
@[simp] theorem State.onHdp_pwr (s : State) (f : Hdp → Hdp) : (s.onHdp f).pwr = s.pwr := rfl
@[simp] theorem State.onHdp_time (s : State) (f : Hdp → Hdp) : (s.onHdp f).time = s.time := rfl
@[simp] theorem State.onHdp_ldg (s : State) (f : Hdp → Hdp) : (s.onHdp f).ldg = s.ldg := rfl
@[simp] theorem State.onHdp_pool (s : State) (f : Hdp → Hdp) : (s.onHdp f).pool = s.pool := rfl
@[simp] theorem State.onHdp_dec (s : State) (f : Hdp → Hdp) : (s.onHdp f).dec = s.dec := rfl
@[simp] theorem State.onHdp_cal (s : State) (f : Hdp → Hdp) : (s.onHdp f).cal = s.cal := rfl
@[simp] theorem State.onHdp_img (s : State) (f : Hdp → Hdp) : (s.onHdp f).img = s.img := rfl
@[simp] theorem State.onHdp_luns (s : State) (f : Hdp → Hdp) : (s.onHdp f).luns = s.luns := rfl
@[simp] theorem State.onHdp_che (s : State) (f : Hdp → Hdp) : (s.onHdp f).che = s.che := rfl
@[simp] theorem State.onHdp_phy (s : State) (f : Hdp → Hdp) : (s.onHdp f).phy = s.phy := rfl
@[simp] theorem State.onHdp_pairs (s : State) (f : Hdp → Hdp) : (s.onHdp f).pairs = s.pairs := rfl
@[simp] theorem State.onHdp_sched (s : State) (f : Hdp → Hdp) : (s.onHdp f).sched = s.sched := rfl
@[simp] theorem State.onHdp_rly (s : State) (f : Hdp → Hdp) : (s.onHdp f).rly = s.rly := rfl
@[simp] theorem State.onHdp_psp (s : State) (f : Hdp → Hdp) : (s.onHdp f).psp = s.psp := rfl
@[simp] theorem State.onHdp_spm (s : State) (f : Hdp → Hdp) : (s.onHdp f).spm = s.spm := rfl
@[simp] theorem State.onHdp_nvs (s : State) (f : Hdp → Hdp) : (s.onHdp f).nvs = s.nvs := rfl
@[simp] theorem State.onHdp_dma (s : State) (f : Hdp → Hdp) : (s.onHdp f).dma = s.dma := rfl
@[simp] theorem State.onHdp_jtag (s : State) (f : Hdp → Hdp) : (s.onHdp f).jtag = s.jtag := rfl
@[simp] theorem State.onHdp_freeCtr (s : State) (f : Hdp → Hdp) : (s.onHdp f).freeCtr = s.freeCtr := rfl
@[simp] theorem State.onHdp_pending (s : State) (f : Hdp → Hdp) : (s.onHdp f).pending = s.pending := rfl

@[simp] theorem State.onIrq_sys (s : State) (f : Irq → Irq) : (s.onIrq f).sys = s.sys := rfl
@[simp] theorem State.onIrq_hcp (s : State) (f : Irq → Irq) : (s.onIrq f).hcp = s.hcp := rfl
@[simp] theorem State.onIrq_hif (s : State) (f : Irq → Irq) : (s.onIrq f).hif = s.hif := rfl
@[simp] theorem State.onIrq_hdp (s : State) (f : Irq → Irq) : (s.onIrq f).hdp = s.hdp := rfl
@[simp] theorem State.onIrq_irq (s : State) (f : Irq → Irq) : (s.onIrq f).irq = f s.irq := rfl
@[simp] theorem State.onIrq_pwr (s : State) (f : Irq → Irq) : (s.onIrq f).pwr = s.pwr := rfl
@[simp] theorem State.onIrq_time (s : State) (f : Irq → Irq) : (s.onIrq f).time = s.time := rfl
@[simp] theorem State.onIrq_ldg (s : State) (f : Irq → Irq) : (s.onIrq f).ldg = s.ldg := rfl
@[simp] theorem State.onIrq_pool (s : State) (f : Irq → Irq) : (s.onIrq f).pool = s.pool := rfl
@[simp] theorem State.onIrq_dec (s : State) (f : Irq → Irq) : (s.onIrq f).dec = s.dec := rfl
@[simp] theorem State.onIrq_cal (s : State) (f : Irq → Irq) : (s.onIrq f).cal = s.cal := rfl
@[simp] theorem State.onIrq_img (s : State) (f : Irq → Irq) : (s.onIrq f).img = s.img := rfl
@[simp] theorem State.onIrq_luns (s : State) (f : Irq → Irq) : (s.onIrq f).luns = s.luns := rfl
@[simp] theorem State.onIrq_che (s : State) (f : Irq → Irq) : (s.onIrq f).che = s.che := rfl
@[simp] theorem State.onIrq_phy (s : State) (f : Irq → Irq) : (s.onIrq f).phy = s.phy := rfl
@[simp] theorem State.onIrq_pairs (s : State) (f : Irq → Irq) : (s.onIrq f).pairs = s.pairs := rfl
@[simp] theorem State.onIrq_sched (s : State) (f : Irq → Irq) : (s.onIrq f).sched = s.sched := rfl
@[simp] theorem State.onIrq_rly (s : State) (f : Irq → Irq) : (s.onIrq f).rly = s.rly := rfl
@[simp] theorem State.onIrq_psp (s : State) (f : Irq → Irq) : (s.onIrq f).psp = s.psp := rfl
@[simp] theorem State.onIrq_spm (s : State) (f : Irq → Irq) : (s.onIrq f).spm = s.spm := rfl
@[simp] theorem State.onIrq_nvs (s : State) (f : Irq → Irq) : (s.onIrq f).nvs = s.nvs := rfl
@[simp] theorem State.onIrq_dma (s : State) (f : Irq → Irq) : (s.onIrq f).dma = s.dma := rfl
@[simp] theorem State.onIrq_jtag (s : State) (f : Irq → Irq) : (s.onIrq f).jtag = s.jtag := rfl
@[simp] theorem State.onIrq_freeCtr (s : State) (f : Irq → Irq) : (s.onIrq f).freeCtr = s.freeCtr := rfl
@[simp] theorem State.onIrq_pending (s : State) (f : Irq → Irq) : (s.onIrq f).pending = s.pending := rfl

@[simp] theorem State.onPwr_sys (s : State) (f : Pwr → Pwr) : (s.onPwr f).sys = s.sys := rfl
@[simp] theorem State.onPwr_hcp (s : State) (f : Pwr → Pwr) : (s.onPwr f).hcp = s.hcp := rfl
@[simp] theorem State.onPwr_hif (s : State) (f : Pwr → Pwr) : (s.onPwr f).hif = s.hif := rfl
@[simp] theorem State.onPwr_hdp (s : State) (f : Pwr → Pwr) : (s.onPwr f).hdp = s.hdp := rfl
@[simp] theorem State.onPwr_irq (s : State) (f : Pwr → Pwr) : (s.onPwr f).irq = s.irq := rfl
@[simp] theorem State.onPwr_pwr (s : State) (f : Pwr → Pwr) : (s.onPwr f).pwr = f s.pwr := rfl
@[simp] theorem State.onPwr_time (s : State) (f : Pwr → Pwr) : (s.onPwr f).time = s.time := rfl
@[simp] theorem State.onPwr_ldg (s : State) (f : Pwr → Pwr) : (s.onPwr f).ldg = s.ldg := rfl
@[simp] theorem State.onPwr_pool (s : State) (f : Pwr → Pwr) : (s.onPwr f).pool = s.pool := rfl
@[simp] theorem State.onPwr_dec (s : State) (f : Pwr → Pwr) : (s.onPwr f).dec = s.dec := rfl
@[simp] theorem State.onPwr_cal (s : State) (f : Pwr → Pwr) : (s.onPwr f).cal = s.cal := rfl
@[simp] theorem State.onPwr_img (s : State) (f : Pwr → Pwr) : (s.onPwr f).img = s.img := rfl
@[simp] theorem State.onPwr_luns (s : State) (f : Pwr → Pwr) : (s.onPwr f).luns = s.luns := rfl
@[simp] theorem State.onPwr_che (s : State) (f : Pwr → Pwr) : (s.onPwr f).che = s.che := rfl
@[simp] theorem State.onPwr_phy (s : State) (f : Pwr → Pwr) : (s.onPwr f).phy = s.phy := rfl
@[simp] theorem State.onPwr_pairs (s : State) (f : Pwr → Pwr) : (s.onPwr f).pairs = s.pairs := rfl
@[simp] theorem State.onPwr_sched (s : State) (f : Pwr → Pwr) : (s.onPwr f).sched = s.sched := rfl
@[simp] theorem State.onPwr_rly (s : State) (f : Pwr → Pwr) : (s.onPwr f).rly = s.rly := rfl
@[simp] theorem State.onPwr_psp (s : State) (f : Pwr → Pwr) : (s.onPwr f).psp = s.psp := rfl
@[simp] theorem State.onPwr_spm (s : State) (f : Pwr → Pwr) : (s.onPwr f).spm = s.spm := rfl
@[simp] theorem State.onPwr_nvs (s : State) (f : Pwr → Pwr) : (s.onPwr f).nvs = s.nvs := rfl
@[simp] theorem State.onPwr_dma (s : State) (f : Pwr → Pwr) : (s.onPwr f).dma = s.dma := rfl
@[simp] theorem State.onPwr_jtag (s : State) (f : Pwr → Pwr) : (s.onPwr f).jtag = s.jtag := rfl
@[simp] theorem State.onPwr_freeCtr (s : State) (f : Pwr → Pwr) : (s.onPwr f).freeCtr = s.freeCtr := rfl
@[simp] theorem State.onPwr_pending (s : State) (f : Pwr → Pwr) : (s.onPwr f).pending = s.pending := rfl

@[simp] theorem State.onTime_sys (s : State) (f : Time → Time) : (s.onTime f).sys = s.sys := rfl
@[simp] theorem State.onTime_hcp (s : State) (f : Time → Time) : (s.onTime f).hcp = s.hcp := rfl
@[simp] theorem State.onTime_hif (s : State) (f : Time → Time) : (s.onTime f).hif = s.hif := rfl
@[simp] theorem State.onTime_hdp (s : State) (f : Time → Time) : (s.onTime f).hdp = s.hdp := rfl
@[simp] theorem State.onTime_irq (s : State) (f : Time → Time) : (s.onTime f).irq = s.irq := rfl
@[simp] theorem State.onTime_pwr (s : State) (f : Time → Time) : (s.onTime f).pwr = s.pwr := rfl
@[simp] theorem State.onTime_time (s : State) (f : Time → Time) : (s.onTime f).time = f s.time := rfl
@[simp] theorem State.onTime_ldg (s : State) (f : Time → Time) : (s.onTime f).ldg = s.ldg := rfl
@[simp] theorem State.onTime_pool (s : State) (f : Time → Time) : (s.onTime f).pool = s.pool := rfl
@[simp] theorem State.onTime_dec (s : State) (f : Time → Time) : (s.onTime f).dec = s.dec := rfl
@[simp] theorem State.onTime_cal (s : State) (f : Time → Time) : (s.onTime f).cal = s.cal := rfl
@[simp] theorem State.onTime_img (s : State) (f : Time → Time) : (s.onTime f).img = s.img := rfl
@[simp] theorem State.onTime_luns (s : State) (f : Time → Time) : (s.onTime f).luns = s.luns := rfl
@[simp] theorem State.onTime_che (s : State) (f : Time → Time) : (s.onTime f).che = s.che := rfl
@[simp] theorem State.onTime_phy (s : State) (f : Time → Time) : (s.onTime f).phy = s.phy := rfl
@[simp] theorem State.onTime_pairs (s : State) (f : Time → Time) : (s.onTime f).pairs = s.pairs := rfl
@[simp] theorem State.onTime_sched (s : State) (f : Time → Time) : (s.onTime f).sched = s.sched := rfl
@[simp] theorem State.onTime_rly (s : State) (f : Time → Time) : (s.onTime f).rly = s.rly := rfl
@[simp] theorem State.onTime_psp (s : State) (f : Time → Time) : (s.onTime f).psp = s.psp := rfl
@[simp] theorem State.onTime_spm (s : State) (f : Time → Time) : (s.onTime f).spm = s.spm := rfl
@[simp] theorem State.onTime_nvs (s : State) (f : Time → Time) : (s.onTime f).nvs = s.nvs := rfl
@[simp] theorem State.onTime_dma (s : State) (f : Time → Time) : (s.onTime f).dma = s.dma := rfl
@[simp] theorem State.onTime_jtag (s : State) (f : Time → Time) : (s.onTime f).jtag = s.jtag := rfl
@[simp] theorem State.onTime_freeCtr (s : State) (f : Time → Time) : (s.onTime f).freeCtr = s.freeCtr := rfl
@[simp] theorem State.onTime_pending (s : State) (f : Time → Time) : (s.onTime f).pending = s.pending := rfl

@[simp] theorem State.onLdg_sys (s : State) (f : Ldg → Ldg) : (s.onLdg f).sys = s.sys := rfl
@[simp] theorem State.onLdg_hcp (s : State) (f : Ldg → Ldg) : (s.onLdg f).hcp = s.hcp := rfl
@[simp] theorem State.onLdg_hif (s : State) (f : Ldg → Ldg) : (s.onLdg f).hif = s.hif := rfl
@[simp] theorem State.onLdg_hdp (s : State) (f : Ldg → Ldg) : (s.onLdg f).hdp = s.hdp := rfl
@[simp] theorem State.onLdg_irq (s : State) (f : Ldg → Ldg) : (s.onLdg f).irq = s.irq := rfl
@[simp] theorem State.onLdg_pwr (s : State) (f : Ldg → Ldg) : (s.onLdg f).pwr = s.pwr := rfl
@[simp] theorem State.onLdg_time (s : State) (f : Ldg → Ldg) : (s.onLdg f).time = s.time := rfl
@[simp] theorem State.onLdg_ldg (s : State) (f : Ldg → Ldg) : (s.onLdg f).ldg = f s.ldg := rfl
@[simp] theorem State.onLdg_pool (s : State) (f : Ldg → Ldg) : (s.onLdg f).pool = s.pool := rfl
@[simp] theorem State.onLdg_dec (s : State) (f : Ldg → Ldg) : (s.onLdg f).dec = s.dec := rfl
@[simp] theorem State.onLdg_cal (s : State) (f : Ldg → Ldg) : (s.onLdg f).cal = s.cal := rfl
@[simp] theorem State.onLdg_img (s : State) (f : Ldg → Ldg) : (s.onLdg f).img = s.img := rfl
@[simp] theorem State.onLdg_luns (s : State) (f : Ldg → Ldg) : (s.onLdg f).luns = s.luns := rfl
@[simp] theorem State.onLdg_che (s : State) (f : Ldg → Ldg) : (s.onLdg f).che = s.che := rfl
@[simp] theorem State.onLdg_phy (s : State) (f : Ldg → Ldg) : (s.onLdg f).phy = s.phy := rfl
@[simp] theorem State.onLdg_pairs (s : State) (f : Ldg → Ldg) : (s.onLdg f).pairs = s.pairs := rfl
@[simp] theorem State.onLdg_sched (s : State) (f : Ldg → Ldg) : (s.onLdg f).sched = s.sched := rfl
@[simp] theorem State.onLdg_rly (s : State) (f : Ldg → Ldg) : (s.onLdg f).rly = s.rly := rfl
@[simp] theorem State.onLdg_psp (s : State) (f : Ldg → Ldg) : (s.onLdg f).psp = s.psp := rfl
@[simp] theorem State.onLdg_spm (s : State) (f : Ldg → Ldg) : (s.onLdg f).spm = s.spm := rfl
@[simp] theorem State.onLdg_nvs (s : State) (f : Ldg → Ldg) : (s.onLdg f).nvs = s.nvs := rfl
@[simp] theorem State.onLdg_dma (s : State) (f : Ldg → Ldg) : (s.onLdg f).dma = s.dma := rfl
@[simp] theorem State.onLdg_jtag (s : State) (f : Ldg → Ldg) : (s.onLdg f).jtag = s.jtag := rfl
@[simp] theorem State.onLdg_freeCtr (s : State) (f : Ldg → Ldg) : (s.onLdg f).freeCtr = s.freeCtr := rfl
@[simp] theorem State.onLdg_pending (s : State) (f : Ldg → Ldg) : (s.onLdg f).pending = s.pending := rfl

@[simp] theorem State.onPool_sys (s : State) (f : Pool → Pool) : (s.onPool f).sys = s.sys := rfl
@[simp] theorem State.onPool_hcp (s : State) (f : Pool → Pool) : (s.onPool f).hcp = s.hcp := rfl
@[simp] theorem State.onPool_hif (s : State) (f : Pool → Pool) : (s.onPool f).hif = s.hif := rfl
@[simp] theorem State.onPool_hdp (s : State) (f : Pool → Pool) : (s.onPool f).hdp = s.hdp := rfl
@[simp] theorem State.onPool_irq (s : State) (f : Pool → Pool) : (s.onPool f).irq = s.irq := rfl
@[simp] theorem State.onPool_pwr (s : State) (f : Pool → Pool) : (s.onPool f).pwr = s.pwr := rfl
@[simp] theorem State.onPool_time (s : State) (f : Pool → Pool) : (s.onPool f).time = s.time := rfl
@[simp] theorem State.onPool_ldg (s : State) (f : Pool → Pool) : (s.onPool f).ldg = s.ldg := rfl
@[simp] theorem State.onPool_pool (s : State) (f : Pool → Pool) : (s.onPool f).pool = f s.pool := rfl
@[simp] theorem State.onPool_dec (s : State) (f : Pool → Pool) : (s.onPool f).dec = s.dec := rfl
@[simp] theorem State.onPool_cal (s : State) (f : Pool → Pool) : (s.onPool f).cal = s.cal := rfl
@[simp] theorem State.onPool_img (s : State) (f : Pool → Pool) : (s.onPool f).img = s.img := rfl
@[simp] theorem State.onPool_luns (s : State) (f : Pool → Pool) : (s.onPool f).luns = s.luns := rfl
@[simp] theorem State.onPool_che (s : State) (f : Pool → Pool) : (s.onPool f).che = s.che := rfl
@[simp] theorem State.onPool_phy (s : State) (f : Pool → Pool) : (s.onPool f).phy = s.phy := rfl
@[simp] theorem State.onPool_pairs (s : State) (f : Pool → Pool) : (s.onPool f).pairs = s.pairs := rfl
@[simp] theorem State.onPool_sched (s : State) (f : Pool → Pool) : (s.onPool f).sched = s.sched := rfl
@[simp] theorem State.onPool_rly (s : State) (f : Pool → Pool) : (s.onPool f).rly = s.rly := rfl
@[simp] theorem State.onPool_psp (s : State) (f : Pool → Pool) : (s.onPool f).psp = s.psp := rfl
@[simp] theorem State.onPool_spm (s : State) (f : Pool → Pool) : (s.onPool f).spm = s.spm := rfl
@[simp] theorem State.onPool_nvs (s : State) (f : Pool → Pool) : (s.onPool f).nvs = s.nvs := rfl
@[simp] theorem State.onPool_dma (s : State) (f : Pool → Pool) : (s.onPool f).dma = s.dma := rfl
@[simp] theorem State.onPool_jtag (s : State) (f : Pool → Pool) : (s.onPool f).jtag = s.jtag := rfl
@[simp] theorem State.onPool_freeCtr (s : State) (f : Pool → Pool) : (s.onPool f).freeCtr = s.freeCtr := rfl
@[simp] theorem State.onPool_pending (s : State) (f : Pool → Pool) : (s.onPool f).pending = s.pending := rfl

@[simp] theorem State.onDec_sys (s : State) (f : Dec → Dec) : (s.onDec f).sys = s.sys := rfl
@[simp] theorem State.onDec_hcp (s : State) (f : Dec → Dec) : (s.onDec f).hcp = s.hcp := rfl
@[simp] theorem State.onDec_hif (s : State) (f : Dec → Dec) : (s.onDec f).hif = s.hif := rfl
@[simp] theorem State.onDec_hdp (s : State) (f : Dec → Dec) : (s.onDec f).hdp = s.hdp := rfl
@[simp] theorem State.onDec_irq (s : State) (f : Dec → Dec) : (s.onDec f).irq = s.irq := rfl
@[simp] theorem State.onDec_pwr (s : State) (f : Dec → Dec) : (s.onDec f).pwr = s.pwr := rfl
@[simp] theorem State.onDec_time (s : State) (f : Dec → Dec) : (s.onDec f).time = s.time := rfl
@[simp] theorem State.onDec_ldg (s : State) (f : Dec → Dec) : (s.onDec f).ldg = s.ldg := rfl
@[simp] theorem State.onDec_pool (s : State) (f : Dec → Dec) : (s.onDec f).pool = s.pool := rfl
@[simp] theorem State.onDec_dec (s : State) (f : Dec → Dec) : (s.onDec f).dec = f s.dec := rfl
@[simp] theorem State.onDec_cal (s : State) (f : Dec → Dec) : (s.onDec f).cal = s.cal := rfl
@[simp] theorem State.onDec_img (s : State) (f : Dec → Dec) : (s.onDec f).img = s.img := rfl
@[simp] theorem State.onDec_luns (s : State) (f : Dec → Dec) : (s.onDec f).luns = s.luns := rfl
@[simp] theorem State.onDec_che (s : State) (f : Dec → Dec) : (s.onDec f).che = s.che := rfl
@[simp] theorem State.onDec_phy (s : State) (f : Dec → Dec) : (s.onDec f).phy = s.phy := rfl
@[simp] theorem State.onDec_pairs (s : State) (f : Dec → Dec) : (s.onDec f).pairs = s.pairs := rfl
@[simp] theorem State.onDec_sched (s : State) (f : Dec → Dec) : (s.onDec f).sched = s.sched := rfl
@[simp] theorem State.onDec_rly (s : State) (f : Dec → Dec) : (s.onDec f).rly = s.rly := rfl
@[simp] theorem State.onDec_psp (s : State) (f : Dec → Dec) : (s.onDec f).psp = s.psp := rfl
@[simp] theorem State.onDec_spm (s : State) (f : Dec → Dec) : (s.onDec f).spm = s.spm := rfl
@[simp] theorem State.onDec_nvs (s : State) (f : Dec → Dec) : (s.onDec f).nvs = s.nvs := rfl
@[simp] theorem State.onDec_dma (s : State) (f : Dec → Dec) : (s.onDec f).dma = s.dma := rfl
@[simp] theorem State.onDec_jtag (s : State) (f : Dec → Dec) : (s.onDec f).jtag = s.jtag := rfl
@[simp] theorem State.onDec_freeCtr (s : State) (f : Dec → Dec) : (s.onDec f).freeCtr = s.freeCtr := rfl
@[simp] theorem State.onDec_pending (s : State) (f : Dec → Dec) : (s.onDec f).pending = s.pending := rfl

@[simp] theorem State.onCal_sys (s : State) (f : Cal → Cal) : (s.onCal f).sys = s.sys := rfl
@[simp] theorem State.onCal_hcp (s : State) (f : Cal → Cal) : (s.onCal f).hcp = s.hcp := rfl
@[simp] theorem State.onCal_hif (s : State) (f : Cal → Cal) : (s.onCal f).hif = s.hif := rfl
@[simp] theorem State.onCal_hdp (s : State) (f : Cal → Cal) : (s.onCal f).hdp = s.hdp := rfl
@[simp] theorem State.onCal_irq (s : State) (f : Cal → Cal) : (s.onCal f).irq = s.irq := rfl
@[simp] theorem State.onCal_pwr (s : State) (f : Cal → Cal) : (s.onCal f).pwr = s.pwr := rfl
@[simp] theorem State.onCal_time (s : State) (f : Cal → Cal) : (s.onCal f).time = s.time := rfl
@[simp] theorem State.onCal_ldg (s : State) (f : Cal → Cal) : (s.onCal f).ldg = s.ldg := rfl
@[simp] theorem State.onCal_pool (s : State) (f : Cal → Cal) : (s.onCal f).pool = s.pool := rfl
@[simp] theorem State.onCal_dec (s : State) (f : Cal → Cal) : (s.onCal f).dec = s.dec := rfl
@[simp] theorem State.onCal_cal (s : State) (f : Cal → Cal) : (s.onCal f).cal = f s.cal := rfl
@[simp] theorem State.onCal_img (s : State) (f : Cal → Cal) : (s.onCal f).img = s.img := rfl
@[simp] theorem State.onCal_luns (s : State) (f : Cal → Cal) : (s.onCal f).luns = s.luns := rfl
@[simp] theorem State.onCal_che (s : State) (f : Cal → Cal) : (s.onCal f).che = s.che := rfl
@[simp] theorem State.onCal_phy (s : State) (f : Cal → Cal) : (s.onCal f).phy = s.phy := rfl
@[simp] theorem State.onCal_pairs (s : State) (f : Cal → Cal) : (s.onCal f).pairs = s.pairs := rfl
@[simp] theorem State.onCal_sched (s : State) (f : Cal → Cal) : (s.onCal f).sched = s.sched := rfl
@[simp] theorem State.onCal_rly (s : State) (f : Cal → Cal) : (s.onCal f).rly = s.rly := rfl
@[simp] theorem State.onCal_psp (s : State) (f : Cal → Cal) : (s.onCal f).psp = s.psp := rfl
@[simp] theorem State.onCal_spm (s : State) (f : Cal → Cal) : (s.onCal f).spm = s.spm := rfl
@[simp] theorem State.onCal_nvs (s : State) (f : Cal → Cal) : (s.onCal f).nvs = s.nvs := rfl
@[simp] theorem State.onCal_dma (s : State) (f : Cal → Cal) : (s.onCal f).dma = s.dma := rfl
@[simp] theorem State.onCal_jtag (s : State) (f : Cal → Cal) : (s.onCal f).jtag = s.jtag := rfl
@[simp] theorem State.onCal_freeCtr (s : State) (f : Cal → Cal) : (s.onCal f).freeCtr = s.freeCtr := rfl
@[simp] theorem State.onCal_pending (s : State) (f : Cal → Cal) : (s.onCal f).pending = s.pending := rfl

@[simp] theorem State.onImg_sys (s : State) (f : Img → Img) : (s.onImg f).sys = s.sys := rfl
@[simp] theorem State.onImg_hcp (s : State) (f : Img → Img) : (s.onImg f).hcp = s.hcp := rfl
@[simp] theorem State.onImg_hif (s : State) (f : Img → Img) : (s.onImg f).hif = s.hif := rfl
@[simp] theorem State.onImg_hdp (s : State) (f : Img → Img) : (s.onImg f).hdp = s.hdp := rfl
@[simp] theorem State.onImg_irq (s : State) (f : Img → Img) : (s.onImg f).irq = s.irq := rfl
@[simp] theorem State.onImg_pwr (s : State) (f : Img → Img) : (s.onImg f).pwr = s.pwr := rfl
@[simp] theorem State.onImg_time (s : State) (f : Img → Img) : (s.onImg f).time = s.time := rfl
@[simp] theorem State.onImg_ldg (s : State) (f : Img → Img) : (s.onImg f).ldg = s.ldg := rfl
@[simp] theorem State.onImg_pool (s : State) (f : Img → Img) : (s.onImg f).pool = s.pool := rfl
@[simp] theorem State.onImg_dec (s : State) (f : Img → Img) : (s.onImg f).dec = s.dec := rfl
@[simp] theorem State.onImg_cal (s : State) (f : Img → Img) : (s.onImg f).cal = s.cal := rfl
@[simp] theorem State.onImg_img (s : State) (f : Img → Img) : (s.onImg f).img = f s.img := rfl
@[simp] theorem State.onImg_luns (s : State) (f : Img → Img) : (s.onImg f).luns = s.luns := rfl
@[simp] theorem State.onImg_che (s : State) (f : Img → Img) : (s.onImg f).che = s.che := rfl
@[simp] theorem State.onImg_phy (s : State) (f : Img → Img) : (s.onImg f).phy = s.phy := rfl
@[simp] theorem State.onImg_pairs (s : State) (f : Img → Img) : (s.onImg f).pairs = s.pairs := rfl
@[simp] theorem State.onImg_sched (s : State) (f : Img → Img) : (s.onImg f).sched = s.sched := rfl
@[simp] theorem State.onImg_rly (s : State) (f : Img → Img) : (s.onImg f).rly = s.rly := rfl
@[simp] theorem State.onImg_psp (s : State) (f : Img → Img) : (s.onImg f).psp = s.psp := rfl
@[simp] theorem State.onImg_spm (s : State) (f : Img → Img) : (s.onImg f).spm = s.spm := rfl
@[simp] theorem State.onImg_nvs (s : State) (f : Img → Img) : (s.onImg f).nvs = s.nvs := rfl
@[simp] theorem State.onImg_dma (s : State) (f : Img → Img) : (s.onImg f).dma = s.dma := rfl
@[simp] theorem State.onImg_jtag (s : State) (f : Img → Img) : (s.onImg f).jtag = s.jtag := rfl
@[simp] theorem State.onImg_freeCtr (s : State) (f : Img → Img) : (s.onImg f).freeCtr = s.freeCtr := rfl
@[simp] theorem State.onImg_pending (s : State) (f : Img → Img) : (s.onImg f).pending = s.pending := rfl

@[simp] theorem State.onLuns_sys (s : State) (f : SMap Lun → SMap Lun) : (s.onLuns f).sys = s.sys := rfl
@[simp] theorem State.onLuns_hcp (s : State) (f : SMap Lun → SMap Lun) : (s.onLuns f).hcp = s.hcp := rfl
@[simp] theorem State.onLuns_hif (s : State) (f : SMap Lun → SMap Lun) : (s.onLuns f).hif = s.hif := rfl
@[simp] theorem State.onLuns_hdp (s : State) (f : SMap Lun → SMap Lun) : (s.onLuns f).hdp = s.hdp := rfl
@[simp] theorem State.onLuns_irq (s : State) (f : SMap Lun → SMap Lun) : (s.onLuns f).irq = s.irq := rfl
@[simp] theorem State.onLuns_pwr (s : State) (f : SMap Lun → SMap Lun) : (s.onLuns f).pwr = s.pwr := rfl
@[simp] theorem State.onLuns_time (s : State) (f : SMap Lun → SMap Lun) : (s.onLuns f).time = s.time := rfl
@[simp] theorem State.onLuns_ldg (s : State) (f : SMap Lun → SMap Lun) : (s.onLuns f).ldg = s.ldg := rfl
@[simp] theorem State.onLuns_pool (s : State) (f : SMap Lun → SMap Lun) : (s.onLuns f).pool = s.pool := rfl
@[simp] theorem State.onLuns_dec (s : State) (f : SMap Lun → SMap Lun) : (s.onLuns f).dec = s.dec := rfl
@[simp] theorem State.onLuns_cal (s : State) (f : SMap Lun → SMap Lun) : (s.onLuns f).cal = s.cal := rfl
@[simp] theorem State.onLuns_img (s : State) (f : SMap Lun → SMap Lun) : (s.onLuns f).img = s.img := rfl
@[simp] theorem State.onLuns_luns (s : State) (f : SMap Lun → SMap Lun) : (s.onLuns f).luns = f s.luns := rfl
@[simp] theorem State.onLuns_che (s : State) (f : SMap Lun → SMap Lun) : (s.onLuns f).che = s.che := rfl
@[simp] theorem State.onLuns_phy (s : State) (f : SMap Lun → SMap Lun) : (s.onLuns f).phy = s.phy := rfl
@[simp] theorem State.onLuns_pairs (s : State) (f : SMap Lun → SMap Lun) : (s.onLuns f).pairs = s.pairs := rfl
@[simp] theorem State.onLuns_sched (s : State) (f : SMap Lun → SMap Lun) : (s.onLuns f).sched = s.sched := rfl
@[simp] theorem State.onLuns_rly (s : State) (f : SMap Lun → SMap Lun) : (s.onLuns f).rly = s.rly := rfl
@[simp] theorem State.onLuns_psp (s : State) (f : SMap Lun → SMap Lun) : (s.onLuns f).psp = s.psp := rfl
@[simp] theorem State.onLuns_spm (s : State) (f : SMap Lun → SMap Lun) : (s.onLuns f).spm = s.spm := rfl
@[simp] theorem State.onLuns_nvs (s : State) (f : SMap Lun → SMap Lun) : (s.onLuns f).nvs = s.nvs := rfl
@[simp] theorem State.onLuns_dma (s : State) (f : SMap Lun → SMap Lun) : (s.onLuns f).dma = s.dma := rfl
@[simp] theorem State.onLuns_jtag (s : State) (f : SMap Lun → SMap Lun) : (s.onLuns f).jtag = s.jtag := rfl
@[simp] theorem State.onLuns_freeCtr (s : State) (f : SMap Lun → SMap Lun) : (s.onLuns f).freeCtr = s.freeCtr := rfl
@[simp] theorem State.onLuns_pending (s : State) (f : SMap Lun → SMap Lun) : (s.onLuns f).pending = s.pending := rfl

@[simp] theorem State.onChe_sys (s : State) (f : SMap Chan → SMap Chan) : (s.onChe f).sys = s.sys := rfl
@[simp] theorem State.onChe_hcp (s : State) (f : SMap Chan → SMap Chan) : (s.onChe f).hcp = s.hcp := rfl
@[simp] theorem State.onChe_hif (s : State) (f : SMap Chan → SMap Chan) : (s.onChe f).hif = s.hif := rfl
@[simp] theorem State.onChe_hdp (s : State) (f : SMap Chan → SMap Chan) : (s.onChe f).hdp = s.hdp := rfl
@[simp] theorem State.onChe_irq (s : State) (f : SMap Chan → SMap Chan) : (s.onChe f).irq = s.irq := rfl
@[simp] theorem State.onChe_pwr (s : State) (f : SMap Chan → SMap Chan) : (s.onChe f).pwr = s.pwr := rfl
@[simp] theorem State.onChe_time (s : State) (f : SMap Chan → SMap Chan) : (s.onChe f).time = s.time := rfl
@[simp] theorem State.onChe_ldg (s : State) (f : SMap Chan → SMap Chan) : (s.onChe f).ldg = s.ldg := rfl
@[simp] theorem State.onChe_pool (s : State) (f : SMap Chan → SMap Chan) : (s.onChe f).pool = s.pool := rfl
@[simp] theorem State.onChe_dec (s : State) (f : SMap Chan → SMap Chan) : (s.onChe f).dec = s.dec := rfl
@[simp] theorem State.onChe_cal (s : State) (f : SMap Chan → SMap Chan) : (s.onChe f).cal = s.cal := rfl
@[simp] theorem State.onChe_img (s : State) (f : SMap Chan → SMap Chan) : (s.onChe f).img = s.img := rfl
@[simp] theorem State.onChe_luns (s : State) (f : SMap Chan → SMap Chan) : (s.onChe f).luns = s.luns := rfl
@[simp] theorem State.onChe_che (s : State) (f : SMap Chan → SMap Chan) : (s.onChe f).che = f s.che := rfl
@[simp] theorem State.onChe_phy (s : State) (f : SMap Chan → SMap Chan) : (s.onChe f).phy = s.phy := rfl
@[simp] theorem State.onChe_pairs (s : State) (f : SMap Chan → SMap Chan) : (s.onChe f).pairs = s.pairs := rfl
@[simp] theorem State.onChe_sched (s : State) (f : SMap Chan → SMap Chan) : (s.onChe f).sched = s.sched := rfl
@[simp] theorem State.onChe_rly (s : State) (f : SMap Chan → SMap Chan) : (s.onChe f).rly = s.rly := rfl
@[simp] theorem State.onChe_psp (s : State) (f : SMap Chan → SMap Chan) : (s.onChe f).psp = s.psp := rfl
@[simp] theorem State.onChe_spm (s : State) (f : SMap Chan → SMap Chan) : (s.onChe f).spm = s.spm := rfl
@[simp] theorem State.onChe_nvs (s : State) (f : SMap Chan → SMap Chan) : (s.onChe f).nvs = s.nvs := rfl
@[simp] theorem State.onChe_dma (s : State) (f : SMap Chan → SMap Chan) : (s.onChe f).dma = s.dma := rfl
@[simp] theorem State.onChe_jtag (s : State) (f : SMap Chan → SMap Chan) : (s.onChe f).jtag = s.jtag := rfl
@[simp] theorem State.onChe_freeCtr (s : State) (f : SMap Chan → SMap Chan) : (s.onChe f).freeCtr = s.freeCtr := rfl
@[simp] theorem State.onChe_pending (s : State) (f : SMap Chan → SMap Chan) : (s.onChe f).pending = s.pending := rfl

@[simp] theorem State.onPhy_sys (s : State) (f : SMap Phy → SMap Phy) : (s.onPhy f).sys = s.sys := rfl
@[simp] theorem State.onPhy_hcp (s : State) (f : SMap Phy → SMap Phy) : (s.onPhy f).hcp = s.hcp := rfl
@[simp] theorem State.onPhy_hif (s : State) (f : SMap Phy → SMap Phy) : (s.onPhy f).hif = s.hif := rfl
@[simp] theorem State.onPhy_hdp (s : State) (f : SMap Phy → SMap Phy) : (s.onPhy f).hdp = s.hdp := rfl
@[simp] theorem State.onPhy_irq (s : State) (f : SMap Phy → SMap Phy) : (s.onPhy f).irq = s.irq := rfl
@[simp] theorem State.onPhy_pwr (s : State) (f : SMap Phy → SMap Phy) : (s.onPhy f).pwr = s.pwr := rfl
@[simp] theorem State.onPhy_time (s : State) (f : SMap Phy → SMap Phy) : (s.onPhy f).time = s.time := rfl
@[simp] theorem State.onPhy_ldg (s : State) (f : SMap Phy → SMap Phy) : (s.onPhy f).ldg = s.ldg := rfl
@[simp] theorem State.onPhy_pool (s : State) (f : SMap Phy → SMap Phy) : (s.onPhy f).pool = s.pool := rfl
@[simp] theorem State.onPhy_dec (s : State) (f : SMap Phy → SMap Phy) : (s.onPhy f).dec = s.dec := rfl
@[simp] theorem State.onPhy_cal (s : State) (f : SMap Phy → SMap Phy) : (s.onPhy f).cal = s.cal := rfl
@[simp] theorem State.onPhy_img (s : State) (f : SMap Phy → SMap Phy) : (s.onPhy f).img = s.img := rfl
@[simp] theorem State.onPhy_luns (s : State) (f : SMap Phy → SMap Phy) : (s.onPhy f).luns = s.luns := rfl
@[simp] theorem State.onPhy_che (s : State) (f : SMap Phy → SMap Phy) : (s.onPhy f).che = s.che := rfl
@[simp] theorem State.onPhy_phy (s : State) (f : SMap Phy → SMap Phy) : (s.onPhy f).phy = f s.phy := rfl
@[simp] theorem State.onPhy_pairs (s : State) (f : SMap Phy → SMap Phy) : (s.onPhy f).pairs = s.pairs := rfl
@[simp] theorem State.onPhy_sched (s : State) (f : SMap Phy → SMap Phy) : (s.onPhy f).sched = s.sched := rfl
@[simp] theorem State.onPhy_rly (s : State) (f : SMap Phy → SMap Phy) : (s.onPhy f).rly = s.rly := rfl
@[simp] theorem State.onPhy_psp (s : State) (f : SMap Phy → SMap Phy) : (s.onPhy f).psp = s.psp := rfl
@[simp] theorem State.onPhy_spm (s : State) (f : SMap Phy → SMap Phy) : (s.onPhy f).spm = s.spm := rfl
@[simp] theorem State.onPhy_nvs (s : State) (f : SMap Phy → SMap Phy) : (s.onPhy f).nvs = s.nvs := rfl
@[simp] theorem State.onPhy_dma (s : State) (f : SMap Phy → SMap Phy) : (s.onPhy f).dma = s.dma := rfl
@[simp] theorem State.onPhy_jtag (s : State) (f : SMap Phy → SMap Phy) : (s.onPhy f).jtag = s.jtag := rfl
@[simp] theorem State.onPhy_freeCtr (s : State) (f : SMap Phy → SMap Phy) : (s.onPhy f).freeCtr = s.freeCtr := rfl
@[simp] theorem State.onPhy_pending (s : State) (f : SMap Phy → SMap Phy) : (s.onPhy f).pending = s.pending := rfl

@[simp] theorem State.onPairs_sys (s : State) (f : SMap Pair → SMap Pair) : (s.onPairs f).sys = s.sys := rfl
@[simp] theorem State.onPairs_hcp (s : State) (f : SMap Pair → SMap Pair) : (s.onPairs f).hcp = s.hcp := rfl
@[simp] theorem State.onPairs_hif (s : State) (f : SMap Pair → SMap Pair) : (s.onPairs f).hif = s.hif := rfl
@[simp] theorem State.onPairs_hdp (s : State) (f : SMap Pair → SMap Pair) : (s.onPairs f).hdp = s.hdp := rfl
@[simp] theorem State.onPairs_irq (s : State) (f : SMap Pair → SMap Pair) : (s.onPairs f).irq = s.irq := rfl
@[simp] theorem State.onPairs_pwr (s : State) (f : SMap Pair → SMap Pair) : (s.onPairs f).pwr = s.pwr := rfl
@[simp] theorem State.onPairs_time (s : State) (f : SMap Pair → SMap Pair) : (s.onPairs f).time = s.time := rfl
@[simp] theorem State.onPairs_ldg (s : State) (f : SMap Pair → SMap Pair) : (s.onPairs f).ldg = s.ldg := rfl
@[simp] theorem State.onPairs_pool (s : State) (f : SMap Pair → SMap Pair) : (s.onPairs f).pool = s.pool := rfl
@[simp] theorem State.onPairs_dec (s : State) (f : SMap Pair → SMap Pair) : (s.onPairs f).dec = s.dec := rfl
@[simp] theorem State.onPairs_cal (s : State) (f : SMap Pair → SMap Pair) : (s.onPairs f).cal = s.cal := rfl
@[simp] theorem State.onPairs_img (s : State) (f : SMap Pair → SMap Pair) : (s.onPairs f).img = s.img := rfl
@[simp] theorem State.onPairs_luns (s : State) (f : SMap Pair → SMap Pair) : (s.onPairs f).luns = s.luns := rfl
@[simp] theorem State.onPairs_che (s : State) (f : SMap Pair → SMap Pair) : (s.onPairs f).che = s.che := rfl
@[simp] theorem State.onPairs_phy (s : State) (f : SMap Pair → SMap Pair) : (s.onPairs f).phy = s.phy := rfl
@[simp] theorem State.onPairs_pairs (s : State) (f : SMap Pair → SMap Pair) : (s.onPairs f).pairs = f s.pairs := rfl
@[simp] theorem State.onPairs_sched (s : State) (f : SMap Pair → SMap Pair) : (s.onPairs f).sched = s.sched := rfl
@[simp] theorem State.onPairs_rly (s : State) (f : SMap Pair → SMap Pair) : (s.onPairs f).rly = s.rly := rfl
@[simp] theorem State.onPairs_psp (s : State) (f : SMap Pair → SMap Pair) : (s.onPairs f).psp = s.psp := rfl
@[simp] theorem State.onPairs_spm (s : State) (f : SMap Pair → SMap Pair) : (s.onPairs f).spm = s.spm := rfl
@[simp] theorem State.onPairs_nvs (s : State) (f : SMap Pair → SMap Pair) : (s.onPairs f).nvs = s.nvs := rfl
@[simp] theorem State.onPairs_dma (s : State) (f : SMap Pair → SMap Pair) : (s.onPairs f).dma = s.dma := rfl
@[simp] theorem State.onPairs_jtag (s : State) (f : SMap Pair → SMap Pair) : (s.onPairs f).jtag = s.jtag := rfl
@[simp] theorem State.onPairs_freeCtr (s : State) (f : SMap Pair → SMap Pair) : (s.onPairs f).freeCtr = s.freeCtr := rfl
@[simp] theorem State.onPairs_pending (s : State) (f : SMap Pair → SMap Pair) : (s.onPairs f).pending = s.pending := rfl

@[simp] theorem State.onSched_sys (s : State) (f : Sched → Sched) : (s.onSched f).sys = s.sys := rfl
@[simp] theorem State.onSched_hcp (s : State) (f : Sched → Sched) : (s.onSched f).hcp = s.hcp := rfl
@[simp] theorem State.onSched_hif (s : State) (f : Sched → Sched) : (s.onSched f).hif = s.hif := rfl
@[simp] theorem State.onSched_hdp (s : State) (f : Sched → Sched) : (s.onSched f).hdp = s.hdp := rfl
@[simp] theorem State.onSched_irq (s : State) (f : Sched → Sched) : (s.onSched f).irq = s.irq := rfl
@[simp] theorem State.onSched_pwr (s : State) (f : Sched → Sched) : (s.onSched f).pwr = s.pwr := rfl
@[simp] theorem State.onSched_time (s : State) (f : Sched → Sched) : (s.onSched f).time = s.time := rfl
@[simp] theorem State.onSched_ldg (s : State) (f : Sched → Sched) : (s.onSched f).ldg = s.ldg := rfl
@[simp] theorem State.onSched_pool (s : State) (f : Sched → Sched) : (s.onSched f).pool = s.pool := rfl
@[simp] theorem State.onSched_dec (s : State) (f : Sched → Sched) : (s.onSched f).dec = s.dec := rfl
@[simp] theorem State.onSched_cal (s : State) (f : Sched → Sched) : (s.onSched f).cal = s.cal := rfl
@[simp] theorem State.onSched_img (s : State) (f : Sched → Sched) : (s.onSched f).img = s.img := rfl
@[simp] theorem State.onSched_luns (s : State) (f : Sched → Sched) : (s.onSched f).luns = s.luns := rfl
@[simp] theorem State.onSched_che (s : State) (f : Sched → Sched) : (s.onSched f).che = s.che := rfl
@[simp] theorem State.onSched_phy (s : State) (f : Sched → Sched) : (s.onSched f).phy = s.phy := rfl
@[simp] theorem State.onSched_pairs (s : State) (f : Sched → Sched) : (s.onSched f).pairs = s.pairs := rfl
@[simp] theorem State.onSched_sched (s : State) (f : Sched → Sched) : (s.onSched f).sched = f s.sched := rfl
@[simp] theorem State.onSched_rly (s : State) (f : Sched → Sched) : (s.onSched f).rly = s.rly := rfl
@[simp] theorem State.onSched_psp (s : State) (f : Sched → Sched) : (s.onSched f).psp = s.psp := rfl
@[simp] theorem State.onSched_spm (s : State) (f : Sched → Sched) : (s.onSched f).spm = s.spm := rfl
@[simp] theorem State.onSched_nvs (s : State) (f : Sched → Sched) : (s.onSched f).nvs = s.nvs := rfl
@[simp] theorem State.onSched_dma (s : State) (f : Sched → Sched) : (s.onSched f).dma = s.dma := rfl
@[simp] theorem State.onSched_jtag (s : State) (f : Sched → Sched) : (s.onSched f).jtag = s.jtag := rfl
@[simp] theorem State.onSched_freeCtr (s : State) (f : Sched → Sched) : (s.onSched f).freeCtr = s.freeCtr := rfl
@[simp] theorem State.onSched_pending (s : State) (f : Sched → Sched) : (s.onSched f).pending = s.pending := rfl

@[simp] theorem State.onRly_sys (s : State) (f : Rly → Rly) : (s.onRly f).sys = s.sys := rfl
@[simp] theorem State.onRly_hcp (s : State) (f : Rly → Rly) : (s.onRly f).hcp = s.hcp := rfl
@[simp] theorem State.onRly_hif (s : State) (f : Rly → Rly) : (s.onRly f).hif = s.hif := rfl
@[simp] theorem State.onRly_hdp (s : State) (f : Rly → Rly) : (s.onRly f).hdp = s.hdp := rfl
@[simp] theorem State.onRly_irq (s : State) (f : Rly → Rly) : (s.onRly f).irq = s.irq := rfl
@[simp] theorem State.onRly_pwr (s : State) (f : Rly → Rly) : (s.onRly f).pwr = s.pwr := rfl
@[simp] theorem State.onRly_time (s : State) (f : Rly → Rly) : (s.onRly f).time = s.time := rfl
@[simp] theorem State.onRly_ldg (s : State) (f : Rly → Rly) : (s.onRly f).ldg = s.ldg := rfl
@[simp] theorem State.onRly_pool (s : State) (f : Rly → Rly) : (s.onRly f).pool = s.pool := rfl
@[simp] theorem State.onRly_dec (s : State) (f : Rly → Rly) : (s.onRly f).dec = s.dec := rfl
@[simp] theorem State.onRly_cal (s : State) (f : Rly → Rly) : (s.onRly f).cal = s.cal := rfl
@[simp] theorem State.onRly_img (s : State) (f : Rly → Rly) : (s.onRly f).img = s.img := rfl
@[simp] theorem State.onRly_luns (s : State) (f : Rly → Rly) : (s.onRly f).luns = s.luns := rfl
@[simp] theorem State.onRly_che (s : State) (f : Rly → Rly) : (s.onRly f).che = s.che := rfl
@[simp] theorem State.onRly_phy (s : State) (f : Rly → Rly) : (s.onRly f).phy = s.phy := rfl
@[simp] theorem State.onRly_pairs (s : State) (f : Rly → Rly) : (s.onRly f).pairs = s.pairs := rfl
@[simp] theorem State.onRly_sched (s : State) (f : Rly → Rly) : (s.onRly f).sched = s.sched := rfl
@[simp] theorem State.onRly_rly (s : State) (f : Rly → Rly) : (s.onRly f).rly = f s.rly := rfl
@[simp] theorem State.onRly_psp (s : State) (f : Rly → Rly) : (s.onRly f).psp = s.psp := rfl
@[simp] theorem State.onRly_spm (s : State) (f : Rly → Rly) : (s.onRly f).spm = s.spm := rfl
@[simp] theorem State.onRly_nvs (s : State) (f : Rly → Rly) : (s.onRly f).nvs = s.nvs := rfl
@[simp] theorem State.onRly_dma (s : State) (f : Rly → Rly) : (s.onRly f).dma = s.dma := rfl
@[simp] theorem State.onRly_jtag (s : State) (f : Rly → Rly) : (s.onRly f).jtag = s.jtag := rfl
@[simp] theorem State.onRly_freeCtr (s : State) (f : Rly → Rly) : (s.onRly f).freeCtr = s.freeCtr := rfl
@[simp] theorem State.onRly_pending (s : State) (f : Rly → Rly) : (s.onRly f).pending = s.pending := rfl

@[simp] theorem State.onPsp_sys (s : State) (f : Psp → Psp) : (s.onPsp f).sys = s.sys := rfl
@[simp] theorem State.onPsp_hcp (s : State) (f : Psp → Psp) : (s.onPsp f).hcp = s.hcp := rfl
@[simp] theorem State.onPsp_hif (s : State) (f : Psp → Psp) : (s.onPsp f).hif = s.hif := rfl
@[simp] theorem State.onPsp_hdp (s : State) (f : Psp → Psp) : (s.onPsp f).hdp = s.hdp := rfl
@[simp] theorem State.onPsp_irq (s : State) (f : Psp → Psp) : (s.onPsp f).irq = s.irq := rfl
@[simp] theorem State.onPsp_pwr (s : State) (f : Psp → Psp) : (s.onPsp f).pwr = s.pwr := rfl
@[simp] theorem State.onPsp_time (s : State) (f : Psp → Psp) : (s.onPsp f).time = s.time := rfl
@[simp] theorem State.onPsp_ldg (s : State) (f : Psp → Psp) : (s.onPsp f).ldg = s.ldg := rfl
@[simp] theorem State.onPsp_pool (s : State) (f : Psp → Psp) : (s.onPsp f).pool = s.pool := rfl
@[simp] theorem State.onPsp_dec (s : State) (f : Psp → Psp) : (s.onPsp f).dec = s.dec := rfl
@[simp] theorem State.onPsp_cal (s : State) (f : Psp → Psp) : (s.onPsp f).cal = s.cal := rfl
@[simp] theorem State.onPsp_img (s : State) (f : Psp → Psp) : (s.onPsp f).img = s.img := rfl
@[simp] theorem State.onPsp_luns (s : State) (f : Psp → Psp) : (s.onPsp f).luns = s.luns := rfl
@[simp] theorem State.onPsp_che (s : State) (f : Psp → Psp) : (s.onPsp f).che = s.che := rfl
@[simp] theorem State.onPsp_phy (s : State) (f : Psp → Psp) : (s.onPsp f).phy = s.phy := rfl
@[simp] theorem State.onPsp_pairs (s : State) (f : Psp → Psp) : (s.onPsp f).pairs = s.pairs := rfl
@[simp] theorem State.onPsp_sched (s : State) (f : Psp → Psp) : (s.onPsp f).sched = s.sched := rfl
@[simp] theorem State.onPsp_rly (s : State) (f : Psp → Psp) : (s.onPsp f).rly = s.rly := rfl
@[simp] theorem State.onPsp_psp (s : State) (f : Psp → Psp) : (s.onPsp f).psp = f s.psp := rfl
@[simp] theorem State.onPsp_spm (s : State) (f : Psp → Psp) : (s.onPsp f).spm = s.spm := rfl
@[simp] theorem State.onPsp_nvs (s : State) (f : Psp → Psp) : (s.onPsp f).nvs = s.nvs := rfl
@[simp] theorem State.onPsp_dma (s : State) (f : Psp → Psp) : (s.onPsp f).dma = s.dma := rfl
@[simp] theorem State.onPsp_jtag (s : State) (f : Psp → Psp) : (s.onPsp f).jtag = s.jtag := rfl
@[simp] theorem State.onPsp_freeCtr (s : State) (f : Psp → Psp) : (s.onPsp f).freeCtr = s.freeCtr := rfl
@[simp] theorem State.onPsp_pending (s : State) (f : Psp → Psp) : (s.onPsp f).pending = s.pending := rfl

@[simp] theorem State.onSpm_sys (s : State) (f : Spm → Spm) : (s.onSpm f).sys = s.sys := rfl
@[simp] theorem State.onSpm_hcp (s : State) (f : Spm → Spm) : (s.onSpm f).hcp = s.hcp := rfl
@[simp] theorem State.onSpm_hif (s : State) (f : Spm → Spm) : (s.onSpm f).hif = s.hif := rfl
@[simp] theorem State.onSpm_hdp (s : State) (f : Spm → Spm) : (s.onSpm f).hdp = s.hdp := rfl
@[simp] theorem State.onSpm_irq (s : State) (f : Spm → Spm) : (s.onSpm f).irq = s.irq := rfl
@[simp] theorem State.onSpm_pwr (s : State) (f : Spm → Spm) : (s.onSpm f).pwr = s.pwr := rfl
@[simp] theorem State.onSpm_time (s : State) (f : Spm → Spm) : (s.onSpm f).time = s.time := rfl
@[simp] theorem State.onSpm_ldg (s : State) (f : Spm → Spm) : (s.onSpm f).ldg = s.ldg := rfl
@[simp] theorem State.onSpm_pool (s : State) (f : Spm → Spm) : (s.onSpm f).pool = s.pool := rfl
@[simp] theorem State.onSpm_dec (s : State) (f : Spm → Spm) : (s.onSpm f).dec = s.dec := rfl
@[simp] theorem State.onSpm_cal (s : State) (f : Spm → Spm) : (s.onSpm f).cal = s.cal := rfl
@[simp] theorem State.onSpm_img (s : State) (f : Spm → Spm) : (s.onSpm f).img = s.img := rfl
@[simp] theorem State.onSpm_luns (s : State) (f : Spm → Spm) : (s.onSpm f).luns = s.luns := rfl
@[simp] theorem State.onSpm_che (s : State) (f : Spm → Spm) : (s.onSpm f).che = s.che := rfl
@[simp] theorem State.onSpm_phy (s : State) (f : Spm → Spm) : (s.onSpm f).phy = s.phy := rfl
@[simp] theorem State.onSpm_pairs (s : State) (f : Spm → Spm) : (s.onSpm f).pairs = s.pairs := rfl
@[simp] theorem State.onSpm_sched (s : State) (f : Spm → Spm) : (s.onSpm f).sched = s.sched := rfl
@[simp] theorem State.onSpm_rly (s : State) (f : Spm → Spm) : (s.onSpm f).rly = s.rly := rfl
@[simp] theorem State.onSpm_psp (s : State) (f : Spm → Spm) : (s.onSpm f).psp = s.psp := rfl
@[simp] theorem State.onSpm_spm (s : State) (f : Spm → Spm) : (s.onSpm f).spm = f s.spm := rfl
@[simp] theorem State.onSpm_nvs (s : State) (f : Spm → Spm) : (s.onSpm f).nvs = s.nvs := rfl
@[simp] theorem State.onSpm_dma (s : State) (f : Spm → Spm) : (s.onSpm f).dma = s.dma := rfl
@[simp] theorem State.onSpm_jtag (s : State) (f : Spm → Spm) : (s.onSpm f).jtag = s.jtag := rfl
@[simp] theorem State.onSpm_freeCtr (s : State) (f : Spm → Spm) : (s.onSpm f).freeCtr = s.freeCtr := rfl
@[simp] theorem State.onSpm_pending (s : State) (f : Spm → Spm) : (s.onSpm f).pending = s.pending := rfl

@[simp] theorem State.onNvs_sys (s : State) (f : Nvs → Nvs) : (s.onNvs f).sys = s.sys := rfl
@[simp] theorem State.onNvs_hcp (s : State) (f : Nvs → Nvs) : (s.onNvs f).hcp = s.hcp := rfl
@[simp] theorem State.onNvs_hif (s : State) (f : Nvs → Nvs) : (s.onNvs f).hif = s.hif := rfl
@[simp] theorem State.onNvs_hdp (s : State) (f : Nvs → Nvs) : (s.onNvs f).hdp = s.hdp := rfl
@[simp] theorem State.onNvs_irq (s : State) (f : Nvs → Nvs) : (s.onNvs f).irq = s.irq := rfl
@[simp] theorem State.onNvs_pwr (s : State) (f : Nvs → Nvs) : (s.onNvs f).pwr = s.pwr := rfl
@[simp] theorem State.onNvs_time (s : State) (f : Nvs → Nvs) : (s.onNvs f).time = s.time := rfl
@[simp] theorem State.onNvs_ldg (s : State) (f : Nvs → Nvs) : (s.onNvs f).ldg = s.ldg := rfl
@[simp] theorem State.onNvs_pool (s : State) (f : Nvs → Nvs) : (s.onNvs f).pool = s.pool := rfl
@[simp] theorem State.onNvs_dec (s : State) (f : Nvs → Nvs) : (s.onNvs f).dec = s.dec := rfl
@[simp] theorem State.onNvs_cal (s : State) (f : Nvs → Nvs) : (s.onNvs f).cal = s.cal := rfl
@[simp] theorem State.onNvs_img (s : State) (f : Nvs → Nvs) : (s.onNvs f).img = s.img := rfl
@[simp] theorem State.onNvs_luns (s : State) (f : Nvs → Nvs) : (s.onNvs f).luns = s.luns := rfl
@[simp] theorem State.onNvs_che (s : State) (f : Nvs → Nvs) : (s.onNvs f).che = s.che := rfl
@[simp] theorem State.onNvs_phy (s : State) (f : Nvs → Nvs) : (s.onNvs f).phy = s.phy := rfl
@[simp] theorem State.onNvs_pairs (s : State) (f : Nvs → Nvs) : (s.onNvs f).pairs = s.pairs := rfl
@[simp] theorem State.onNvs_sched (s : State) (f : Nvs → Nvs) : (s.onNvs f).sched = s.sched := rfl
@[simp] theorem State.onNvs_rly (s : State) (f : Nvs → Nvs) : (s.onNvs f).rly = s.rly := rfl
@[simp] theorem State.onNvs_psp (s : State) (f : Nvs → Nvs) : (s.onNvs f).psp = s.psp := rfl
@[simp] theorem State.onNvs_spm (s : State) (f : Nvs → Nvs) : (s.onNvs f).spm = s.spm := rfl
@[simp] theorem State.onNvs_nvs (s : State) (f : Nvs → Nvs) : (s.onNvs f).nvs = f s.nvs := rfl
@[simp] theorem State.onNvs_dma (s : State) (f : Nvs → Nvs) : (s.onNvs f).dma = s.dma := rfl
@[simp] theorem State.onNvs_jtag (s : State) (f : Nvs → Nvs) : (s.onNvs f).jtag = s.jtag := rfl
@[simp] theorem State.onNvs_freeCtr (s : State) (f : Nvs → Nvs) : (s.onNvs f).freeCtr = s.freeCtr := rfl
@[simp] theorem State.onNvs_pending (s : State) (f : Nvs → Nvs) : (s.onNvs f).pending = s.pending := rfl

@[simp] theorem State.onDma_sys (s : State) (f : Dma → Dma) : (s.onDma f).sys = s.sys := rfl
@[simp] theorem State.onDma_hcp (s : State) (f : Dma → Dma) : (s.onDma f).hcp = s.hcp := rfl
@[simp] theorem State.onDma_hif (s : State) (f : Dma → Dma) : (s.onDma f).hif = s.hif := rfl
@[simp] theorem State.onDma_hdp (s : State) (f : Dma → Dma) : (s.onDma f).hdp = s.hdp := rfl
@[simp] theorem State.onDma_irq (s : State) (f : Dma → Dma) : (s.onDma f).irq = s.irq := rfl
@[simp] theorem State.onDma_pwr (s : State) (f : Dma → Dma) : (s.onDma f).pwr = s.pwr := rfl
@[simp] theorem State.onDma_time (s : State) (f : Dma → Dma) : (s.onDma f).time = s.time := rfl
@[simp] theorem State.onDma_ldg (s : State) (f : Dma → Dma) : (s.onDma f).ldg = s.ldg := rfl
@[simp] theorem State.onDma_pool (s : State) (f : Dma → Dma) : (s.onDma f).pool = s.pool := rfl
@[simp] theorem State.onDma_dec (s : State) (f : Dma → Dma) : (s.onDma f).dec = s.dec := rfl
@[simp] theorem State.onDma_cal (s : State) (f : Dma → Dma) : (s.onDma f).cal = s.cal := rfl
@[simp] theorem State.onDma_img (s : State) (f : Dma → Dma) : (s.onDma f).img = s.img := rfl
@[simp] theorem State.onDma_luns (s : State) (f : Dma → Dma) : (s.onDma f).luns = s.luns := rfl
@[simp] theorem State.onDma_che (s : State) (f : Dma → Dma) : (s.onDma f).che = s.che := rfl
@[simp] theorem State.onDma_phy (s : State) (f : Dma → Dma) : (s.onDma f).phy = s.phy := rfl
@[simp] theorem State.onDma_pairs (s : State) (f : Dma → Dma) : (s.onDma f).pairs = s.pairs := rfl
@[simp] theorem State.onDma_sched (s : State) (f : Dma → Dma) : (s.onDma f).sched = s.sched := rfl
@[simp] theorem State.onDma_rly (s : State) (f : Dma → Dma) : (s.onDma f).rly = s.rly := rfl
@[simp] theorem State.onDma_psp (s : State) (f : Dma → Dma) : (s.onDma f).psp = s.psp := rfl
@[simp] theorem State.onDma_spm (s : State) (f : Dma → Dma) : (s.onDma f).spm = s.spm := rfl
@[simp] theorem State.onDma_nvs (s : State) (f : Dma → Dma) : (s.onDma f).nvs = s.nvs := rfl
@[simp] theorem State.onDma_dma (s : State) (f : Dma → Dma) : (s.onDma f).dma = f s.dma := rfl
@[simp] theorem State.onDma_jtag (s : State) (f : Dma → Dma) : (s.onDma f).jtag = s.jtag := rfl
@[simp] theorem State.onDma_freeCtr (s : State) (f : Dma → Dma) : (s.onDma f).freeCtr = s.freeCtr := rfl
@[simp] theorem State.onDma_pending (s : State) (f : Dma → Dma) : (s.onDma f).pending = s.pending := rfl

@[simp] theorem State.onJtag_sys (s : State) (f : Jtag → Jtag) : (s.onJtag f).sys = s.sys := rfl
@[simp] theorem State.onJtag_hcp (s : State) (f : Jtag → Jtag) : (s.onJtag f).hcp = s.hcp := rfl
@[simp] theorem State.onJtag_hif (s : State) (f : Jtag → Jtag) : (s.onJtag f).hif = s.hif := rfl
@[simp] theorem State.onJtag_hdp (s : State) (f : Jtag → Jtag) : (s.onJtag f).hdp = s.hdp := rfl
@[simp] theorem State.onJtag_irq (s : State) (f : Jtag → Jtag) : (s.onJtag f).irq = s.irq := rfl
@[simp] theorem State.onJtag_pwr (s : State) (f : Jtag → Jtag) : (s.onJtag f).pwr = s.pwr := rfl
@[simp] theorem State.onJtag_time (s : State) (f : Jtag → Jtag) : (s.onJtag f).time = s.time := rfl
@[simp] theorem State.onJtag_ldg (s : State) (f : Jtag → Jtag) : (s.onJtag f).ldg = s.ldg := rfl
@[simp] theorem State.onJtag_pool (s : State) (f : Jtag → Jtag) : (s.onJtag f).pool = s.pool := rfl
@[simp] theorem State.onJtag_dec (s : State) (f : Jtag → Jtag) : (s.onJtag f).dec = s.dec := rfl
@[simp] theorem State.onJtag_cal (s : State) (f : Jtag → Jtag) : (s.onJtag f).cal = s.cal := rfl
@[simp] theorem State.onJtag_img (s : State) (f : Jtag → Jtag) : (s.onJtag f).img = s.img := rfl
@[simp] theorem State.onJtag_luns (s : State) (f : Jtag → Jtag) : (s.onJtag f).luns = s.luns := rfl
@[simp] theorem State.onJtag_che (s : State) (f : Jtag → Jtag) : (s.onJtag f).che = s.che := rfl
@[simp] theorem State.onJtag_phy (s : State) (f : Jtag → Jtag) : (s.onJtag f).phy = s.phy := rfl
@[simp] theorem State.onJtag_pairs (s : State) (f : Jtag → Jtag) : (s.onJtag f).pairs = s.pairs := rfl
@[simp] theorem State.onJtag_sched (s : State) (f : Jtag → Jtag) : (s.onJtag f).sched = s.sched := rfl
@[simp] theorem State.onJtag_rly (s : State) (f : Jtag → Jtag) : (s.onJtag f).rly = s.rly := rfl
@[simp] theorem State.onJtag_psp (s : State) (f : Jtag → Jtag) : (s.onJtag f).psp = s.psp := rfl
@[simp] theorem State.onJtag_spm (s : State) (f : Jtag → Jtag) : (s.onJtag f).spm = s.spm := rfl
@[simp] theorem State.onJtag_nvs (s : State) (f : Jtag → Jtag) : (s.onJtag f).nvs = s.nvs := rfl
@[simp] theorem State.onJtag_dma (s : State) (f : Jtag → Jtag) : (s.onJtag f).dma = s.dma := rfl
@[simp] theorem State.onJtag_jtag (s : State) (f : Jtag → Jtag) : (s.onJtag f).jtag = f s.jtag := rfl
@[simp] theorem State.onJtag_freeCtr (s : State) (f : Jtag → Jtag) : (s.onJtag f).freeCtr = s.freeCtr := rfl
@[simp] theorem State.onJtag_pending (s : State) (f : Jtag → Jtag) : (s.onJtag f).pending = s.pending := rfl

@[simp] theorem State.onFreeCtr_sys (s : State) (f : Nat → Nat) : (s.onFreeCtr f).sys = s.sys := rfl
@[simp] theorem State.onFreeCtr_hcp (s : State) (f : Nat → Nat) : (s.onFreeCtr f).hcp = s.hcp := rfl
@[simp] theorem State.onFreeCtr_hif (s : State) (f : Nat → Nat) : (s.onFreeCtr f).hif = s.hif := rfl
@[simp] theorem State.onFreeCtr_hdp (s : State) (f : Nat → Nat) : (s.onFreeCtr f).hdp = s.hdp := rfl
@[simp] theorem State.onFreeCtr_irq (s : State) (f : Nat → Nat) : (s.onFreeCtr f).irq = s.irq := rfl
@[simp] theorem State.onFreeCtr_pwr (s : State) (f : Nat → Nat) : (s.onFreeCtr f).pwr = s.pwr := rfl
@[simp] theorem State.onFreeCtr_time (s : State) (f : Nat → Nat) : (s.onFreeCtr f).time = s.time := rfl
@[simp] theorem State.onFreeCtr_ldg (s : State) (f : Nat → Nat) : (s.onFreeCtr f).ldg = s.ldg := rfl
@[simp] theorem State.onFreeCtr_pool (s : State) (f : Nat → Nat) : (s.onFreeCtr f).pool = s.pool := rfl
@[simp] theorem State.onFreeCtr_dec (s : State) (f : Nat → Nat) : (s.onFreeCtr f).dec = s.dec := rfl
@[simp] theorem State.onFreeCtr_cal (s : State) (f : Nat → Nat) : (s.onFreeCtr f).cal = s.cal := rfl
@[simp] theorem State.onFreeCtr_img (s : State) (f : Nat → Nat) : (s.onFreeCtr f).img = s.img := rfl
@[simp] theorem State.onFreeCtr_luns (s : State) (f : Nat → Nat) : (s.onFreeCtr f).luns = s.luns := rfl
@[simp] theorem State.onFreeCtr_che (s : State) (f : Nat → Nat) : (s.onFreeCtr f).che = s.che := rfl
@[simp] theorem State.onFreeCtr_phy (s : State) (f : Nat → Nat) : (s.onFreeCtr f).phy = s.phy := rfl
@[simp] theorem State.onFreeCtr_pairs (s : State) (f : Nat → Nat) : (s.onFreeCtr f).pairs = s.pairs := rfl
@[simp] theorem State.onFreeCtr_sched (s : State) (f : Nat → Nat) : (s.onFreeCtr f).sched = s.sched := rfl
@[simp] theorem State.onFreeCtr_rly (s : State) (f : Nat → Nat) : (s.onFreeCtr f).rly = s.rly := rfl
@[simp] theorem State.onFreeCtr_psp (s : State) (f : Nat → Nat) : (s.onFreeCtr f).psp = s.psp := rfl
@[simp] theorem State.onFreeCtr_spm (s : State) (f : Nat → Nat) : (s.onFreeCtr f).spm = s.spm := rfl
@[simp] theorem State.onFreeCtr_nvs (s : State) (f : Nat → Nat) : (s.onFreeCtr f).nvs = s.nvs := rfl
@[simp] theorem State.onFreeCtr_dma (s : State) (f : Nat → Nat) : (s.onFreeCtr f).dma = s.dma := rfl
@[simp] theorem State.onFreeCtr_jtag (s : State) (f : Nat → Nat) : (s.onFreeCtr f).jtag = s.jtag := rfl
@[simp] theorem State.onFreeCtr_freeCtr (s : State) (f : Nat → Nat) : (s.onFreeCtr f).freeCtr = f s.freeCtr := rfl
@[simp] theorem State.onFreeCtr_pending (s : State) (f : Nat → Nat) : (s.onFreeCtr f).pending = s.pending := rfl

@[simp] theorem State.onPending_sys (s : State) (f : List Instr → List Instr) : (s.onPending f).sys = s.sys := rfl
@[simp] theorem State.onPending_hcp (s : State) (f : List Instr → List Instr) : (s.onPending f).hcp = s.hcp := rfl
@[simp] theorem State.onPending_hif (s : State) (f : List Instr → List Instr) : (s.onPending f).hif = s.hif := rfl
@[simp] theorem State.onPending_hdp (s : State) (f : List Instr → List Instr) : (s.onPending f).hdp = s.hdp := rfl
@[simp] theorem State.onPending_irq (s : State) (f : List Instr → List Instr) : (s.onPending f).irq = s.irq := rfl
@[simp] theorem State.onPending_pwr (s : State) (f : List Instr → List Instr) : (s.onPending f).pwr = s.pwr := rfl
@[simp] theorem State.onPending_time (s : State) (f : List Instr → List Instr) : (s.onPending f).time = s.time := rfl
@[simp] theorem State.onPending_ldg (s : State) (f : List Instr → List Instr) : (s.onPending f).ldg = s.ldg := rfl
@[simp] theorem State.onPending_pool (s : State) (f : List Instr → List Instr) : (s.onPending f).pool = s.pool := rfl
@[simp] theorem State.onPending_dec (s : State) (f : List Instr → List Instr) : (s.onPending f).dec = s.dec := rfl
@[simp] theorem State.onPending_cal (s : State) (f : List Instr → List Instr) : (s.onPending f).cal = s.cal := rfl
@[simp] theorem State.onPending_img (s : State) (f : List Instr → List Instr) : (s.onPending f).img = s.img := rfl
@[simp] theorem State.onPending_luns (s : State) (f : List Instr → List Instr) : (s.onPending f).luns = s.luns := rfl
@[simp] theorem State.onPending_che (s : State) (f : List Instr → List Instr) : (s.onPending f).che = s.che := rfl
@[simp] theorem State.onPending_phy (s : State) (f : List Instr → List Instr) : (s.onPending f).phy = s.phy := rfl
@[simp] theorem State.onPending_pairs (s : State) (f : List Instr → List Instr) : (s.onPending f).pairs = s.pairs := rfl
@[simp] theorem State.onPending_sched (s : State) (f : List Instr → List Instr) : (s.onPending f).sched = s.sched := rfl
@[simp] theorem State.onPending_rly (s : State) (f : List Instr → List Instr) : (s.onPending f).rly = s.rly := rfl
@[simp] theorem State.onPending_psp (s : State) (f : List Instr → List Instr) : (s.onPending f).psp = s.psp := rfl
@[simp] theorem State.onPending_spm (s : State) (f : List Instr → List Instr) : (s.onPending f).spm = s.spm := rfl
@[simp] theorem State.onPending_nvs (s : State) (f : List Instr → List Instr) : (s.onPending f).nvs = s.nvs := rfl
@[simp] theorem State.onPending_dma (s : State) (f : List Instr → List Instr) : (s.onPending f).dma = s.dma := rfl
@[simp] theorem State.onPending_jtag (s : State) (f : List Instr → List Instr) : (s.onPending f).jtag = s.jtag := rfl
@[simp] theorem State.onPending_freeCtr (s : State) (f : List Instr → List Instr) : (s.onPending f).freeCtr = s.freeCtr := rfl
@[simp] theorem State.onPending_pending (s : State) (f : List Instr → List Instr) : (s.onPending f).pending = f s.pending := rfl

end Sys2Proof.Machine
end

