-- ==== Sys2Proof/Laws/Steady.lean ====
section
/-! SUPPORT. What the shared helpers leave as it is (`State.steady`): the decoders' decodes and counters, the chains' walks, the
pool's queues and the learned state. `f_steady` says so of the helper `f`. -/

namespace Sys2Proof.Machine

/-- What of the decoders is no queue and no event in flight: the registers, the decodes in progress, the fault record and the counters that only a decode's end adds to. -/
abbrev Dec.steady (d : Dec) : (Word × Word × BitVec 26 × BitVec 4 × BitVec 2 × BitVec 2 × List Nat × SMap (DecItem × Word × Word)) × (Bool × BitVec 2 × Bool × Nat × Nat) × (Word × Word × Word × Word × Word × Word) :=
  ((d.cfg, d.llr, d.hardOut, d.softOut, d.bchOut, d.spareIn, d.spareDue, d.busy), (d.faultValid, d.faultKind, d.faultCause, d.faultLane, d.faultCount),
   (d.cwCnt, d.iterAcc, d.iterSum, d.failCnt, d.softCnt, d.sherdCnt))
/-- What of a segment its list words give. -/
abbrev Seg.steady (g : Seg) : Nat × BitVec 64 × Nat × Nat × Word × Nat := (g.addr, g.link, g.buf, g.len, g.flags, g.base)
/-- What of a chain its walk gives, without what has moved. -/
abbrev Chain.steady (h : Chain) : Nat × Nat × Option Walk × Bool × Bool × Bool × List (Nat × BitVec 64 × Nat × Nat × Word × Nat) :=
  (h.head, h.base, h.walk, h.shaped, h.halted, h.aborted, h.segs.map Seg.steady)
/-- What of the DMA is no byte count of a chain. -/
abbrev Dma.steady (d : Dma) : List (Nat × (Nat × Nat × Option Walk × Bool × Bool × Bool × List (Nat × BitVec 64 × Nat × Nat × Word × Nat))) × List Nat × Bool × Word ×
    (BitVec 57 × BitVec 57 × Bool × Bool × Bool × BitVec 57) :=
  (d.chains.map (fun e => (e.1, e.2.steady)), d.haltQ, d.disable, d.bytesRd,
   (d.leg.src, d.leg.dst, d.leg.coherent, d.leg.halt, d.leg.dir, d.leg.faddr))
/-- What of the buffer pool only the intake and the egress side move. -/
abbrev Pool.steady (p : Pool) : Bool × Bool × Bool × Nat × Nat :=
  (p.qerrValid, p.qerrDir, p.qerrPtr, p.qerrCount, p.qerrCh)
/-- What of the learned state is no probe under way. -/
abbrev Cal.steady (c : Cal) : (Word × Word × Word × Word × BitVec 15 × Word × BitVec 9) × (SMap Int × SMap Int × SMap Int) × (Word × BitVec 16 × BitVec 16 × SMap Ns × Word × BitVec 10) :=
  ((c.cfg, c.temp, c.recovery, c.softMap, c.sel, c.patrolCfg, c.patrolSel), (c.t, c.tCal, c.tNow), (c.trainCfg, c.pending, c.active, c.starts, c.trainCnt, c.thm))
/-- The four parts above. -/
structure Steady where
  dec : (Word × Word × BitVec 26 × BitVec 4 × BitVec 2 × BitVec 2 × List Nat × SMap (DecItem × Word × Word)) × (Bool × BitVec 2 × Bool × Nat × Nat) × (Word × Word × Word × Word × Word × Word)
  dma : List (Nat × (Nat × Nat × Option Walk × Bool × Bool × Bool × List (Nat × BitVec 64 × Nat × Nat × Word × Nat))) × List Nat × Bool × Word ×
    (BitVec 57 × BitVec 57 × Bool × Bool × Bool × BitVec 57)
  pool : Bool × Bool × Bool × Nat × Nat
  cal : (Word × Word × Word × Word × BitVec 15 × Word × BitVec 9) × (SMap Int × SMap Int × SMap Int) × (Word × BitVec 16 × BitVec 16 × SMap Ns × Word × BitVec 10)
/-- The parts that the shared helpers (settling, pumping, wanting, ending) leave as they are. -/
def State.steady (s : State) : Steady := { dec := s.dec.steady, dma := s.dma.steady, pool := s.pool.steady, cal := s.cal.steady }
@[simp] theorem State.onSys_steady (f) (s : State) : (State.onSys f s).steady = s.steady := rfl
@[simp] theorem State.onHcp_steady (f) (s : State) : (State.onHcp f s).steady = s.steady := rfl
@[simp] theorem State.onHif_steady (f) (s : State) : (State.onHif f s).steady = s.steady := rfl
@[simp] theorem State.onHdp_steady (f) (s : State) : (State.onHdp f s).steady = s.steady := rfl
@[simp] theorem State.onIrq_steady (f) (s : State) : (State.onIrq f s).steady = s.steady := rfl
@[simp] theorem State.onPwr_steady (f) (s : State) : (State.onPwr f s).steady = s.steady := rfl
@[simp] theorem State.onTime_steady (f) (s : State) : (State.onTime f s).steady = s.steady := rfl
@[simp] theorem State.onLdg_steady (f) (s : State) : (State.onLdg f s).steady = s.steady := rfl
@[simp] theorem State.onImg_steady (f) (s : State) : (State.onImg f s).steady = s.steady := rfl
@[simp] theorem State.onLuns_steady (f) (s : State) : (State.onLuns f s).steady = s.steady := rfl
@[simp] theorem State.onChe_steady (f) (s : State) : (State.onChe f s).steady = s.steady := rfl
@[simp] theorem State.onPhy_steady (f) (s : State) : (State.onPhy f s).steady = s.steady := rfl
@[simp] theorem State.onPairs_steady (f) (s : State) : (State.onPairs f s).steady = s.steady := rfl
@[simp] theorem State.onSched_steady (f) (s : State) : (State.onSched f s).steady = s.steady := rfl
@[simp] theorem State.onRly_steady (f) (s : State) : (State.onRly f s).steady = s.steady := rfl
@[simp] theorem State.onPsp_steady (f) (s : State) : (State.onPsp f s).steady = s.steady := rfl
@[simp] theorem State.onSpm_steady (f) (s : State) : (State.onSpm f s).steady = s.steady := rfl
@[simp] theorem State.onNvs_steady (f) (s : State) : (State.onNvs f s).steady = s.steady := rfl
@[simp] theorem State.onJtag_steady (f) (s : State) : (State.onJtag f s).steady = s.steady := rfl
@[simp] theorem State.onFreeCtr_steady (f) (s : State) : (State.onFreeCtr f s).steady = s.steady := rfl
@[simp] theorem State.onDec_steady (f : Dec → Dec) (s : State) (h : (f s.dec).steady = s.dec.steady) :
    (State.onDec f s).steady = s.steady := congrArg (fun x => { s.steady with dec := x }) h
theorem State.onDec_steady' (f : Dec → Dec) (s : State) (x : Steady) (h : (f s.dec).steady = s.dec.steady) (k :
    s.steady = x) :
    (State.onDec f s).steady = x := (State.onDec_steady f s h).trans k
@[simp] theorem State.onDma_steady (f : Dma → Dma) (s : State) (h : (f s.dma).steady = s.dma.steady) :
    (State.onDma f s).steady = s.steady := congrArg (fun x => { s.steady with dma := x }) h
theorem State.onDma_steady' (f : Dma → Dma) (s : State) (x : Steady) (h : (f s.dma).steady = s.dma.steady) (k :
    s.steady = x) :
    (State.onDma f s).steady = x := (State.onDma_steady f s h).trans k
@[simp] theorem State.onPool_steady (f : Pool → Pool) (s : State) (h : (f s.pool).steady = s.pool.steady) :
    (State.onPool f s).steady = s.steady := congrArg (fun x => { s.steady with pool := x }) h
theorem State.onPool_steady' (f : Pool → Pool) (s : State) (x : Steady) (h : (f s.pool).steady = s.pool.steady) (k :
    s.steady = x) :
    (State.onPool f s).steady = x := (State.onPool_steady f s h).trans k
@[simp] theorem State.onCal_steady (f : Cal → Cal) (s : State) (h : (f s.cal).steady = s.cal.steady) :
    (State.onCal f s).steady = s.steady := congrArg (fun x => { s.steady with cal := x }) h
theorem State.onCal_steady' (f : Cal → Cal) (s : State) (x : Steady) (h : (f s.cal).steady = s.cal.steady) (k :
    s.steady = x) :
    (State.onCal f s).steady = x := (State.onCal_steady f s h).trans k
@[simp] theorem State.onChain_steady (id : ChainId) (f : Chain → Chain) (s : State) (h :
    ∀ c, (f c).steady = c.steady) :
    (s.onChain id f).steady = s.steady := by
  unfold State.onChain
  refine State.onDma_steady _ _ ?_
  cases id
  · simp only [Dma.steady, SMap.upd_map Chain.steady _ _ _ h]
  · rfl
  · rfl
theorem State.onChain_steady' (id : ChainId) (f : Chain → Chain) (s : State) (x : Steady) (h :
    ∀ c, (f c).steady = c.steady) (k : s.steady = x) :
    (s.onChain id f).steady = x := (State.onChain_steady id f s h).trans k
theorem State.onUnit_steady (ix : Nat) (f : LUnit → LUnit) (s : State) : (s.onUnit ix f).steady = s.steady := rfl
theorem State.onCmd_steady (ix : Nat) (f : Cmd → Cmd) (s : State) : (s.onCmd ix f).steady = s.steady := rfl

theorem foldl_steady {α : Type} (f : State → α → State) (l : List α) (h : ∀ s a, (f s a).steady = s.steady) (s :
    State) :
    (l.foldl f s).steady = s.steady := fold_leaves State.steady h rfl l

theorem fold_steady {α : Type} (f : State → α → State) (l : List α) (s : State) (x : Steady) (h : s.steady = x)
    (k : ∀ s a, (f s a).steady = s.steady) : (l.foldl f s).steady = x := fold_leaves State.steady k h l

theorem fold1_steady {α β : Type} (f : State × β → α → State × β) (l : List α) (p : State × β) (x : Steady)
    (h : p.1.steady = x) (k : ∀ p a, (f p a).1.steady = p.1.steady) : (l.foldl f p).1.steady = x :=
  fold_leaves (fun p : State × β => p.1.steady) k h l

theorem split_var_steady (y : State) (x : Steady) (A : State) (h : y.steady = x) (k : y.steady = x → A.steady = x) :
    A.steady = x := k h

theorem ite_steady (c : Prop) [Decidable c] (a b : State) (x : Steady) (h : a.steady = x) (k : b.steady = x) :
    (if c then a else b).steady = x := ite_leaves (w := State.steady) h k

/-- A meaning that answers a next state leaves the steady part as `x`. -/
abbrev Res.steady (r : Res) (x : Steady) : Prop := Res.leaves State.steady r x

theorem next_steady (s : State) (x : Steady) (h : s.steady = x) : Res.steady (.next s) x := next_leaves h

theorem fault_steady (f : Fault) (x : Steady) : Res.steady (.fault f) x := fault_leaves f

theorem onlyIf_steady (c : Bool) (f : State → State) (s : State) (x : Steady) (h : s.steady = x)
    (k : s.steady = x → (f s).steady = x) : Res.steady (onlyIf c f s) x := onlyIf_leaves h k

theorem hcpAccess_steady (f : State → State) (s : State) (x : Steady) (h : s.steady = x)
    (k : ∀ t, t.steady = x → (f t).steady = x) : Res.steady (hcpAccess f s) x :=
  onlyIf_steady _ _ _ _ h (fun h => k _ h)

theorem runRes_steady (o : Option State) (x : Steady) (h : ∀ t, o = some t → t.steady = x) :
    Res.steady (runRes o) x :=
  runRes_leaves h

theorem split_res_steady (y : State) (x : Steady) (A : Res) (h : y.steady = x) (k : y.steady = x → Res.steady A x) :
    Res.steady A x := k h
theorem bindFold_steady {α : Type} (g : α → State → Option State)
    (h : ∀ a s t, g a s = some t → t.steady = s.steady) (l : List α) (o : Option State) (x : Steady)
    (k : ∀ s, o = some s → s.steady = x) : ∀ t, l.foldl (fun o a => o.bind (g a)) o = some t → t.steady = x :=
  bindFold_leaves State.steady h l k

/-! ## Ops -/

@[simp] theorem State.wake_steady (cause : Nat) (s : State) : (State.wake cause s).steady = s.steady := by
  unfold State.wake
  repeat' split
  all_goals rfl
@[simp] theorem State.raise_steady (n : Nat) (s : State) : (State.raise n s).steady = s.steady := by
  unfold State.raise
  split <;> rfl
@[simp] theorem State.drawFree_steady (s : State) :
    s.drawFree.2.steady = s.steady := rfl
@[simp] theorem State.drawBytes_steady (n : Nat) (s : State) :
    (s.drawBytes n).2.steady = s.steady := rfl
@[simp] theorem State.bumpGen_steady (ix : Nat) (s : State) : (State.bumpGen ix s).steady = s.steady := rfl
@[simp] theorem State.stale_steady (s : State) : (State.stale s).steady = s.steady := rfl
@[simp] theorem State.ecc_steady (e : Ecc) (s : State) : (State.ecc e s).steady = s.steady := by
  unfold State.ecc
  split <;> rfl
@[simp] theorem State.hdpRead_steady (r : HdpRd) (s : State) : (State.hdpRead r s).steady = s.steady := rfl
@[simp] theorem State.hdpWrite_steady (w : HdpWr) (s : State) : (State.hdpWrite w s).steady = s.steady := rfl
@[simp] theorem State.refill_steady (s : State) : (State.refill s).steady = s.steady := by
  unfold State.refill
  split <;> rfl
theorem State.popRead_steady {p : HdpRd → Bool} {s t : State} {r : HdpRd} (h : s.popRead p = some (r, t)) :
    t.steady = s.steady := by
  simp only [State.popRead, Option.map_eq_some_iff, Prod.mk.injEq] at h
  obtain ⟨a, -, -, rfl⟩ := h
  exact State.refill_steady _
theorem State.popTag_steady {tag : Nat} {p : HdpRd → Bool} {s t : State} {r : HdpRd} (h :
    s.popTag tag p = some (r, t)) : t.steady = s.steady := by
  exact State.popRead_steady h
theorem State.popWrite_steady {id : Nat} {s t : State} {w : HdpWr} (h : s.popWrite id = some (w, t)) :
    t.steady = s.steady := by
  simp only [State.popWrite, Option.map_eq_some_iff, Prod.mk.injEq] at h
  obtain ⟨a, -, -, rfl⟩ := h; rfl
@[simp] theorem State.hifError_steady (kind ring addr : Nat) (s : State) :
    (State.hifError kind ring addr s).steady = s.steady := by
  unfold State.hifError
  split <;> rfl
@[simp] theorem State.onChan_steady (c : Nat) (f : Chan → Chan) (s : State) :
    (State.onChan c f s).steady = s.steady := rfl
@[simp] theorem State.onLun_steady (l : Nat) (f : Lun → Lun) (s : State) :
    (State.onLun l f s).steady = s.steady := rfl
@[simp] theorem State.onPhyOf_steady (c : Nat) (f : Phy → Phy) (s : State) :
    (State.onPhyOf c f s).steady = s.steady := rfl
@[simp] theorem State.onPair_steady (k : Nat) (f : Pair → Pair) (s : State) :
    (State.onPair k f s).steady = s.steady := rfl
@[simp] theorem State.onSq_steady (i : Nat) (f : Sq → Sq) (s : State) : (State.onSq i f s).steady = s.steady := rfl
@[simp] theorem State.onCq_steady (i : Nat) (f : Cq → Cq) (s : State) : (State.onCq i f s).steady = s.steady := rfl
@[simp] theorem State.onPeck_steady (p : Nat) (f : Peck → Peck) (s : State) :
    (State.onPeck p f s).steady = s.steady := rfl

/-! ## PoolOps -/

@[simp] theorem State.considerHead_steady (c : Nat) (s : State) : (State.considerHead c s).steady = s.steady := by
  unfold State.considerHead
  repeat' split
  all_goals rfl
@[simp] theorem State.askPecks_steady (c ix k : Nat) (s : State) : (State.askPecks c ix k s).steady = s.steady := by
  unfold State.askPecks
  repeat' (first | rfl | split | simp)
@[simp] theorem State.dropAsks_steady (c ix : Nat) (s : State) : (State.dropAsks c ix s).steady = s.steady := by
  unfold State.dropAsks
  repeat' (first | rfl | split | simp)
@[simp] theorem State.release_steady (ps : List Nat) (s : State) :
    (State.release ps s).steady = s.steady := foldl_steady _ _ (fun _ _ => by simp) _
@[simp] theorem State.allocPeck_steady (ix : Nat) (u : LUnit) (sense : Bool) (p cw : Nat) (s : State) :
    (State.allocPeck ix u sense p cw s).steady = s.steady := rfl
@[simp] theorem State.notePecks_steady (c : Nat) (s : State) : (State.notePecks c s).steady = s.steady := rfl
@[simp] theorem State.givePecks_steady (ix : Nat) (ps : List Nat) (s : State) :
    (State.givePecks ix ps s).steady = s.steady := by
  unfold State.givePecks
  repeat' (first
    | with_reducible rfl | (intro _; intros) | split | (with_reducible refine fold_steady _ _ _ _ ?_ ?_)
    | simp only [notePecks_steady, onUnit_steady, allocPeck_steady])
@[simp] theorem State.dropSense_steady (ix : Nat) (cw : Option Nat) (s : State) :
    (State.dropSense ix cw s).steady = s.steady := by simp [State.dropSense]

/-! ## NvsOps -/

@[simp] theorem State.nvsStart_steady (s : State) : (State.nvsStart s).steady = s.steady := by
  unfold State.nvsStart
  repeat' (first | rfl | split | simp)
@[simp] theorem State.nvsAsk_steady (what : NvsWhat) (line : Nat) (data : BitVec 256) (s : State) :
    (State.nvsAsk what line data s).steady = s.steady := by simp [State.nvsAsk]
@[simp] theorem State.nvsMarker_steady (unit : Option Nat) (kind loc page : Nat) (s : State) :
    (State.nvsMarker unit kind loc page s).steady = s.steady := by simp [State.nvsMarker]
@[simp] theorem State.nvsMarkerAgain_steady (ix kind loc page : Nat) (s : State) :
    (State.nvsMarkerAgain ix kind loc page s).steady = s.steady := by simp [State.nvsMarkerAgain]
@[simp] theorem State.nvsHealth_steady (f : Health → Health) (s : State) :
    (State.nvsHealth f s).steady = s.steady := by simp [State.nvsHealth]
@[simp] theorem State.growWaster_steady (ix : Option Nat) (a : BitVec 64) (cause : Nat) (s : State) :
    (State.growWaster ix a cause s).steady = s.steady := by
  unfold State.growWaster
  repeat' (first | rfl | split | simp)
@[simp] theorem State.wantSnapshot_steady (s : State) : (State.wantSnapshot s).steady = s.steady := rfl
@[simp] theorem State.autoSnapshot_steady (s : State) : (State.autoSnapshot s).steady = s.steady := by
  unfold State.autoSnapshot
  split <;> rfl

/-! ## Units -/

@[simp] theorem State.enlist_steady (ix : Nat) (again : Bool) (s : State) :
    (State.enlist ix again s).steady = s.steady := by
  unfold State.enlist
  repeat' split
  all_goals rfl
@[simp] theorem State.prepare_steady (l : Nat) (s : State) : (State.prepare l s).steady = s.steady := by
  unfold State.prepare
  repeat' (first
    | with_reducible rfl | (intro _; intros) | split | (with_reducible refine fold_steady _ _ _ _ ?_ ?_)
    | simp only [nvsMarker_steady, onUnit_steady])
@[simp] theorem State.decideSuspend_steady (l : Nat) (s : State) : (State.decideSuspend l s).steady = s.steady := by
  unfold State.decideSuspend
  repeat' (first | rfl | split | simp)
@[simp] theorem State.placeMerge_steady (l : Nat) (s : State) : (State.placeMerge l s).steady = s.steady := rfl
@[simp] theorem State.latchResume_steady (l : Nat) (s : State) : (State.latchResume l s).steady = s.steady := rfl
@[simp] theorem State.headEvent_steady (l : Nat) (s : State) :
    (State.headEvent l s).steady = s.steady := by simp [State.headEvent]
@[simp] theorem State.withdraw_steady (l ix : Nat) (s : State) : (State.withdraw l ix s).steady = s.steady := rfl
@[simp] theorem State.unlist_steady (ix : Nat) (s : State) : (State.unlist ix s).steady = s.steady := by
  unfold State.unlist
  dsimp only
  repeat' split
  all_goals simp
@[simp] theorem State.link_steady (ix : Nat) (s : State) : (State.link ix s).steady = s.steady := by
  unfold State.link
  repeat' (first | rfl | split | simp)
@[simp] theorem State.linkAgain_steady (ix : Nat) (s : State) : (State.linkAgain ix s).steady = s.steady := by
  unfold State.linkAgain
  repeat' (first | rfl | split | simp)
@[simp] theorem State.patrolEnded_steady (u : LUnit) (status : Status) (s : State) :
    (State.patrolEnded u status s).steady = s.steady := by
  unfold State.patrolEnded
  try dsimp only [State.drawFree]
  repeat' (first | with_reducible rfl | split | (with_reducible refine State.onCal_steady' _ _ _ ?_ ?_))
@[simp] theorem State.endUnit_steady (ix : Nat) (st : UState) (status : Status) (failCw : Nat) (s : State) :
    (State.endUnit ix st status failCw s).steady = s.steady := by
  unfold State.endUnit
  repeat' (first
    | with_reducible rfl | split | (with_reducible refine State.onCal_steady' _ _ _ ?_ ?_)
    | simp only [patrolEnded_steady, prepare_steady, onUnit_steady, release_steady, dropSense_steady,
                 dropAsks_steady, unlist_steady, id_eq])
@[simp] theorem State.stopAfter_steady (ctx pos : Nat) (s : State) :
    (State.stopAfter ctx pos s).steady = s.steady := by
  unfold State.stopAfter
  repeat' (first
    | with_reducible rfl | (intro _; intros) | split | (with_reducible refine fold_steady _ _ _ _ ?_ ?_)
    | simp only [onCmd_steady, endUnit_steady])
@[simp] theorem State.finish_steady (ix : Nat) (status : Status) (failCw : Nat) (s : State) :
    (State.finish ix status failCw s).steady = s.steady := by
  unfold State.finish
  repeat' split
  all_goals simp
@[simp] theorem State.failWhole_steady (ctx : Nat) (status : Status) (s : State) :
    (State.failWhole ctx status s).steady = s.steady := by
  unfold State.failWhole
  repeat' (first
    | with_reducible rfl | (intro _; intros) | split | (with_reducible refine fold_steady _ _ _ _ ?_ ?_)
    | simp only [onCmd_steady, endUnit_steady])
@[simp] theorem State.takeUnit_steady (ix : Nat) (kind : UKind) (ctx : Option Nat) (pos : Nat) (addr :
    BitVec 64) (sel : BitVec 4) (s : State) : (State.takeUnit ix kind ctx pos addr sel s).steady = s.steady := by
  unfold State.takeUnit
  split <;> rfl

/-! ## Chain -/

@[simp] theorem State.putOff_steady (id : ChainId) (f : Failed) (s : State) :
    (State.putOff id f s).steady = s.steady := by simp [State.putOff]
@[simp] theorem State.loseAccess_steady (f : Failed) (s : State) : (State.loseAccess f s).steady = s.steady := rfl
@[simp] theorem State.chainRead_steady (id : ChainId) (what : RdWhat) (addr size : Nat) (s : State) :
    (State.chainRead id what addr size s).steady = s.steady := by
  unfold State.chainRead
  repeat' split
  all_goals simp
@[simp] theorem State.chainWrite_steady (id : ChainId) (what : WrWhat) (addr : Nat) (bytes : List Byte) (s : State) :
    (State.chainWrite id what addr bytes s).steady = s.steady := by
  unfold State.chainWrite
  repeat' split
  all_goals simp
@[simp] theorem State.writeLines_steady (id : ChainId) (what : Nat → WrWhat) (addr : Nat) (bs : List Byte) (s :
    State) : (State.writeLines id what addr bs s).steady = s.steady := foldl_steady _ _ (fun _ _ => by simp) _
@[simp] theorem State.writeRun_steady (id : ChainId) (what : WrWhat) (addr : Nat) (bs : List Byte) (s : State) :
    (State.writeRun id what addr bs s).steady = s.steady := by simp [State.writeRun]
@[simp] theorem State.readSeg_steady (id : ChainId) (s : State) : (State.readSeg id s).steady = s.steady := by
  unfold State.readSeg
  repeat' split
  all_goals simp
@[simp] theorem State.readLink_steady (id : ChainId) (a : Nat) (s : State) :
    (State.readLink id a s).steady = s.steady := by
  unfold State.readLink
  repeat' split
  all_goals simp
@[simp] theorem State.writeBacks_steady (id : ChainId) (s : State) : (State.writeBacks id s).steady = s.steady := by
  unfold State.writeBacks
  repeat' (first
    | with_reducible rfl | (intro _; intros) | split | (with_reducible refine State.onChain_steady' _ _ _ _ ?_ ?_)
    | (with_reducible refine fold_steady _ _ _ _ ?_ ?_) | simp
    | (simp [Chain.steady, Seg.steady, List.map_map, Function.comp_def, apply_ite]; done))
@[simp] theorem State.advance_steady (id : ChainId) (beyond : Bool) (s : State) :
    (State.advance id beyond s).steady = s.steady := by
  unfold State.advance
  repeat' split
  all_goals simp
@[simp] theorem State.dmaLess_steady (ix cw n : Nat) (s : State) : (State.dmaLess ix cw n s).steady = s.steady := by
  unfold State.dmaLess
  repeat' (first | rfl | split | simp)
@[simp] theorem State.dmaDones_steady (ctx : Nat) (s : State) : (State.dmaDones ctx s).steady = s.steady := by
  unfold State.dmaDones
  repeat' (first
    | with_reducible rfl | (intro _; intros) | split | (with_reducible refine fold_steady _ _ _ _ ?_ ?_) | simp)
@[simp] theorem Chain.account_steady (h : Chain) (b n : Nat) (m : Bool) : (h.account b n m).steady = h.steady := by
  simp only [Chain.account, Chain.steady, List.map_map]
  congr 8
  funext g
  simp only [Function.comp]
  split <;> rfl
@[simp] theorem State.pushOne_steady (id : ChainId) (s : State) (d : Deliver) :
    (State.pushOne id s d).steady = s.steady := by
  unfold State.pushOne
  split
  · rfl
  · extract_lets keep what
    have hk : ∀ d s, (keep d s).steady = s.steady := fun d s => State.onChain_steady _ _ _ (fun _ => rfl)
    split
    · exact State.onChain_steady _ _ _ (fun _ => rfl)
    · extract_lets p cut s1 s2
      have h1 : s1.steady = s.steady := State.onChain_steady _ _ _ (fun _ => rfl)
      have h2 : s2.steady = s.steady := by
        refine fold_steady _ _ _ _ h1 (fun t q => ?_)
        dsimp only
        have hw : ((((t.onChain id (fun h => h.account q.1 q.2.2.2 (!d.bytes.isEmpty))).writeRun id what q.2.1
            (slice d.bytes q.2.2.1 q.2.2.2)).onDma (fun m => { m with bytesWr := m.bytesWr + BitVec.ofNat 32 q.2.2.2 }))).steady =
            t.steady := by
          refine (State.onDma_steady _ _ rfl).trans ?_
          rw [State.writeRun_steady]
          exact State.onChain_steady _ _ _ (fun c => Chain.account_steady _ _ _ _)
        split
        · exact State.onChain_steady _ _ _ (fun c => Chain.account_steady _ _ _ _)
        · cases id
          · exact hw
          all_goals exact (State.onDma_steady _ _ rfl).trans hw
      split
      · split
        · rw [State.dmaLess_steady, h2]
        · exact (hk _ _).trans h2
      · exact h2
@[simp] theorem State.pullOne_steady (id : ChainId) (s : State) (d : Deliver) :
    (State.pullOne id s d).steady = s.steady := by
  unfold State.pullOne
  repeat' (first
    | with_reducible rfl | (intro _; intros) | split | (with_reducible refine State.onChain_steady' _ _ _ _ ?_ ?_)
    | (with_reducible refine fold_steady _ _ _ _ ?_ ?_) | simp)
@[simp] theorem State.pump_steady (id : ChainId) (s : State) : (State.pump id s).steady = s.steady := by
  unfold State.pump
  split
  · rfl
  · split
    · rfl
    · extract_lets src s1 beyond s2
      have h1 : s1.steady = s.steady := by
        refine fold_steady _ _ _ _ (State.onChain_steady _ _ _ (fun _ => rfl)) (fun t d => ?_)
        cases src
        · exact State.pushOne_steady _ _ _
        · exact State.pullOne_steady _ _ _
      have h2 : s2.steady = s.steady := by
        show (State.advance _ _ _ : State).steady = _
        rw [State.advance_steady, State.writeBacks_steady, h1]
      split
      · rw [State.dmaDones_steady, h2]
      · exact h2
@[simp] theorem State.deliver_steady (id : ChainId) (ix cw off len : Nat) (bytes : List Byte) (s : State) :
    (State.deliver id ix cw off len bytes s).steady = s.steady := by
  unfold State.deliver
  repeat' (first | rfl | split | simp)
@[simp] theorem State.want_steady (id : ChainId) (ix cw off len : Nat) (s : State) :
    (State.want id ix cw off len s).steady = s.steady := by simp [State.want]
@[simp] theorem State.endShort_steady (id : ChainId) (s : State) :
    (State.endShort id s).steady = s.steady := by simp [State.endShort]
@[simp] theorem State.closeChain_steady (ctx : Nat) (s : State) : (State.closeChain ctx s).steady = s.steady := by
  unfold State.closeChain
  repeat' split
  all_goals simp

/-! ## Rings -/

@[simp] theorem State.applyCq_steady (i : Nat) (e : BitVec 512) (s : State) :
    (State.applyCq i e s).steady = s.steady := by
  unfold State.applyCq
  split <;> rfl
@[simp] theorem State.applySq_steady (i : Nat) (e : BitVec 512) (s : State) :
    (State.applySq i e s).steady = s.steady := by
  unfold State.applySq
  split <;> rfl
@[simp] theorem State.readTable_steady (s : State) : (State.readTable s).steady = s.steady := by
  unfold State.readTable
  repeat' (first | (intro _; intros) | split | (with_reducible refine fold_steady _ _ _ _ ?_ ?_) | simp)
@[simp] theorem State.startCycle_steady (polls : List Nat) (all : Bool) (s : State) :
    (State.startCycle polls all s).steady = s.steady := by
  unfold State.startCycle
  split <;> rfl
@[simp] theorem State.startAgain_steady (s : State) : (State.startAgain s).steady = s.steady := by
  unfold State.startAgain
  split <;> simp
@[simp] theorem State.writeHifCfg_steady (data : Word) (s : State) :
    (State.writeHifCfg data s).steady = s.steady := by
  unfold State.writeHifCfg
  dsimp only
  split <;> simp
@[simp] theorem State.writeRingCmd_steady (data : Word) (s : State) :
    (State.writeRingCmd data s).steady = s.steady := by
  unfold State.writeRingCmd
  repeat' split
  all_goals rfl
@[simp] theorem State.endCycle_steady (s : State) : (State.endCycle s).steady = s.steady := by
  unfold State.endCycle
  repeat' split
  all_goals simp
@[simp] theorem State.reOwn_steady (id : ChainId) (s : State) : (State.reOwn id s).steady = s.steady := by
  unfold State.reOwn
  repeat' split
  all_goals simp
@[simp] theorem State.reRead_steady (sqs : List Nat) (s : State) : (State.reRead sqs s).steady = s.steady := by
  unfold State.reRead
  repeat' (first
    | with_reducible rfl | (intro _; intros) | split | (with_reducible refine State.onChain_steady' _ _ _ _ ?_ ?_)
    | (with_reducible refine fold_steady _ _ _ _ ?_ ?_) | simp)
@[simp] theorem State.summaryIn_steady (bits : BitVec 256) (s : State) :
    (State.summaryIn bits s).steady = s.steady := by
  unfold State.summaryIn
  repeat' (first
    | with_reducible rfl | (intro _; intros) | split | (with_reducible refine fold_steady _ _ _ _ ?_ ?_) | simp)
@[simp] theorem State.tailsIn_steady (b : Nat) (ts : List Word) (s : State) :
    (State.tailsIn b ts s).steady = s.steady := by
  unfold State.tailsIn
  repeat' (first
    | with_reducible rfl | (intro _; intros) | split | (with_reducible refine fold_steady _ _ _ _ ?_ ?_) | simp)
@[simp] theorem State.headsIn_steady (b : Nat) (hs : List Word) (s : State) :
    (State.headsIn b hs s).steady = s.steady := by
  unfold State.headsIn
  repeat' (first
    | with_reducible rfl | (intro _; intros) | split | (with_reducible refine fold_steady _ _ _ _ ?_ ?_) | simp)
@[simp] theorem State.abandonCycle_steady (s : State) :
    (State.abandonCycle s).steady = s.steady := by simp [State.abandonCycle]
@[simp] theorem State.overtake_steady (p : Nat → Bool) (s : State) : (State.overtake p s).steady = s.steady := rfl
@[simp] theorem State.writePredInv_steady (v : Word) (s : State) : (State.writePredInv v s).steady = s.steady := rfl
@[simp] theorem State.clearHifFault_steady (s : State) :
    (State.clearHifFault s).steady = s.steady := foldl_steady _ _ (fun _ _ => by simp) _
@[simp] theorem State.pollDue_steady (sqs : List Nat) (all : Bool) (s : State) :
    (State.pollDue sqs all s).steady = s.steady := by
  unfold State.pollDue
  split <;> simp
theorem State.fetched_steady {s t : State} {q : Nat} {k : Word} (h : s.fetched = some (q, k, t)) :
    t.steady = s.steady := by
  unfold State.fetched at h
  split at h
  · cases h
  · simp only [Option.map_eq_some_iff, Prod.mk.injEq] at h
    obtain ⟨⟨r, u⟩, h1, -, -, rfl⟩ := h
    exact (State.onHif_steady _ _).trans (State.popRead_steady h1)

/-! ## Link -/

@[simp] theorem State.onLink_steady (b : Nat) (f : Link → Link) (s : State) :
    (State.onLink b f s).steady = s.steady := rfl
@[simp] theorem State.sendOn_steady (b ch : Nat) (f : RFrame) (isNew : Bool) (s : State) :
    (State.sendOn b ch f isNew s).steady = s.steady := by
  unfold State.sendOn
  split <;> rfl
@[simp] theorem State.fillOne_steady (b : Nat) (s : State) (ch : Nat) : (State.fillOne b s ch).steady = s.steady := by
  unfold State.fillOne
  repeat' split
  all_goals simp
@[simp] theorem State.fillChannels_steady (b : Nat) (s : State) : (State.fillChannels b s).steady = s.steady := by
  unfold State.fillChannels
  repeat' (first
    | with_reducible rfl | (intro _; intros) | split | (with_reducible refine fold_steady _ _ _ _ ?_ ?_) | simp)
@[simp] theorem State.queueFrame_steady (b : Nat) (f : RFrame) (s : State) :
    (State.queueFrame b f s).steady = s.steady := by simp [State.queueFrame]
@[simp] theorem State.sendCommand_steady (b ix : Nat) (s : State) : (State.sendCommand b ix s).steady = s.steady := by
  unfold State.sendCommand
  repeat' (first | rfl | split | simp)
@[simp] theorem State.sendPage_steady (b ix : Nat) (u : LUnit) (l : Link) (s : State) :
    (State.sendPage b ix u l s).steady = s.steady := by
  unfold State.sendPage
  repeat' (first
    | with_reducible rfl | (intro _; intros) | split | (with_reducible refine fold_steady _ _ _ _ ?_ ?_)
    | simp only [onLink_steady, onUnit_steady, queueFrame_steady])
@[simp] theorem State.sendPackets_steady (b ix : Nat) (u : LUnit) (c : Cmd) (s : State) :
    (State.sendPackets b ix u c s).steady = s.steady := by
  unfold State.sendPackets
  repeat' (first
    | with_reducible rfl | (intro _; intros) | split | (with_reducible refine fold_steady _ _ _ _ ?_ ?_)
    | simp only [queueFrame_steady, onLink_steady, onUnit_steady])
@[simp] theorem State.sendData_steady (b ix : Nat) (s : State) : (State.sendData b ix s).steady = s.steady := by
  unfold State.sendData
  repeat' split
  all_goals simp
@[simp] theorem State.relayPump_steady (b : Nat) (s : State) : (State.relayPump b s).steady = s.steady := by
  unfold State.relayPump
  repeat' (first
    | with_reducible rfl | (intro _; intros) | split | (with_reducible refine fold_steady _ _ _ _ ?_ ?_) | simp)
@[simp] theorem State.relayQueue_steady (ix : Nat) (s : State) : (State.relayQueue ix s).steady = s.steady := by
  unfold State.relayQueue
  repeat' (first | rfl | split | simp)
@[simp] theorem State.bindBundle_steady (ix b : Nat) (s : State) : (State.bindBundle ix b s).steady = s.steady := by
  unfold State.bindBundle
  split <;> rfl
@[simp] theorem State.askCredit_steady (b : Nat) (s : State) : (State.askCredit b s).steady = s.steady := by
  unfold State.askCredit
  repeat' split
  all_goals simp
@[simp] theorem State.giveCredit_steady (b c p : Nat) (s : State) :
    (State.giveCredit b c p s).steady = s.steady := by simp [State.giveCredit]
@[simp] theorem State.packetAcked_steady (ix : Nat) (u : LUnit) (c : Cmd) (s : State) :
    (State.packetAcked ix u c s).steady = s.steady := by
  unfold State.packetAcked
  split <;> rfl
@[simp] theorem State.ackedFrame_steady (b : Nat) (target : Bool) (s : State) (f : RFrame) :
    (State.ackedFrame b target s f).steady = s.steady := by
  unfold State.ackedFrame
  repeat' (first
    | with_reducible rfl | split
    | simp only [dmaLess_steady, onLink_steady, onCmd_steady, onUnit_steady, packetAcked_steady])
@[simp] theorem State.ackUpTo_steady (b : Nat) (a : BitVec 12) (s : State) :
    (State.ackUpTo b a s).steady = s.steady := by
  unfold State.ackUpTo
  repeat' (first
    | with_reducible rfl | (intro _; intros) | split | (with_reducible refine fold_steady _ _ _ _ ?_ ?_) | simp)
@[simp] theorem State.replayFrames_steady (b : Nat) (s : State) : (State.replayFrames b s).steady = s.steady := by
  unfold State.replayFrames
  split <;> simp

/-! ## Deliver -/

@[simp] theorem State.streamRun_steady (ctx ix : Nat) (t : Stream) (buf p : Nat) (bs : List Byte) (s : State) :
    (State.streamRun ctx ix t buf p bs s).steady = s.steady := by
  unfold State.streamRun
  dsimp only
  split <;> simp
@[simp] theorem State.onStream_steady (ctx : Nat) (f : Stream → Stream) (s : State) :
    (State.onStream ctx f s).steady = s.steady := by simp [State.onStream]
@[simp] theorem State.streamFix_steady (ctx : Nat) (s : State) : (State.streamFix ctx s).steady = s.steady := by
  unfold State.streamFix
  repeat' (first
    | with_reducible rfl | (intro _; intros) | split | (with_reducible refine fold1_steady _ _ _ _ ?_ ?_)
    | simp only [onStream_steady, onUnit_steady])
@[simp] theorem State.streamPut_steady (ctx : Nat) (s : State) : (State.streamPut ctx s).steady = s.steady := by
  unfold State.streamPut
  repeat' (first
    | with_reducible rfl | (intro _; intros) | split | (with_reducible refine State.onChain_steady' _ _ _ _ ?_ ?_)
    | (with_reducible refine fold_steady _ _ _ _ ?_ ?_) | simp only [endUnit_steady, onUnit_steady, streamRun_steady])
@[simp] theorem State.streamControl_steady (ctx : Nat) (s : State) :
    (State.streamControl ctx s).steady = s.steady := by
  unfold State.streamControl
  split <;> simp
@[simp] theorem State.streamProd_steady (ctx : Nat) (s : State) : (State.streamProd ctx s).steady = s.steady := by
  unfold State.streamProd
  repeat' (first | rfl | split | simp)
@[simp] theorem State.streamEnd_steady (ctx : Nat) (s : State) : (State.streamEnd ctx s).steady = s.steady := by
  unfold State.streamEnd
  repeat' split
  all_goals simp
@[simp] theorem State.streamSettle_steady (ctx : Nat) (s : State) : (State.streamSettle ctx s).steady = s.steady := by
  unfold State.streamSettle
  repeat' split
  all_goals simp
@[simp] theorem State.originDone_steady (ctx : Nat) (s : State) : (State.originDone ctx s).steady = s.steady := by
  unfold State.originDone
  split
  · rfl
  · split
    · rfl
    · split
      · rfl
      · extract_lets r f s1 s2
        have h1 : s1.steady = s.steady := State.onCmd_steady _ _ _
        have h2 : s2.steady = s.steady := by
          show (ite _ _ _ : State).steady = _
          split
          · exact fold_steady _ _ _ _ h1 (fun t a => by split <;> simp [State.onUnit_steady])
          · exact h1
        clear_value s2
        repeat' split
        all_goals first
          | exact h2
          | exact (State.onLink_steady _ _ _).trans h2
          | exact (State.onCmd_steady _ _ _).trans h2
          | exact (State.queueFrame_steady _ _ _).trans ((State.onLink_steady _ _ _).trans h2)
@[simp] theorem State.calSettle_steady (ctx : Nat) (s : State) : (State.calSettle ctx s).steady = s.steady := by
  unfold State.calSettle
  repeat' split
  all_goals rfl
@[simp] theorem State.settle_steady (ctx : Nat) (s : State) :
    (State.settle ctx s).steady = s.steady := by simp [State.settle]
@[simp] theorem State.giveOut_steady (ctx ix cw off : Nat) (bytes : List Byte) (last : Bool) (s : State) :
    (State.giveOut ctx ix cw off bytes last s).steady = s.steady := by
  unfold State.giveOut
  repeat' (first | rfl | split | simp)
@[simp] theorem State.skipCws_steady (ctx ix : Nat) (cws : List Nat) (s : State) :
    (State.skipCws ctx ix cws s).steady = s.steady := by
  unfold State.skipCws
  repeat' (first
    | with_reducible rfl | (intro _; intros) | split | (with_reducible refine fold_steady _ _ _ _ ?_ ?_) | simp)
@[simp] theorem State.endUnder_steady (ix : Nat) (status : Status) (failCw : Nat) (s : State) :
    (State.endUnder ix status failCw s).steady = s.steady := by
  unfold State.endUnder
  repeat' split
  all_goals simp
@[simp] theorem State.pageEnd_steady (ix : Nat) (s : State) : (State.pageEnd ix s).steady = s.steady := by
  unfold State.pageEnd
  repeat' (first | rfl | split | simp)

/-! ## Commands -/

@[simp] theorem State.takeCmd_steady (ctx : List Nat) (mk : BitVec 16 → Cmd) (s : State) :
    (State.takeCmd ctx mk s).steady = s.steady := by
  unfold State.takeCmd
  repeat' (first
    | with_reducible rfl | (intro _; intros) | split | (with_reducible refine fold_steady _ _ _ _ ?_ ?_) | simp)
@[simp] theorem State.bindPredicate_steady (ctx : Nat) (s : State) :
    (State.bindPredicate ctx s).steady = s.steady := by
  unfold State.bindPredicate
  repeat' (first | rfl | split | simp)
@[simp] theorem State.tryLink_steady (ix : Nat) (s : State) : (State.tryLink ix s).steady = s.steady := by
  unfold State.tryLink
  repeat' split
  all_goals simp
@[simp] theorem State.progAsk_steady (ctx : Nat) (s : State) : (State.progAsk ctx s).steady = s.steady := by
  unfold State.progAsk
  repeat' split
  all_goals simp
@[simp] theorem State.startDma_steady (ix : Nat) (s : State) : (State.startDma ix s).steady = s.steady := by
  unfold State.startDma
  repeat' (first | rfl | split | simp)
@[simp] theorem State.rawRefill_steady (ix : Nat) (s : State) : (State.rawRefill ix s).steady = s.steady := by
  unfold State.rawRefill
  repeat' (first | rfl | split | simp)
@[simp] theorem State.bindRoute_steady (ix inst : Nat) (s : State) :
    (State.bindRoute ix inst s).steady = s.steady := by
  unfold State.bindRoute
  repeat' split
  all_goals simp
@[simp] theorem State.noteSources_steady (c : Cmd) (ix : Nat) (s : State) :
    (State.noteSources c ix s).steady = s.steady := by
  unfold State.noteSources
  split <;> rfl
@[simp] theorem State.beginAway_steady (ctx : Nat) (c : Cmd) (ix : Nat) (s : State) :
    (State.beginAway ctx c ix s).steady = s.steady := by
  unfold State.beginAway
  repeat' split
  all_goals simp
@[simp] theorem State.beginHere_steady (ctx : Nat) (c : Cmd) (ix : Nat) (s : State) :
    (State.beginHere ctx c ix s).steady = s.steady := by
  unfold State.beginHere
  repeat' (first
    | with_reducible rfl | split
    | simp only [progAsk_steady, tryLink_steady, noteSources_steady, askPecks_steady, onUnit_steady])
@[simp] theorem State.beginUnit_steady (ix : Nat) (s : State) : (State.beginUnit ix s).steady = s.steady := by
  unfold State.beginUnit
  repeat' (first | rfl | split | simp)
@[simp] theorem State.takeNext_steady (ctx ix : Nat) (s : State) : (State.takeNext ctx ix s).steady = s.steady := by
  unfold State.takeNext
  repeat' (first
    | with_reducible rfl | split | simp only [beginUnit_steady, onHif_steady, onCmd_steady, takeUnit_steady])
@[simp] theorem State.cancelUnit_steady (ix : Nat) (s : State) : (State.cancelUnit ix s).steady = s.steady := by
  unfold State.cancelUnit
  repeat' (first
    | with_reducible rfl | (intro _; intros) | split | (with_reducible refine State.onChain_steady' _ _ _ _ ?_ ?_)
    | simp only [skipCws_steady, onLink_steady, release_steady, onUnit_steady, endUnit_steady])
@[simp] theorem State.predBound_steady (ctx : Nat) (s : State) : (State.predBound ctx s).steady = s.steady := by
  unfold State.predBound
  repeat' (first
    | with_reducible rfl | (intro _; intros) | split | (with_reducible refine fold_steady _ _ _ _ ?_ ?_) | simp)
@[simp] theorem State.stopTaking_steady (ctx : Nat) (s : State) : (State.stopTaking ctx s).steady = s.steady := by
  unfold State.stopTaking
  repeat' (first | rfl | split | simp)

/-! ## Dma -/

@[simp] theorem State.peckFilled_steady (ix key : Nat) (c : Cmd) (s : State) :
    (State.peckFilled ix key c s).steady = s.steady := by
  unfold State.peckFilled
  split <;> rfl
@[simp] theorem State.storePart_steady (ix : Nat) (c : Cmd) (s : State) (q : Nat × Nat × List Byte) :
    (State.storePart ix c s q).steady = s.steady := by
  unfold State.storePart
  repeat' (first | split | simp)
@[simp] theorem State.storeSource_steady (ix : Nat) (c : Cmd) (off : Nat) (bs : List Byte) (s : State) :
    (State.storeSource ix c off bs s).steady = s.steady := foldl_steady _ _ (fun _ _ => by simp) _
@[simp] theorem State.sourceDone_steady (ix : Nat) (s : State) : (State.sourceDone ix s).steady = s.steady := by
  unfold State.sourceDone
  repeat' (first | rfl | split | simp)
@[simp] theorem State.recordLess_steady (ix off n : Nat) (s : State) :
    (State.recordLess ix off n s).steady = s.steady := by
  unfold State.recordLess
  repeat' (first
    | with_reducible rfl | (intro _; intros) | split | (with_reducible refine fold_steady _ _ _ _ ?_ ?_) | simp)
@[simp] theorem State.statusAcked_steady (id : ChainId) (addr : Nat) (s : State) :
    (State.statusAcked id addr s).steady = s.steady := by
  unfold State.statusAcked
  repeat' (first
    | with_reducible rfl | (intro _; intros) | split | (with_reducible refine State.onChain_steady' _ _ _ _ ?_ ?_)
    | simp | (simp [Chain.steady, Seg.steady, List.map_map, Function.comp_def, apply_ite]; done))
theorem State.failing_steady {id : ChainId} {w : Bool} {n : Nat} {s t : State} {f : Failed} (h :
    s.failing id w n = some (f, t)) : t.steady = s.steady := by
  unfold State.failing at h
  split at h
  · split at h
    · rename_i h2
      split at h
      · cases h; exact State.popWrite_steady h2
      · cases h
    · cases h
  · simp only [Option.map_eq_some_iff, Prod.mk.injEq] at h
    obtain ⟨⟨r, u⟩, h1, -, rfl⟩ := h
    exact State.popTag_steady h1
@[simp] theorem State.legacyGone_steady (s : State) : (State.legacyGone s).steady = s.steady := rfl
@[simp] theorem State.admitPage_steady (ctx ix : Nat) (s : State) : (State.admitPage ctx ix s).steady = s.steady := by
  unfold State.admitPage
  repeat' (first
    | with_reducible rfl | split
    | simp only [streamSettle_steady, onStream_steady, beginUnit_steady, takeUnit_steady, onUnit_steady,
                 chainRead_steady])
@[simp] theorem State.consIn_steady (ctx : Nat) (cons high low : BitVec 64) (s : State) :
    (State.consIn ctx cons high low s).steady = s.steady := by
  unfold State.consIn
  repeat' (first | rfl | split | simp)

/-! ## Replay -/

@[simp] theorem State.cacheTurns_steady (l : Nat) (s : State) : (State.cacheTurns l s).steady = s.steady := rfl
@[simp] theorem State.offDie_steady (ix : Nat) (s : State) : (State.offDie ix s).steady = s.steady := by
  unfold State.offDie
  split <;> simp
@[simp] theorem State.markReplayed_steady (ix : Nat) (s : State) : (State.markReplayed ix s).steady = s.steady := rfl
@[simp] theorem State.askReset_steady (l : Nat) (s : State) : (State.askReset l s).steady = s.steady := rfl
@[simp] theorem State.requeueWrite_steady (ix : Nat) (reset : Bool) (s : State) :
    (State.requeueWrite ix reset s).steady = s.steady := by
  unfold State.requeueWrite
  repeat' (first
    | with_reducible rfl | split
    | simp only [headEvent_steady, linkAgain_steady, onUnit_steady, askReset_steady, offDie_steady])
@[simp] theorem State.joinOp_steady (l ix : Nat) (u : LUnit) (s : State) :
    (State.joinOp l ix u s).steady = s.steady := rfl
@[simp] theorem State.pollAgain_steady (ix : Nat) (s : State) : (State.pollAgain ix s).steady = s.steady := by
  unfold State.pollAgain
  split <;> rfl
@[simp] theorem State.unknownEnd_steady (ix : Nat) (status : Status) (s : State) :
    (State.unknownEnd ix status s).steady = s.steady := by simp [State.unknownEnd]
@[simp] theorem State.dropGrant_steady (ch : Nat) (s : State) : (State.dropGrant ch s).steady = s.steady := rfl
@[simp] theorem State.packetLands_steady (u : LUnit) (e : Expect) (flags : Byte) (len : Nat) (data : List Byte) (s :
    State) : (State.packetLands u e flags len data s).steady = s.steady := by
  unfold State.packetLands
  split <;> rfl
@[simp] theorem State.cutPacket_steady (ch : Nat) (s : State) : (State.cutPacket ch s).steady = s.steady := by
  unfold State.cutPacket
  dsimp only
  repeat' split
  all_goals simp
@[simp] theorem State.beginRelearn_steady (ctx : Nat) (fetching : Bool) (s : State) :
    (State.beginRelearn ctx fetching s).steady = s.steady := by
  unfold State.beginRelearn
  repeat' (first | rfl | split | simp)
@[simp] theorem State.trainingEnded_steady (ok : Bool) (s : State) (ctx : Nat) :
    (State.trainingEnded ok s ctx).steady = s.steady := by
  unfold State.trainingEnded
  repeat' (first | rfl | split | simp)
@[simp] theorem State.leaveMask_steady (ch : Nat) (s : State) : (State.leaveMask ch s).steady = s.steady := by
  unfold State.leaveMask
  repeat' (first | rfl | split | simp)

/-! ## Arbiter -/

@[simp] theorem State.countPasses_steady (ch won : Nat) (as : List (Nat × Ask)) (s : State) :
    (State.countPasses ch won as s).steady = s.steady := by
  unfold State.countPasses
  repeat' (first
    | with_reducible rfl | (intro _; intros) | split | (with_reducible refine fold_steady _ _ _ _ ?_ ?_)
    | simp only [onUnit_steady, onChan_steady])

/-! ## Spm -/

@[simp] theorem State.askLine_steady (l : Nat) (pre : Bool) (s : State) :
    (State.askLine l pre s).steady = s.steady := rfl
@[simp] theorem State.prefetch_steady (s : State) : (State.prefetch s).steady = s.steady := by
  unfold State.prefetch
  repeat' split
  all_goals rfl
@[simp] theorem State.onOp_steady (f : SpmOp → SpmOp) (s : State) : (State.onOp f s).steady = s.steady := rfl
@[simp] theorem State.onDevice_steady (f : SpmOp → SpmOp) (s : State) : (State.onDevice f s).steady = s.steady := rfl
@[simp] theorem State.devStart_steady (t : SerialTx) (s : State) : (State.devStart t s).steady = s.steady := rfl
@[simp] theorem State.eraseGo_steady (s : State) : (State.eraseGo s).steady = s.steady := by
  unfold State.eraseGo
  repeat' split
  all_goals rfl
@[simp] theorem State.spmGo_steady (s : State) : (State.spmGo s).steady = s.steady := by
  unfold State.spmGo
  repeat' (first | split | simp)
@[simp] theorem State.syncCheck_steady (s : State) : (State.syncCheck s).steady = s.steady := by
  unfold State.syncCheck
  repeat' (first
    | with_reducible rfl | (intro _; intros) | split | (with_reducible refine fold_steady _ _ _ _ ?_ ?_)
    | simp only [settle_steady, onCmd_steady])
@[simp] theorem State.consolidate_steady (ctx : Nat) (s : State) : (State.consolidate ctx s).steady = s.steady := by
  unfold State.consolidate
  repeat' (first | rfl | split | simp)
@[simp] theorem State.spmNext_steady (s : State) : (State.spmNext s).steady = s.steady := by
  unfold State.spmNext
  repeat' (first
    | with_reducible rfl | (intro _; intros) | split | (with_reducible refine fold_steady _ _ _ _ ?_ ?_) | simp)
@[simp] theorem State.consolidated_steady (o : SpmOp) (s : State) : (State.consolidated o s).steady = s.steady := by
  unfold State.consolidated
  repeat' (first | rfl | split | simp)
@[simp] theorem State.clearRegion_steady (o : SpmOp) (s : State) : (State.clearRegion o s).steady = s.steady := by
  unfold State.clearRegion
  dsimp only
  exact ite_leaves (w := State.steady) (by simp) (fold_steady _ _ _ _ (by simp) (fun _ _ => by simp))
@[simp] theorem State.spmAdvance_steady (s : State) : (State.spmAdvance s).steady = s.steady := by
  unfold State.spmAdvance
  repeat' split
  all_goals simp
@[simp] theorem State.devDone_steady (s : State) : (State.devDone s).steady = s.steady := by
  unfold State.devDone
  repeat' split
  all_goals simp
@[simp] theorem State.spmEnd_steady (r : Nat) (s : State) :
    (State.spmEnd r s).steady = s.steady := by simp [State.spmEnd]
@[simp] theorem State.spmWrite_steady (data : Word) (o : Spm → SpmOp) (s : State) :
    (State.spmWrite data o s).steady = s.steady := by
  unfold State.spmWrite
  repeat' (first | split | simp)
@[simp] theorem State.consolidationFails_steady (o : SpmOp) (s : State) :
    (State.consolidationFails o s).steady = s.steady := by
  unfold State.consolidationFails
  repeat' (first | rfl | split | simp)
@[simp] theorem State.deviceSuspended_steady (s : State) : (State.deviceSuspended s).steady = s.steady := rfl

/-! ## Engine -/

@[simp] theorem State.onGrant_steady (l : Nat) (f : Grant → Grant) (s : State) :
    (State.onGrant l f s).steady = s.steady := rfl
@[simp] theorem State.noteSetup_steady (ch ce : Nat) (acts : List PinAct) (s : State) :
    (State.noteSetup ch ce acts s).steady = s.steady := rfl
@[simp] theorem State.restoreSdr_steady (l : Nat) (s : State) : (State.restoreSdr l s).steady = s.steady := by
  unfold State.restoreSdr
  dsimp only
  split <;> simp
@[simp] theorem State.dieReset_steady (l : Nat) (b : Byte) (s : State) :
    (State.dieReset l b s).steady = s.steady := by
  unfold State.dieReset
  repeat' (first
    | with_reducible rfl | (intro _; intros) | split | (with_reducible refine fold_steady _ _ _ _ ?_ ?_)
    | simp only [onLun_steady, onUnit_steady])
@[simp] theorem State.closeGrant_steady (l : Nat) (s : State) : (State.closeGrant l s).steady = s.steady := by
  unfold State.closeGrant
  repeat' (first | rfl | split | simp)
@[simp] theorem State.issue_steady (l : Nat) (a : Ask) (members : List Nat) (cache : Option Nat) (s : State) :
    (State.issue l a members cache s).steady = s.steady := by
  unfold State.issue
  repeat' (first
    | with_reducible rfl | (intro _; intros) | split | (with_reducible refine fold_steady _ _ _ _ ?_ ?_)
    | simp only [onLun_steady, onChan_steady, onUnit_steady])
@[simp] theorem State.clearAsk_steady (l : Nat) (d : DieType) (a : Ask) (s : State) :
    (State.clearAsk l d a s).steady = s.steady := by
  unfold State.clearAsk
  repeat' (first
    | (intro _; intros) | split | (with_reducible refine fold_steady _ _ _ _ ?_ ?_)
    | simp only [onLun_steady, onUnit_steady])
@[simp] theorem State.started_steady (l : Nat) (d : DieType) (cached : Bool) (s : State) (ix : Nat) :
    (State.started l d cached s ix).steady = s.steady := by
  unfold State.started
  repeat' (first | rfl | split | simp)
@[simp] theorem State.dropStale_steady (l : Nat) (s : State) : (State.dropStale l s).steady = s.steady := by
  unfold State.dropStale
  repeat' (first
    | with_reducible rfl | (intro _; intros) | split | (with_reducible refine fold_steady _ _ _ _ ?_ ?_) | simp)
@[simp] theorem State.offOp_steady (l ix : Nat) (s : State) :
    (State.offOp l ix s).steady = s.steady := by simp [State.offOp]
@[simp] theorem State.opPass_steady (l ix : Nat) (s : State) : (State.opPass l ix s).steady = s.steady := by
  unfold State.opPass
  repeat' (first
    | with_reducible rfl | split
    | simp only [endUnder_steady, nvsMarker_steady, onUnit_steady, offOp_steady, linkAgain_steady])
@[simp] theorem State.opFail_steady (l ix : Nat) (s : State) : (State.opFail l ix s).steady = s.steady := by
  unfold State.opFail
  repeat' (first
    | with_reducible rfl | split
    | simp only [endUnder_steady, nvsMarker_steady, onUnit_steady, growWaster_steady, offOp_steady])
@[simp] theorem State.suspended_steady (l : Nat) (d : DieType) (s : State) :
    (State.suspended l d s).steady = s.steady := by
  unfold State.suspended
  dsimp only
  split <;> simp
@[simp] theorem State.suspendEnd_steady (l : Nat) (d : DieType) (result : Nat) (s : State) :
    (State.suspendEnd l d result s).steady = s.steady := by
  unfold State.suspendEnd
  split <;> simp
@[simp] theorem State.resumed_steady (l : Nat) (d : DieType) (s : State) :
    (State.resumed l d s).steady = s.steady := by
  unfold State.resumed
  repeat' (first
    | with_reducible rfl | (intro _; intros) | split | (with_reducible refine fold_steady _ _ _ _ ?_ ?_)
    | simp only [onLun_steady, decideSuspend_steady, onUnit_steady])
@[simp] theorem State.dataEnd_steady (l : Nat) (d : DieType) (g : Grant) (result : Nat) (s : State) :
    (State.dataEnd l d g result s).steady = s.steady := by
  unfold State.dataEnd
  repeat' (first | split | simp)
@[simp] theorem State.dataInAborted_steady (l : Nat) (g : Grant) (s : State) :
    (State.dataInAborted l g s).steady = s.steady := by
  unfold State.dataInAborted
  repeat' (first
    | (intro _; intros) | split | (with_reducible refine fold_steady _ _ _ _ ?_ ?_)
    | simp only [onLun_steady, linkAgain_steady, onUnit_steady])
theorem State.eventActs_steady (e : Option Event) (f : State → State) (s : State)
    (h : (f s).steady = s.steady) : (State.eventActs e f s).steady = s.steady := by
  unfold State.eventActs
  split
  · exact State.stale_steady _
  · exact h

/-! ## Ladder -/

@[simp] theorem State.sourceRead_steady (ix : Nat) (s : State) : (State.sourceRead ix s).steady = s.steady := by
  unfold State.sourceRead
  repeat' (first | rfl | split | simp)
@[simp] theorem State.readEnd_steady (ix : Nat) (s : State) : (State.readEnd ix s).steady = s.steady := by
  unfold State.readEnd
  repeat' split
  all_goals simp
@[simp] theorem State.cwFails_steady (ix cw : Nat) (st : Status) (s : State) :
    (State.cwFails ix cw st s).steady = s.steady := by
  unfold State.cwFails
  repeat' (first | rfl | split | simp)
@[simp] theorem State.climb_steady (ix : Nat) (s : State) : (State.climb ix s).steady = s.steady := by
  unfold State.climb
  repeat' (first | rfl | split | simp)
@[simp] theorem State.askSense_steady (ix : Nat) (s : State) : (State.askSense ix s).steady = s.steady := by
  unfold State.askSense
  split <;> rfl
@[simp] theorem State.stepDone_steady (ix : Nat) (s : State) : (State.stepDone ix s).steady = s.steady := by
  unfold State.stepDone
  repeat' (first
    | with_reducible rfl | (intro _; intros) | split | (with_reducible refine fold_steady _ _ _ _ ?_ ?_)
    | simp only [readEnd_steady, cwFails_steady, endUnder_steady, climb_steady, askSense_steady, onUnit_steady,
                 onLun_steady])
@[simp] theorem State.unhold_steady (s : State) (ix : Nat) : (State.unhold s ix).steady = s.steady := by
  unfold State.unhold
  repeat' split
  all_goals simp
@[simp] theorem State.unholdAll_steady (ctx : Nat) (s : State) : (State.unholdAll ctx s).steady = s.steady := by
  unfold State.unholdAll
  repeat' (first
    | with_reducible rfl | (intro _; intros) | split | (with_reducible refine fold_steady _ _ _ _ ?_ ?_) | simp)
@[simp] theorem State.toLane_steady (ix cw : Nat) (soft : Bool) (s : State) :
    (State.toLane ix cw soft s).steady = s.steady := by
  unfold State.toLane
  split <;> simp
@[simp] theorem State.takeSample_steady (ix : Nat) (s : State) : (State.takeSample ix s).steady = s.steady := by
  unfold State.takeSample
  repeat' (first | rfl | split | simp)

/-! ## Intake -/

@[simp] theorem State.allArrived_steady (ix : Nat) (s : State) : (State.allArrived ix s).steady = s.steady := by
  unfold State.allArrived
  repeat' (first
    | with_reducible rfl | (intro _; intros) | split | (with_reducible refine fold_steady _ _ _ _ ?_ ?_)
    | simp only [readEnd_steady, onUnit_steady, cwFails_steady, stepDone_steady, toLane_steady])
@[simp] theorem State.senseArrived_steady (ix : Nat) (s : State) : (State.senseArrived ix s).steady = s.steady := by
  unfold State.senseArrived
  repeat' (first
    | with_reducible rfl | (intro _; intros) | split | (with_reducible refine fold_steady _ _ _ _ ?_ ?_)
    | simp only [linkAgain_steady, onUnit_steady, toLane_steady])
@[simp] theorem State.codewordIn_steady (ix r zeros : Nat) (s : State) :
    (State.codewordIn ix r zeros s).steady = s.steady := by
  unfold State.codewordIn
  repeat' (first
    | with_reducible rfl | split | (with_reducible refine State.onDec_steady' _ _ _ ?_ ?_)
    | simp only [senseArrived_steady, onUnit_steady, allArrived_steady, takeSample_steady, toLane_steady])
@[simp] theorem State.rawIn_steady (ix n : Nat) (bytes : List Byte) (s : State) :
    (State.rawIn ix n bytes s).steady = s.steady := by
  unfold State.rawIn
  repeat' split
  all_goals simp
@[simp] theorem State.cutEgress_steady (ch : Nat) (s : State) : (State.cutEgress ch s).steady = s.steady := by
  unfold State.cutEgress
  repeat' (first | rfl | split | simp)
@[simp] theorem State.serve_steady (c : Nat) (r : AllocReq) (pecks : List Nat) (s : State) :
    (State.serve c r pecks s).steady = s.steady := by
  unfold State.serve
  repeat' (first
    | with_reducible rfl | (intro _; intros) | split | (with_reducible refine State.onPool_steady' _ _ _ ?_ ?_)
    | (with_reducible refine fold_steady _ _ _ _ ?_ ?_) | simp)

/-! ## Decoders -/

@[simp] theorem State.cwPasses_steady (ix cw n : Nat) (data : List Byte) (s : State) :
    (State.cwPasses ix cw n data s).steady = s.steady := by
  unfold State.cwPasses
  repeat' (first
    | with_reducible rfl | split | (with_reducible refine State.onDec_steady' _ _ _ ?_ ?_)
    | (with_reducible refine State.onCal_steady' _ _ _ ?_ ?_)
    | simp only [cwFails_steady, onPeck_steady, dropSense_steady, onUnit_steady, giveOut_steady])
@[simp] theorem State.addIters_steady (ix : Nat) (gen : BitVec 16) (n : Nat) (s : State) :
    (State.addIters ix gen n s).steady = s.steady := rfl
@[simp] theorem State.cwLimit_steady (ix cw n : Nat) (s : State) : (State.cwLimit ix cw n s).steady = s.steady := by
  unfold State.cwLimit
  repeat' split
  all_goals rfl
@[simp] theorem State.decideScan_steady (ix : Nat) (u : LUnit) (c : Cmd) (st : Status) (s : State) :
    (State.decideScan ix u c st s).steady = s.steady := by
  unfold State.decideScan
  repeat' (first | split | simp only [endUnder_steady, offDie_steady, onUnit_steady, onHif_steady, settle_steady])

/-! ## Cal -/

@[simp] theorem State.calConverged_steady (ctx : Nat) (s : State) : (State.calConverged ctx s).steady = s.steady := by
  unfold State.calConverged
  repeat' (first
    | with_reducible rfl | (intro _; intros) | split | (with_reducible refine fold_steady _ _ _ _ ?_ ?_)
    | simp only [autoSnapshot_steady, settle_steady, onHif_steady, onCmd_steady, endUnit_steady])
@[simp] theorem State.internalSample_steady (ctx : Nat) (p : Sample) (e : Int) (s : State) :
    (State.internalSample ctx p e s).steady = s.steady := by
  unfold State.internalSample
  repeat' (first | rfl | split | simp)
@[simp] theorem State.urgentCheck_steady (l : Nat) (s : State) : (State.urgentCheck l s).steady = s.steady := by
  unfold State.urgentCheck
  dsimp only
  split <;> simp
@[simp] theorem State.crossing_steady (l : Nat) (hot : Bool) (s : State) :
    (State.crossing l hot s).steady = s.steady := by simp [State.crossing]
@[simp] theorem State.beginRemote_steady (ctx : Nat) (s : State) : (State.beginRemote ctx s).steady = s.steady := rfl
@[simp] theorem State.onPatrol_steady (l : Nat) (f : Patrol → Patrol) (s : State) :
    (State.onPatrol l f s).steady = s.steady := rfl
@[simp] theorem State.setPeriod_steady (l : Nat) (n : Nat) (s : State) :
    (State.setPeriod l n s).steady = s.steady := by
  unfold State.setPeriod
  repeat' (first | split | simp)

/-! ## Cq -/

@[simp] theorem State.writeCqe_steady (ctx : Nat) (c : Cmd) (s : State) :
    (State.writeCqe ctx c s).steady = s.steady := by
  unfold State.writeCqe
  repeat' (first
    | with_reducible rfl | (intro _; intros) | split | (with_reducible refine fold_steady _ _ _ _ ?_ ?_)
    | simp only [onSq_steady, hdpWrite_steady, onCq_steady, onCmd_steady, onUnit_steady, release_steady])

/-! ## Nvs -/

@[simp] theorem State.markUnit_steady (unit : Option Nat) (kind : Nat) (s : State) :
    (State.markUnit unit kind s).steady = s.steady := by
  unfold State.markUnit
  repeat' (first | rfl | split | simp)
@[simp] theorem State.markDurable_steady (unit : Option Nat) (kind : Nat) (r : NvsReq) (s : State) :
    (State.markDurable unit kind r s).steady = s.steady := by
  unfold State.markDurable
  dsimp only
  split <;> simp
@[simp] theorem State.snapDurable_steady (k : Nat) (r : NvsReq) (s : State) :
    (State.snapDurable k r s).steady = s.steady := by
  unfold State.snapDurable
  repeat' (first
    | with_reducible rfl | (intro _; intros) | split | (with_reducible refine fold_steady _ _ _ _ ?_ ?_)
    | simp only [nvsAsk_steady, onNvs_steady, onCmd_steady])
@[simp] theorem State.disturb_steady (r : NvsReq) (s : State) : (State.disturb r s).steady = s.steady := by
  unfold State.disturb
  try dsimp only [State.drawFree]
  repeat' (first
    | with_reducible rfl | (intro _; intros) | split | (with_reducible refine fold_steady _ _ _ _ ?_ ?_) | simp
    | (simp; done))
@[simp] theorem State.scanEnds_steady (s : State) : (State.scanEnds s).steady = s.steady := by
  unfold State.scanEnds
  split <;> rfl
@[simp] theorem State.nvsDurable_steady (r : NvsReq) (s : State) : (State.nvsDurable r s).steady = s.steady := by
  unfold State.nvsDurable
  repeat' (first | split | simp)
@[simp] theorem State.nvsFailed_steady (r : NvsReq) (s : State) : (State.nvsFailed r s).steady = s.steady := by
  unfold State.nvsFailed
  repeat' (first | split | simp)

/-! ## Setup -/

@[simp] theorem State.addSetup_steady (ch ce : Nat) (acts : List PinAct) (s : State) :
    (State.addSetup ch ce acts s).steady = s.steady := rfl

/-! ## Startup -/

@[simp] theorem State.askReerase_steady (secs : List Nat) (s : State) :
    (State.askReerase secs s).steady = s.steady := foldl_steady _ _ (fun _ _ => by simp) _
@[simp] theorem State.bootFails_steady (s : State) :
    (State.bootFails s).steady = s.steady := by simp [State.bootFails]
@[simp] theorem State.chooseRecord_steady (s : State) : (State.chooseRecord s).steady = s.steady := by
  unfold State.chooseRecord
  repeat' (first | rfl | split | simp)
@[simp] theorem State.setPers_steady (s : State) :
    (State.setPers s).steady = s.steady := foldl_steady _ _ (fun _ _ => by simp) _
@[simp] theorem State.loadStore_steady (slot : Bool) (m : SparseBytes) (s : State) :
    (State.loadStore slot m s).steady = s.steady := by simp [State.loadStore]
@[simp] theorem State.loadTimers_steady (m : SparseBytes) (s : State) : (State.loadTimers m s).steady = s.steady := by
  unfold State.loadTimers
  split
  · exact Eq.refl _
  · simp only [State.onTime_steady, State.onPwr_steady]
@[simp] theorem State.loadIdentity_steady (slot : Bool) (m : SparseBytes) (s : State) :
    (State.loadIdentity slot m s).steady = s.steady := by
  unfold State.loadIdentity
  simp only [State.onSys_steady, State.onSpm_steady]
@[simp] theorem State.loadImage_steady (slot : Bool) (m : SparseBytes) (s : State) :
    (State.loadImage slot m s).steady = s.steady := by
  unfold State.loadImage
  rw [State.onSpm_steady, State.loadIdentity_steady, State.loadTimers_steady, State.loadStore_steady, State.onRly_steady, State.setPers_steady]
  exact (foldl_steady _ _ (fun _ _ => State.onLun_steady _ _ _) _).trans (State.onImg_steady _ _)
@[simp] theorem State.slotFails_steady (s : State) : (State.slotFails s).steady = s.steady := by
  unfold State.slotFails
  split <;> simp
@[simp] theorem State.takeSlot_steady (slot : Bool) (image : SparseBytes) (s : State) :
    (State.takeSlot slot image s).steady = s.steady := by
  unfold State.takeSlot
  dsimp only
  split <;> simp
@[simp] theorem State.checkDone_steady (lun : Nat) (good ext : Bool) (s : State) :
    (State.checkDone lun good ext s).steady = s.steady := rfl
@[simp] theorem State.placeTemps_steady (s : State) : (State.placeTemps s).steady = s.steady := by
  unfold State.placeTemps
  repeat' (first
    | with_reducible rfl | (intro _; intros) | split | (with_reducible refine fold_steady _ _ _ _ ?_ ?_) | simp)
@[simp] theorem State.placePatrol_steady (l : Nat) (s : State) : (State.placePatrol l s).steady = s.steady := by
  unfold State.placePatrol
  split <;> rfl
@[simp] theorem State.becomeReady_steady (s : State) : (State.becomeReady s).steady = s.steady := by
  unfold State.becomeReady
  repeat' (first | (intro _; intros) | split | (with_reducible refine fold_steady _ _ _ _ ?_ ?_) | simp)

/-! ## Relay -/

@[simp] theorem State.openLink_steady (b : Nat) (s : State) : (State.openLink b s).steady = s.steady := by
  unfold State.openLink
  repeat' split
  all_goals simp
@[simp] theorem State.linkTrained_steady (ch : Nat) (s : State) : (State.linkTrained ch s).steady = s.steady := by
  unfold State.linkTrained
  repeat' split
  all_goals simp
@[simp] theorem State.linkEvent_steady (b : Nat) (s : State) : (State.linkEvent b s).steady = s.steady := by
  unfold State.linkEvent
  dsimp only
  split <;> simp
@[simp] theorem State.park_steady (ix : Nat) (s : State) : (State.park ix s).steady = s.steady := rfl
@[simp] theorem State.retract_steady (ctx ix : Nat) (s : State) : (State.retract ctx ix s).steady = s.steady := by
  unfold State.retract
  repeat' (first
    | with_reducible rfl | split
    | simp only [originDone_steady, onLink_steady, onUnit_steady, release_steady, endUnit_steady, onCmd_steady])
@[simp] theorem State.discardData_steady (ix : Nat) (o : Origin) (s : State) :
    (State.discardData ix o s).steady = s.steady := by
  unfold State.discardData
  repeat' (first | (intro _; intros) | split | (with_reducible refine fold_steady _ _ _ _ ?_ ?_) | simp)
@[simp] theorem State.loseData_steady (s : State) (ctx ix loss : Nat) :
    (State.loseData s ctx ix loss).steady = s.steady := by
  unfold State.loseData
  repeat' (first | rfl | split | simp)
@[simp] theorem State.ownerSafe_steady (s : State) (ctx : Nat) : (State.ownerSafe s ctx).steady = s.steady := by
  unfold State.ownerSafe
  repeat' split
  all_goals simp
@[simp] theorem State.linkDown_steady (b : Nat) (s : State) : (State.linkDown b s).steady = s.steady := by
  unfold State.linkDown
  repeat' (first
    | with_reducible rfl | (intro _; intros) | split | (with_reducible refine fold_steady _ _ _ _ ?_ ?_) | simp)
@[simp] theorem State.relayLost_steady (s : State) (ix : Nat) :
    (State.relayLost s ix).steady = s.steady := by simp [State.relayLost]
@[simp] theorem State.loseUnits_steady (b : Nat) (s : State) :
    (State.loseUnits b s).steady = s.steady := foldl_steady _ _ (fun _ _ => by simp) _
@[simp] theorem State.dropSession_steady (b : Nat) (s : State) : (State.dropSession b s).steady = s.steady := by
  unfold State.dropSession
  repeat' (first
    | with_reducible rfl | (intro _; intros) | split | (with_reducible refine fold_steady _ _ _ _ ?_ ?_)
    | simp only [release_steady, onLink_steady, onCmd_steady])
@[simp] theorem State.sendLog_steady (b : Nat) (s : State) : (State.sendLog b s).steady = s.steady := by
  unfold State.sendLog
  repeat' split
  all_goals rfl
@[simp] theorem State.unpark_steady (s : State) (ix : Nat) : (State.unpark s ix).steady = s.steady := by
  unfold State.unpark
  repeat' (first | rfl | split | simp)
@[simp] theorem State.linkUp_steady (b : Nat) (f : RFrame) (s : State) : (State.linkUp b f s).steady = s.steady := by
  unfold State.linkUp
  repeat' (first
    | with_reducible rfl | (intro _; intros) | split | (with_reducible refine fold_steady _ _ _ _ ?_ ?_) | simp)
@[simp] theorem State.rxGood_steady (b ch : Nat) (f : RFrame) (s : State) :
    (State.rxGood b ch f s).steady = s.steady := by
  unfold State.rxGood
  repeat' (first
    | with_reducible rfl | (intro _; intros) | split | (with_reducible refine fold_steady _ _ _ _ ?_ ?_) | simp)
@[simp] theorem State.ownOnward_steady (ctx ix : Nat) (c : Cmd) (hops : Nat) (s : State) :
    (State.ownOnward ctx ix c hops s).steady = s.steady := by
  unfold State.ownOnward
  repeat' (first
    | split
    | simp only [originDone_steady, onCmd_steady, onUnit_steady, bindBundle_steady, takeUnit_steady,
                 relayQueue_steady])
@[simp] theorem State.fillPeck_steady (p ix : Nat) (u : LUnit) (f : RFrame) (s : State) :
    (State.fillPeck p ix u f s).steady = s.steady := rfl
@[simp] theorem State.rawRoom_steady (ix : Nat) (u : LUnit) (s : State) :
    (State.rawRoom ix u s).steady = s.steady := by
  unfold State.rawRoom
  repeat' split
  all_goals rfl
@[simp] theorem State.ownerData_steady (b : Nat) (f : RFrame) (held : Option Nat) (s : State) :
    (State.ownerData b f held s).steady = s.steady := by
  unfold State.ownerData
  repeat' (first
    | with_reducible rfl | split
    | simp only [onLink_steady, relayPump_steady, askCredit_steady, onUnit_steady, rawRoom_steady, fillPeck_steady,
                 relayQueue_steady, headEvent_steady, tryLink_steady])
@[simp] theorem State.upstreamData_steady (f : RFrame) (s : State) : (State.upstreamData f s).steady = s.steady := by
  unfold State.upstreamData
  repeat' (first
    | with_reducible rfl | split
    | simp only [stale_steady, settle_steady, giveOut_steady, onUnit_steady, fillPeck_steady])
@[simp] theorem State.holdAhead_steady (b : Nat) (f : RFrame) (s : State) :
    (State.holdAhead b f s).steady = s.steady := by
  unfold State.holdAhead
  repeat' (first | rfl | split | simp)
@[simp] theorem State.startPull_steady (b ch : Nat) (s : State) : (State.startPull b ch s).steady = s.steady := rfl

/-! ## Train -/

@[simp] theorem State.setInterface_steady (k c e : Nat) (s : State) :
    (State.setInterface k c e s).steady = s.steady := rfl
@[simp] theorem State.calibrateZq_steady (k c e : Nat) (s : State) :
    (State.calibrateZq k c e s).steady = s.steady := by
  unfold State.calibrateZq
  split <;> rfl
theorem State.eachCounted_steady (k : Nat) (f : Nat → Nat → State → State) (s : State)
    (h : ∀ c e s, (f c e s).steady = s.steady) : (s.eachCounted k f).steady = s.steady :=
  foldl_steady _ _ (fun s c => foldl_steady _ _ (fun s e => h c e s) s) s
@[simp] theorem State.setUpPair_steady (k : Nat) (s : State) :
    (State.setUpPair k s).steady = s.steady := by
  unfold State.setUpPair
  refine (State.eachCounted_steady _ _ _ (fun _ _ _ => State.calibrateZq_steady _ _ _ _)).trans
    ((State.eachCounted_steady _ _ _ (fun _ _ _ => State.setInterface_steady _ _ _ _)).trans ?_)
  split
  · rfl
  · exact (foldl_steady _ _ (fun _ _ => State.onLun_steady _ _ _) _).trans (State.onPair_steady _ _ _)
@[simp] theorem State.targetReturns_steady (ch : Nat) (s : State) : (State.targetReturns ch s).steady = s.steady := by
  unfold State.targetReturns
  split <;> rfl

/-! ## Psp -/

@[simp] theorem State.pspEvent_steady (was : Bool) (f : Psp → Psp) (s : State) :
    (State.pspEvent was f s).steady = s.steady := by
  unfold State.pspEvent
  repeat' (first | split | simp)
@[simp] theorem State.pspSource_steady (s : State) : (State.pspSource s).steady = s.steady := by
  unfold State.pspSource
  dsimp only
  split <;> simp
@[simp] theorem State.takeEpoch_steady (e : Word) (s : State) :
    (State.takeEpoch e s).steady = s.steady := by simp [State.takeEpoch]
@[simp] theorem State.pspHear_steady (f : PFrame) (s : State) : (State.pspHear f s).steady = s.steady := by
  unfold State.pspHear
  repeat' (first | rfl | split | simp)

end Sys2Proof.Machine
end

