-- ==== Sys2Proof/Tests/Slice0.lean ====
section
/-! SUPPORT. Tests of one sitting: for each check of `Instr.wf` a command it refuses, and for each statement of
Certificates/Slice0/Obligations.lean that has hypotheses a state and operands that meet them together, case by case. -/

open Sys2Proof Sys2Proof.Machine

set_option Elab.async false

namespace Sys2Proof.Tests

/-- A block out of reset. -/
def up : State := { State.reset with sys := { Sys.reset with coldLow := false, started := true, instance_ := 5 } }

/-- A block in service: READY, the rings enabled, the image in service, 10 ms after its start. -/
def run : State :=
  { up with
    sys := { up.sys with discovered := true, wasters := true, restored := true },
    hif := { Hif.reset with ready := true, cfg := 0xD },
    time := { Time.reset with ns := 10000000, edges := 1000 },
    spm := { Spm.reset with booted := true, xipReady := true },
    nvs := { Nvs.reset with scanned := true } }

/-- In service and idle since its start, with every power state enabled. -/
def idleRun : State := run.onPwr fun p => { p with idleSince := some 0, cfg := 0x1E, idleMark := run.workMark }

/-- Down in a power state; in Ember and Cold the timers of the ladder have passed. -/
def asleep (st : PowerState) : State :=
  (idleRun.onPwr fun p => { p with st := st }).onTime fun t => { t with aon := 5000 }

/-- A flash address of this instance. -/
def fa (lun plane block page : Nat) : BitVec 64 :=
  BitVec.ofNat 64 (5 * 2 ^ 53 + lun * 2 ^ 44 + plane * 2 ^ 42 + block * 2 ^ 26 + page * 2 ^ 14)

/-- A die type of two planes with every optional operation. -/
def aDie : DieType :=
  { id := [1, 2, 3, 4, 5, 6, 7, 8], idMask := [255, 255, 0, 0, 0, 0, 0, 0], planes := 2, cell := 7, pages := 1152, slcPages := 384,
    blocks := 1000, rowCycles := 3, lunBit := 7, ifCaps := 7, extFa := 2, extVal := 9, tempFa := 0xE7, tTurn := 8, caps := 0xFFFF,
    trFirst := 20, trPoll := 5, tprogFirst := 300, tprogPoll := 20, tslcFirst := 100, tfoldCFirst := 300, tfoldFFirst := 600,
    tbersFirst := 3000, tbersPoll := 100, runMinPgm := 50, runMinErs := 20, suspWin := 100, tSusp := 30, suspMaxPgm := 2,
    suspMaxErs := 4, suspReads := 8, entry := List.range 24, readLevels := 0, refireBase := 0, refireSteps := 15, initFeat := [], reservedOk := true }

/-- The unit entry of a queued one-plane read. -/
def aUnit : LUnit := { LUnit.fresh .read (some 0) 1 0 0 (fa 3 0 7 2) 3 with st := .queued, pend := 3 }

/-- A command with the entries 0–4. -/
def aCmd (op : Op) (raw : BitVec 512) : Cmd := Cmd.fresh op raw 0 0 0 1 [0, 1, 2, 3, 4] 0 0 0

/-- A state with one unit entry more. -/
def unitAt (ix : Nat) (u : LUnit) (s : State) : State := s.onLdg (fun l => { l with units := SMap.set l.units ix u })

/-- A state with one command more. -/
def cmdAt (ctx : Nat) (c : Cmd) (s : State) : State := s.onLdg (fun l => { l with cmds := SMap.set l.cmds ctx c })

/-- A read of 64 bytes. -/
def rdOf (w : RdWhat) (addr : Nat) : HdpRd := { what := w, tag := 0, seq := 0, addr := addr, size := 64, coherent := true, urg := 0 }

/-- A write under an ID. -/
def wrOf (w : WrWhat) (id : Nat) (bytes : List Byte) : HdpWr :=
  { what := w, seq := 0, addr := 0x1000, bytes := bytes, id := id, coherent := true, urg := 0 }

/-- A state with a read outstanding behind those there are. -/
def reading (w : RdWhat) (addr : Nat) (s : State) : State := s.onHdp fun h => { h with reads := h.reads ++ [rdOf w addr] }

/-- A state with a write outstanding behind those there are. -/
def writing (w : WrWhat) (id : Nat) (bytes : List Byte) (s : State) : State :=
  s.onHdp fun h => { h with writes := h.writes ++ [wrOf w id bytes] }

/-- The state after the read of HDP that answers `p` has returned. -/
def afterRead (p : HdpRd → Bool) (s : State) : State := (s.popRead p).elim s Prod.snd

/-- The state after the oldest write of an ID is acknowledged. -/
def afterWrite (id : Nat) (s : State) : State := (s.popWrite id).elim s Prod.snd

/-- The state after the SQ entry asked for has returned. -/
def afterFetch (s : State) : State := s.fetched.elim s (fun q => q.2.2)

/-- A state with an SQ enabled. -/
def sqAt (q : Nat) (head tail : Word) (s : State) : State :=
  s.onSq q fun _ => { Sq.off with en := true, base := 0x10000, log2 := 4, bind := q, head := head, tail := tail }

/-- A state with a CQ enabled. -/
def cqAt (q : Nat) (head tail : Word) (s : State) : State :=
  s.onCq q fun _ => { Cq.off with en := true, base := 0x20000, log2 := 4, notify := 3, head := head, tail := tail }

/-- A ring-table entry that enables both rings of a pair. -/
def tableEntry (bind : Nat) : BitVec 512 :=
  BitVec.ofNat 512 (0x10000 + 0x20000 * 2 ^ 64 + 8 * 2 ^ 128 + 8 * 2 ^ 136 + bind * 2 ^ 144 + 3 * 2 ^ 152)

/-- An SQ entry of the first lap: OP, FLASH_ADDR, COUNT and the rest. -/
def sqe (op : Nat) (addr : BitVec 64) (count more : Nat) : BitVec 512 :=
  BitVec.ofNat 512 (op + addr.toNat * 2 ^ 64 + count * 2 ^ 192 + 2 ^ 511 + more)

/-- A READ entry of LUN 3, codewords 0 and 1. -/
def readE : BitVec 512 := sqe 1 (fa 3 0 7 2) 1 (0x4000 * 2 ^ 128 + 3 * 2 ^ 256)

/-- A READ_SCAN entry of LUN 3 under predicate 9. -/
def scanE : BitVec 512 := sqe 2 (fa 3 0 7 2) 1 (0x4000 * 2 ^ 128 + 9 * 2 ^ 256 + 15 * 2 ^ 272)

/-- A PROGRAM entry of LUN 3. -/
def progE : BitVec 512 := sqe 16 (fa 3 0 7 2) 1 (0x4000 * 2 ^ 128)

/-- A state that has asked for the entry at the head of SQ 3. -/
def fetching (s : State) : State :=
  reading (.sq 3) 0x10000 ((sqAt 3 0 2 s).onHif fun h => { h with fetch := some (3, 0) })

/-- A state with the chain of a command. -/
def chainAt (ctx : Nat) (h : Chain) (s : State) : State := s.onDma (fun d => { d with chains := SMap.set d.chains ctx h })

/-- A segment of 64 bytes at 0x4000, its buffer at 0x8000. -/
def aSeg : Seg := { addr := 0x4000, link := 0, buf := 0x8000, len := 64, flags := 2, base := 0, moved := 0, acc := 0, back := 0 }

/-- A stream that knows its counters, with one page left. -/
def aStream : Stream :=
  { wrap := 20, ctrl := 0x5000, prod := 0, cons := 0, high := 0, low := 0, fixed := 0, known := true, paused := false,
    confirming := false, ended := false, addr := fa 3 0 7 2, left := 1, admitted := 0, seg := 0, flags := 0, asking := false, again := false }

/-- A state with a link. -/
def linkAt (b : Nat) (l : Link) (s : State) : State := s.onRly (fun r => { r with links := SMap.set r.links b l })

/-- A state with a die bound at a LUN position, checked and present. -/
def dieAt (l : Nat) (s : State) : State :=
  ({ s with img := { s.img with dies := [aDie] } }).onLun l (fun t => { t with die := some 0, absent := false, checked := true })

/-- A serial operation that runs on the device. -/
def anOp (k : SpmKind) : SpmOp :=
  { kind := k, addr := 0, len := 0, reached := 0, devBusy := true, suspended := false, suspending := false, suspAt := 0,
    runFrom := 0, openSector := none, bufWait := false, failed := 0, genNew := 0, ctx := 0, stage := 0, table := 0 }

/-- A command of an opcode with the entries 0–4 in service, its entry that of LUN 3. -/
def cmdRun (op : Op) (e : BitVec 512) : State := cmdAt 0 (aCmd op e) (dieAt 3 run)

/-- The host end of a link of one channel, with a session. -/
def hostLink : Link :=
  { Link.fresh false 1 with st := .up, mask := 1, kept := true, host := 1, tgt := 2, partner := 7, cmdCredit := 4, dataCredit := 64 }

/-- In service with a route to instance 7 over the link of channel 0. -/
def routed : State := (linkAt 0 hostLink run).onRly fun r => { r with routes := [(7, 0x8000)] }

/-- A state with a grant on a channel. -/
def grantAt (ch : Nat) (g : Grant) (s : State) : State := s.onChan ch (fun c => { c with grant := some g })

/-- A sweep of eight DQs in which no tap passes. -/
def sw8 : Sweep := { ok := true, rdVref := 0, wrVref := 0, dcc := 0, tapStep := 8, rd := List.replicate 8 [0], wr := List.replicate 8 [0] }

/-- A sweep of seven DQs read. -/
def sw1 : Sweep := { sw8 with rd := List.replicate 7 [0] }

/-- A frame of zeros. -/
def frame0 : RFrame := mkFrame 0

/-- A grant that meets nothing. -/
def io0 : GrantIo := { status := [], bad := [], underrun := none, ecc := .ok, mismatch := none }

/-- A grant of LUN 3. -/
def aGrant (k : GrantKind) (fin : GrantEnd) : Grant :=
  { kind := k, lun := 3, members := [9], gens := [], cls := .read, long := false, probe := false, cacheNext := none, more := [], runs := [],
    pins := [], pinTime := 300, limit := 0, expect := [], starting := [], io := io0, din := false, confirmed := false,
    faulty := false, dinLeft := none, sent := 0, held := false, fin := fin }

/-- An array operation of the unit entry 9 on LUN 3. -/
def anArray : ArrayOp :=
  { members := [9], phase := 2, suspended := false, susps := 0, runFrom := 0, firstDue := none, firstLeft := 0, suspAt := 0,
    suspReads := 0, checking := false }

/-- LUN 3 bound, its pair in service. -/
def ready3 : State := (dieAt 3 run).onPair 0 fun p => { p with inService := true }

/-- LUN 3 asks for its reset; every schedule ends with its first step. -/
def asks3 : State := (ready3.onSched fun h => { h with store := (List.range 24).map fun i => (i, (0x400, stepParity 0x400)) }).onLun 3 fun t => { t with resetReq := true }

/-- A grant of LUN 3 on channel 0, with an array operation. -/
def granted (k : GrantKind) (fin : GrantEnd) : State :=
  (grantAt 0 (aGrant k fin) ready3).onLun 3 fun t => { t with op := some anArray }

/-- An event of LUN 3 that is due. -/
def due (f : Events → Events) (s : State) : State := s.onLun 3 fun t => { t with ev := f t.ev }

/-- A peck that the unit entry 9 holds for a codeword. -/
def aPeck (cw : Nat) : Peck :=
  { alloc := true, sense := false, chan := 0, length := 0, kind := 0, flags := 0, entry := 9, gen := 1, cw := cw, iter := 0,
    step := 0, addr := 0, payload := [] }

/-- A state with the pecks 5 and 6 for the codewords 0 and 1 of the unit entry 9. -/
def pecked (s : State) : State := s.onPool fun p => { p with pecks := [(5, aPeck 0), (6, aPeck 1)] }

/-- The unit entry 9 with its pecks, its data moving. -/
def dUnit : LUnit := { aUnit with st := .data, pecks := [5, 6] }

/-- A packet of 64 bytes of codeword 0 is on its way to the unit entry 9. -/
def incoming (u : LUnit) : State :=
  unitAt 9 u (pecked (ready3.onChan 0 fun c => { c with late := [Expect.mk 9 1 0 64 false] }))

/-- A decoder lane at work. -/
def decoding (lane : Nat) (i : DecItem) (s : State) : State := s.onDec fun d => { d with busy := [(lane, (i, d.cfg, d.llr))] }

/-- A reread sample of LUN 3 in range, its error 2. -/
def aSample : Sample :=
  { ix := 9, gen := 1, iters := 0, cws := 0, lun := 3, group := 5, pol := 1, n := 4096, ones := 2050, inRange := true, patrol := false,
    internal := none }

/-- LUN 3 relearns since 4.5 ms before now, after a run of in-tolerance samples. -/
def aRelearn (run : Nat) : Relearn := { saved := 7, count := 3, run := run, start := 5500000 }

/-- LUN 3 with a sample to apply and a relearn. -/
def sampled (p : Sample) (r : Option Relearn) : State :=
  ready3.onCal fun c => { c with samples := [p], relearns := r.toList.map fun r => (3, r), cfg := 0xC1010101, tNow := [(3, 45)] }

/-- LUN 3 with a temperature to take, patrol state `hot`. -/
def warm (hot : Bool) : State :=
  (ready3.onLun 3 fun t => { t with tempS := some 70 }).onCal fun c =>
    { c with cfg := 0xC1010101, temp := 0x460000, patrol := [(3, { Patrol.init with hot := hot, period := 10 })] }

/-- LUN 3 with an event of its patrol or temperature read due. -/
def patrolling (debt : Nat) : State :=
  ready3.onCal fun c => { c with patrol := [(3, { Patrol.init with period := 10, debt := debt })] }

/-- A sweep of one CE in which every tap passes. -/
def swOk : Sweep :=
  { ok := true, rdVref := 0xFFFFFFFFFFFFFFFF, wrVref := 0xFFFFFFFFFFFFFFFF, dcc := 9, tapStep := 40,
    rd := List.replicate 8 [BitVec.ofNat 128 (2 ^ 128 - 1)], wr := List.replicate 8 [BitVec.ofNat 128 (2 ^ 128 - 1)] }

/-- The pair of LUN 3 in training at a rate. -/
def training (rate : Nat) : State :=
  (((ready3.onSched fun h => { h with store := (List.range 24).map fun i => (i, (0x400, stepParity 0x400)) }).onPair 0 fun p =>
    { p with rate := rate, startRate := rate }).onCal fun c => { c with active := 1, starts := [(0, 9990000)] })

/-- The target end of the link of `hostLink`. -/
def tgtLink : Link := { hostLink with target := true }

/-- A frame of the session of `hostLink`. -/
def fr (t : Nat) : RFrame := { mkFrame t with bootHost := 1, bootTarget := 2 }

/-- In service with the link of channel 31. -/
def linked (l : Link) : State := (linkAt 31 l run).onPair 15 fun p => { p with inService := true }

/-- A unit entry of the link of channel 31. -/
def rUnit : LUnit := { aUnit with bundle := some 31, won := true, st := .issued }

/-- A command that came over the link of channel 31, with its unit entry 9. -/
def ownerCmd : Cmd :=
  { aCmd .program progE with units := [9], origin := some { bundle := 31, entry := 77, gen := 5, hops := 1 } }

/-- In service, in the member list and the time source of its port since 8 s. -/
def port : State :=
  { run with psp := { Psp.reset with settled := true, epoch := 4, cfg := 0x80000000, members := [(7, 3000000)] } }

/-- A member or time frame of instance 7. -/
def pf (epoch : Word) : PFrame := { src := 7, epoch := epoch, time := 12000000, tsrc := true, listening := false }

/-- An NVS write of the health line. -/
def aReq (what : NvsWhat) (fails : Nat) : NvsReq := { id := 0, what := what, line := 8191, data := 5, fails := fails }

/-- A state with an NVS write under way. -/
def storing (what : NvsWhat) (fails : Nat) : State := run.onNvs fun n => { n with running := some (aReq what fails) }

/-- A marker of block place 9, page 2. -/
def aMark (kind : Nat) : OpenMark := { kind := kind, loc := 9, page := 2, line := 77 }

/-- The option record of a sequence number. -/
def optBytes (seq : Nat) : List Byte :=
  let h := [0x55, 0x5A, 0x42, 0x33, 1, 0, 3, 2] ++ leBytes 4 seq ++ leBytes 4 1 ++ leBytes 4 2 ++ leBytes 4 0x2000 ++ List.replicate 36 0
  h ++ leBytes 4 (Codec.crc32c h).toNat

/-- An option record. -/
def aRec : OptRec := { modeLimit := 3, sckDiv := 2, seq := 5, genA := 1, genB := 2, xipBase := 0x2000 }

/-- SFDP tables of an octal device of 16 MiB that can suspend. -/
def aSfdp : Sfdp :=
  { noSfdp with
    found := true, octal := true, quad144 := true, quad114 := true, reads := [0x13, 0x34, 0x3E, 0xEC], dummies := [0, 8, 8, 20],
    enables := [[], [], [], [0x72, 0x81]], continuous := [false, false, true, false], suspend := true, suspendOp := 0xB0,
    resumeOp := 0x30, suspendBits := 0x40, capacity := 0x1000000 }

/-- An image with the CRC of its bytes 20 and up in bytes 16 to 19. -/
def withCrc (m : SparseBytes) : SparseBytes :=
  let c := (Codec.crc32c (imgBytes m 20 (imgLen m - 20))).toNat
  (16, BitVec.ofNat 8 c) :: (17, BitVec.ofNat 8 (c / 256)) :: (18, BitVec.ofNat 8 (c / 65536)) :: (19, BitVec.ofNat 8 (c / 16777216)) :: m

/-- Four bytes of an image, written out. -/
def putWord (off n : Nat) : SparseBytes := (List.range 4).map fun i => (off + i, BitVec.ofNat 8 (n / 256 ^ i))

/-- The header of an image of generation 1 whose sections hold zeros. -/
def imageHead : SparseBytes :=
  putWord 0 0x49425A55 ++ putWord 4 1 ++ putWord 8 1 ++ putWord 12 198080 ++
    ([(256, 4096), (4352, 1024), (5376, 128), (5504, 122880), (128384, 65536), (193920, 4096), (198080, 0), (198016, 64)].zipIdx.map
      fun q => putWord (32 + 8 * q.2) q.1.1 ++ putWord (36 + 8 * q.2) q.1.2).flatten

theorem imgByte_withCrc (m : SparseBytes) {i : Nat} (h : 20 ≤ i) : imgByte (withCrc m) i = imgByte m i := by
  have h1 : 16 ≠ i := by omega
  have h2 : 17 ≠ i := by omega
  have h3 : 18 ≠ i := by omega
  have h4 : 19 ≠ i := by omega
  simp [imgByte, withCrc, SMap.getD, SMap.get?, h1, h2, h3, h4]

theorem imgBytes_withCrc (m : SparseBytes) (n : Nat) : imgBytes (withCrc m) 20 n = imgBytes m 20 n :=
  List.map_congr_left fun i _ => imgByte_withCrc m (by omega)

theorem imgNum_withCrc (m : SparseBytes) : imgNum (withCrc m) 16 4 = (Codec.crc32c (imgBytes m 20 (imgLen m - 20))).toNat := by
  have h := (Codec.crc32c (imgBytes m 20 (imgLen m - 20))).isLt
  simp [imgNum, imgBytes, imgByte, withCrc, SMap.getD, SMap.get?, List.range_succ, leNat]
  omega

/-- An image of generation 1 whose sections hold zeros. -/
def anImage : SparseBytes := withCrc imageHead

theorem anImage_ok : imageOk anImage = true := by
  have hl : imgLen anImage = 198080 := by decide +kernel
  have hl' : imgLen imageHead = 198080 := by decide +kernel
  have hc : ((Codec.crc32c (imgBytes anImage 20 (imgLen anImage - 20))).toNat == imgNum anImage 16 4) = true := by
    rw [hl, anImage, imgBytes_withCrc, imgNum_withCrc, hl', beq_self_eq_true]
  have h1 : (imgNum anImage 0 4 == 0x49425A55 && imgNum anImage 4 2 == 1 && imgGen anImage != 0 && 256 ≤ imgLen anImage &&
    imgLen anImage ≤ 8323072 && sectionsOk anImage) = true := by decide +kernel
  have h2 : (List.range 16).all (fun k => (imgByte anImage (secOff anImage 2 + k)).toNat ≤ 6) = true := by decide +kernel
  have h3 : bundlesOk anImage = true := by decide +kernel
  rw [imageOk, h1, hc, h2, h3]; rfl
/-- Start-up at one of its steps. -/
def starting (f : Sys → Sys) (g : Spm → Spm) : State :=
  { run with sys := f { run.sys with discovered := false, wasters := false, restored := false },
             spm := g { run.spm with booted := false, xipReady := false }, hif := { run.hif with ready := false } }

/-- LUN 3 bound to a die type of an ID and not checked; every schedule ends with its first step. -/
def checking (id : List Byte) : State :=
  ({ run with
    img := { run.img with dies := [{ aDie with id := id, initFeat := List.replicate 8 0 }] }
    sched := { run.sched with store := (List.range 24).map fun i => (i, (0x400, stepParity 0x400)) } }).onLun 3 fun t => { t with die := some 0 }

/-- The die check of LUN 3 before its first schedule. -/
def checkRun (id : List Byte) : Env × Run :=
  (checking id).setUpRun 3 { aDie with id := id, initFeat := List.replicate 8 0 } (some (sdrCycles (((checking id).img.rates[lunChan 3 / 2]?).getD 0)))

/-- The free value it draws, and the run behind that. -/
def checkDraw (id : List Byte) : BitVec 64 × Run := (checkRun id).2.draw (checking id).freeCtr

/-- The run up to the ID, which reads as zeros. -/
def checkRead (id : List Byte) : Run :=
  (runSetUps (checkRun id).1 (checking id).freeCtr (checkId { aDie with id := id, initFeat := List.replicate 8 0 } [] (checkDraw id).1)
    (checkDraw id).2).getD (checkDraw id).2

/-- The run behind the features and the extended capabilities. -/
def checkDone (id : List Byte) : Run :=
  (runSetUps (checkRun id).1 (checking id).freeCtr (checkFeatures { aDie with id := id, initFeat := List.replicate 8 0 } 9 (checkDraw id).1)
    (checkRead id)).getD (checkDraw id).2

theorem get?_mem {α : Type} {k : Nat} {v : α} : {m : SMap α} → SMap.get? m k = some v → (k, v) ∈ m
  | (j, w) :: r, g => by
    by_cases e : j = k <;> simp only [SMap.get?, e, if_true, if_false, Option.some.injEq] at g
    · simp [e, g]
    · exact .tail _ (get?_mem g)

/-- Where no channel has a grant at the pins or behind it, none waits for its data. -/
theorem noneStarved_of {s : State} (h : s.che.all (fun e => (e.2.grant.toList ++ e.2.next.toList).isEmpty) = true) : s.noneStarved := by
  intro l g hg
  have e : ((s.chan (lunChan l)).grant.toList ++ (s.chan (lunChan l)).next.toList) = [] := by
    unfold State.chan SMap.getD
    cases k : SMap.get? s.che (lunChan l) with
    | none => rfl
    | some v => exact List.isEmpty_iff.1 (List.all_eq_true.1 h _ (get?_mem k))
  simp [State.grantOf, e] at hg
theorem some_getD {α : Type} {o : Option α} {d : α} (h : o.isSome = true) : o = some (o.getD d) := by
  cases o <;> simp_all

/-- A serial operation under way. -/
def operating (o : SpmOp) : State := run.onSpm fun m => { m with op := some o, opBusy := true, sfdp := aSfdp }

/-- The serial address and length written, and the command idle. -/
def asked (addr : BitVec 28) (len : Word) : State := run.onSpm fun m => { m with opAddr := addr, opLen := len }

/-- The state after a command. -/
def after (c : Instr) (s : State) : State :=
  match exec c s with
  | .next t => t
  | _ => s

/-- The command answers a next state. -/
def runs (c : Instr) (s : State) : Bool :=
  match exec c s with
  | .next _ => true
  | _ => false

theorem exec_after {c : Instr} {s : State} (h : runs c s = true) : exec c s = .next (after c s) := by
  unfold runs at h
  unfold after
  cases e : exec c s <;> simp_all

end Sys2Proof.Tests

namespace Sys2Proof.Tests

theorem test_wellFormed :
    ([.serialSectorReerase 0x1000, .dieCheck 511 (List.replicate 8 0) 0, .registerWrite 0x7FFC 0, .xipRead 0x8000,
      .xipLineArrival (List.replicate 64 0), .tailBlockData 15 (List.replicate 16 0), .read 0 [0, 1, 2, 3, 131071],
      .relayCommandFrame 31 frame0 [], .peckAllocationGrant none [2047, 0], .hardDecodeEnd .hard 25 none,
      .hardDecodeEnd .soft 3 none, .spareLaneInService 24, .trainingComplete 15 sw8 sw8, .arbiterDecision 31 io0] :
      List Instr).all Instr.wf = true := by decide +kernel


theorem test_witness_ColdAndRailResetsComplete :
    (∃ (s : State), ((s.pwr.st ≠ .cold ∨ (s.pwr.exiting = true ∧ s.pwr.ack = true)))) ∧
    (∃ (s : State), s.pwr.st = .cold ∧ ((s.pwr.exiting = false ∨ s.pwr.ack = false))) :=
  ⟨⟨unitAt 9 aUnit run, by decide +kernel⟩,
   ⟨asleep .cold, by decide +kernel⟩⟩

theorem test_witness_ColdStartAndAonResetComplete :
    ∃ (s : State), s.sys.coldLow = true :=
  ⟨State.reset, by decide +kernel⟩

theorem test_witness_WarmResetCompletes :
    (∃ (s : State), s.sys.coldLow = false ∧ s.pwr.st ≠ .cold ∧ s.ldg.halted = false ∧ s.hif.ready = true) ∧
    (∃ (s : State), s.sys.coldLow = false ∧ s.pwr.st ≠ .cold ∧ s.sys.warmLow = true ∧ s.sys.started = true) :=
  ⟨⟨unitAt 9 aUnit run, by decide +kernel⟩,
   ⟨unitAt 9 aUnit (run.onSys fun y => { y with warmLow := true }), by decide +kernel⟩⟩

theorem test_witness_WarmResetActsAsCold :
    (∃ (s : State), s.sys.coldLow = true) ∧
    (∃ (s : State), s.sys.coldLow = false ∧ s.pwr.st ≠ .cold ∧ ((s.ldg.halted = true ∨ (s.hif.ready = false ∧ s.sys.resume = false)))) :=
  ⟨⟨State.reset, by decide +kernel⟩,
   ⟨run.onLdg fun l => { l with halted := true }, by decide +kernel⟩⟩

theorem test_witness_SleepEntriesComplete :
    (∃ (s : State), s.live = true ∧ s.timerPassed 1 (idleNs s.pwr.idle0 10) = true ∧ s.pwr.ack = true) ∧
    (∃ (s : State), s.live = true ∧ s.timerPassed 1 (idleNs s.pwr.idle0 10) = true) ∧
    (∃ (s : State) (k : _), s.live = true ∧ s.timerPassed 1 (idleNs s.pwr.idle0 10) = true ∧ 1 ≤ k ∧ k ≤ 11) ∧
    (∃ (s : State), s.inReset = false ∧ s.pwr.st = .soak ∧ s.pwr.exiting = false ∧ s.pwr.ack = true ∧ s.timerPassed 2 (idleNs s.pwr.idle1 1000) = true) ∧
    (∃ (s : State), s.inReset = false ∧ s.pwr.st = .bank ∧ s.pwr.exiting = false ∧ s.pwr.ack = true ∧ s.emberReady = true ∧ s.timerPassed 3 (idleNs s.pwr.idle2 1000) = true) ∧
    (∃ (s : State), s.inReset = false ∧ s.pwr.st = .ember ∧ s.pwr.exiting = false ∧ s.pwr.ack = true ∧ s.pwr.cfg.toNat / 2 % 16 = 15 ∧ s.coldDue = true) :=
  ⟨⟨idleRun, by decide +kernel⟩,
   ⟨idleRun, by decide +kernel⟩,
   ⟨idleRun, 11, by decide +kernel⟩,
   ⟨asleep .soak, by decide +kernel⟩,
   ⟨asleep .bank, by decide +kernel⟩,
   ⟨asleep .ember, by decide +kernel⟩⟩

theorem test_witness_SleepExitsComplete :
    (∃ (s : State), s.inReset = false ∧ ((s.pwr.st = .soak ∨ s.pwr.st = .bank))) ∧
    (∃ (s : State) (cause : _), ((s.pwr.st = .ember ∨ s.pwr.st = .cold)) ∧ s.watches cause = true ∧ s.pwr.exiting = false) ∧
    (∃ (s : State), s.pwr.ack = false ∧ s.pwr.wakeOut = true) ∧
    (∃ (s : State), s.pwr.ack = false ∧ s.pwr.wakeOut = false) ∧
    (∃ (s : State), s.pwr.wakeOut = true ∧ s.pwr.ack = true) ∧
    (∃ (s : State) (a : _), s.pwr.save = some a ∧ s.inReset = false ∧ s.pwr.st = .cold ∧ s.pwr.exiting = true ∧ s.pwr.ack = true) ∧
    (∃ (s : State), s.exitDone = true ∧ s.hcp.withheld = none) :=
  ⟨⟨asleep .bank, by decide +kernel⟩,
   ⟨asleep .ember, .wakeIn, by decide +kernel⟩,
   ⟨(asleep .ember).onPwr fun p => { p with ack := false, wakeOut := true }, by decide +kernel⟩,
   ⟨run.onPwr fun p => { p with ack := false }, by decide +kernel⟩,
   ⟨(asleep .ember).onPwr fun p => { p with exiting := true, wakeOut := true, req := 3 }, by decide +kernel⟩,
   ⟨(asleep .cold).onPwr fun p => { p with exiting := true, save := some run.saveArea }, run.saveArea, by decide +kernel⟩,
   ⟨(asleep .soak).onPwr fun p => { p with exiting := true }, by decide +kernel⟩⟩


theorem test_witness_RingControlCompletes :
    (∃ (s : State) (data : Word), s.hcpFree ∧ bit data 0 = true ∧ bit s.hif.cfg 0 = false ∧ s.hif.ready = true ∧ s.hif.tableAll = false) ∧
    (∃ (s : State) (data : Word), s.hcpFree ∧ bit data 0 = false) ∧
    (∃ (s : State) (data : Word), s.hcpFree ∧ s.pwr.st = .fire ∧ fld data 16 2 = 1 ∧ s.hif.cmdBusy = false) ∧
    (∃ (s : State) (data : Word), s.hcpFree ∧ s.pwr.st = .fire ∧ fld data 16 2 = 2 ∧ s.hif.cmdBusy = false) ∧
    (∃ (s : State) (data : Word), s.hcpFree ∧ s.pwr.st = .fire ∧ bit data 16 = false) ∧
    (∃ (s : State) (data : Word), s.hcpFree ∧ s.pwr.st = .fire ∧ bit data 16 = true) ∧
    (∃ (s : State) (data : Word), s.hcpFree ∧ bit data 31 = true ∧ s.hif.faultValid = true) :=
  ⟨⟨run.onHif fun h => { h with cfg := 0xC }, 0xD, by decide +kernel⟩,
   ⟨sqAt 3 0 1 run, 0xC, by decide +kernel⟩,
   ⟨run, 0x10003, by decide +kernel⟩,
   ⟨sqAt 3 0 1 run, 0x20003, by decide +kernel⟩,
   ⟨run.onHif fun h => { h with preds := [(7, 1), (9, 1)] }, 7, by decide +kernel⟩,
   ⟨run.onHif fun h => { h with preds := [(7, 1), (9, 1)] }, 0x10000, by decide +kernel⟩,
   ⟨(cqAt 3 0 1 run).onHif fun h => { h with faultValid := true }, 0x80000000, by decide +kernel⟩⟩

theorem test_witness_RingLoadEnds :
    (∃ (s : State) (ring : _) (entry : _) (q : _) (u : _), s.live = true ∧ s.hif.tableAll = false ∧ s.popRead (fun q => q.what == .ring ring) = some (q, u) ∧ ringEntryValid entry = false) ∧
    (∃ (s : State) (ring : _) (entry : _) (q : _) (u : _), s.live = true ∧ s.hif.tableAll = false ∧ s.popRead (fun q => q.what == .ring ring) = some (q, u) ∧ ringEntryValid entry = true ∧ (s.cq ring).en = false ∧ (s.sq ring).en = false ∧ rtCqEn entry = true ∧ rtSqEn entry = true ∧ rtBind entry = ring) ∧
    (∃ (s : State) (ring : _) (q : _) (u : _), s.live = true ∧ s.hif.tableAll = false ∧ s.popRead (fun q => q.what == .ring ring) = some (q, u) ∧ s.hif.faultValid = false) :=
  ⟨⟨reading (.ring 3) 0x40 (run.onHif fun h => { h with cmdBusy := true }), 3, BitVec.ofNat 512 (2 ^ 159), rdOf (.ring 3) 0x40, run.onHif fun h => { h with cmdBusy := true }, by decide +kernel⟩,
   ⟨reading (.ring 3) 0x40 run, 3, tableEntry 3, rdOf (.ring 3) 0x40, run, by decide +kernel⟩,
   ⟨reading (.ring 3) 0x40 run, 3, rdOf (.ring 3) 0x40, run, by decide +kernel⟩⟩

theorem test_witness_DoorbellCyclesStart :
    (∃ (s : State), s.ringsRun = true ∧ bit s.hif.cfg 3 = true ∧ s.hif.cycle = none) ∧
    (∃ (s : State), s.ringsRun = true ∧ bit s.hif.cfg 3 = true ∧ s.hif.cycle.isSome = true) ∧
    (∃ (s : State), s.live = true ∧ bit s.hif.cfg 0 = true ∧ bit s.hif.cfg 3 = true ∧ s.ringsRun = false) ∧
    (∃ (s : State), s.dozing = true) ∧
    (∃ (s : State), s.dozing = true ∧ s.hif.on = true ∧ s.hif.poll ≠ 0 ∧ s.passed s.hif.pollFrom (pollNs s.hif.poll.toNat) = true) ∧
    (∃ (s : State), s.ringsRun = true ∧ s.hif.poll ≠ 0 ∧ s.passed s.hif.pollFrom (pollNs s.hif.poll.toNat) = true ∧ s.hif.cycle = none) ∧
    (∃ (s : State) (q : _), s.ringsRun = true ∧ q < 256 ∧ (s.sq q).en = true ∧ (s.sq q).pollOvr = true ∧ (s.sq q).expired = false ∧ s.passed (s.sq q).polled (pollNs (s.sq q).pollPeriod) = true ∧ s.hif.cycle = none) ∧
    (∃ (s : State) (q : _) (u : _), s.live = true ∧ s.doorbellTag.2.popTag s.doorbellTag.1 (fun q => isDoorbell q.what) = some (q, u) ∧ s.hif.faultValid = false ∧ s.hif.again = false ∧ s.hif.cycle.isSome = true) :=
  ⟨⟨run, by decide +kernel⟩,
   ⟨run.onHif fun h => { h with cycle := some (Cycle.mk [] false true [] [] false) }, by decide +kernel⟩,
   ⟨run.onHif fun h => { h with cfg := 0xD, tableAll := true }, by decide +kernel⟩,
   ⟨asleep .soak, by decide +kernel⟩,
   ⟨(asleep .bank).onHif fun h => { h with poll := 0x3E8 }, by decide +kernel⟩,
   ⟨run.onHif fun h => { h with poll := 0x3E8 }, by decide +kernel⟩,
   ⟨(sqAt 3 0 0 run).onSq 3 fun q => { q with pollOvr := true, pollPeriod := 100 }, 3, by decide +kernel⟩,
   ⟨reading .swap 0x40 (run.onHif fun h => { h with cycle := some (Cycle.mk [] false true [] [] false) }), rdOf .swap 0x40, run.onHif fun h => { h with cycle := some (Cycle.mk [] false true [] [] false) }, by decide +kernel⟩⟩

theorem test_witness_DoorbellAnswersComplete :
    (∃ (s : State) (bits : _) (q : _) (u : _) (c : _), s.live = true ∧ s.popRead (fun q => q.what == .swap) = some (q, u) ∧ s.hif.cycle = some c ∧ bits ≠ 0) ∧
    (∃ (s : State) (b : _) (tails : List Word) (q : _) (u : _) (c : _), s.live = true ∧ s.popRead (fun q => q.what == .tails b) = some (q, u) ∧ s.hif.cycle = some c ∧ tails.length = 16) ∧
    (∃ (s : State) (b : _) (heads : List Word) (q : _) (u : _), s.live = true ∧ s.popRead (fun q => q.what == .heads b) = some (q, u) ∧ heads.length = 16) :=
  ⟨⟨reading .swap 0x40 (run.onHif fun h => { h with cycle := some (Cycle.mk [] false true [] [] false) }), 0x8001, rdOf .swap 0x40, run.onHif fun h => { h with cycle := some (Cycle.mk [] false true [] [] false) }, Cycle.mk [] false true [] [] false, by decide +kernel⟩,
   ⟨reading (.tails 0) 0x40 ((sqAt 3 0 0 run).onHif fun h => { h with cycle := some (Cycle.mk [3] false false [0] [] false) }), 0, List.replicate 16 5, rdOf (.tails 0) 0x40, (sqAt 3 0 0 run).onHif fun h => { h with cycle := some (Cycle.mk [3] false false [0] [] false) }, Cycle.mk [3] false false [0] [] false, by decide +kernel⟩,
   ⟨reading (.heads 0) 0x40 (cqAt 3 0 0 run), 0, List.replicate 16 5, rdOf (.heads 0) 0x40, cqAt 3 0 0 run, by decide +kernel⟩⟩

theorem test_witness_SqFetchesComplete :
    (∃ (s : State) (q : _), s.nextSq = some q ∧ s.canFetch = true) ∧
    (∃ (s : State) (entry : _) (q : _) (k : _) (u : _), s.fetched = some (q, k, u) ∧ s.live = true ∧ s.ownMatches q k entry = false) ∧
    (∃ (s : State) (q : _) (k : _) (u : _), s.fetched = some (q, k, u) ∧ s.live = true ∧ s.hif.faultValid = false) ∧
    (∃ (s : State) (x : _) (r : _), s.inReset = false ∧ s.pwr.st ≠ .ember ∧ s.pwr.st ≠ .cold ∧ s.hif.items = x :: r) :=
  ⟨⟨sqAt 3 0 1 run, 3, by decide +kernel⟩,
   ⟨fetching run, 0, 3, 0, sqAt 3 0 2 run, by decide +kernel⟩,
   ⟨fetching run, 3, 0, sqAt 3 0 2 run, by decide +kernel⟩,
   ⟨run.onHif fun h => { h with items := [Item.mk 1 2] }, Item.mk 1 2, [], by decide +kernel⟩⟩


theorem test_witness_AccessesWithoutEffect :
    (∃ (s : State), s.inReset = true) ∧
    (∃ (s : State), s.inReset = false ∧ ((s.pwr.st = .ember ∨ s.pwr.st = .cold))) ∧
    (∃ (s : State) (off : BitVec 16), s.hcpFree ∧ 0x8000 ≤ off.toNat) ∧
    (∃ (s : State), s.inReset = false ∧ s.pwr.st = .bank ∧ s.hcp.withheld = none ∧ s.spm.waiting = none) :=
  ⟨⟨State.reset, by decide +kernel⟩,
   ⟨asleep .ember, by decide +kernel⟩,
   ⟨run, 0x8000, by decide +kernel⟩,
   ⟨asleep .bank, by decide +kernel⟩⟩

theorem test_witness_RegisterWriteStores :
    ∃ (s : State) (p : _), s.hcpFree ∧ p ∈ rwRegs :=
  ⟨run, (0x028, 0x1FFFF), by decide +kernel⟩

theorem test_witness_ChannelConfigWriteStores :
    ∃ (s : State) (c : _), s.hcpFree ∧ c < 32 :=
  ⟨run, 31, by decide +kernel⟩

theorem test_witness_QueueDepthsRead :
    ∃ (c : _) (k : _), c < 32 ∧ k < 8 :=
  ⟨31, 7, by decide +kernel⟩

theorem test_witness_ConditionalWritesIgnored :
    (∃ (s : State) (o : _), s.hcpFree ∧ s.quiesced = false ∧ o ∈ [0x10, 0x14, 0x18, 0x1C, 0x20, 0x24]) ∧
    (∃ (s : State) (p : _), s.hcpFree ∧ s.quiesced = true ∧ p ∈ [((0x10 : Nat), (0xFFFFC000 : Word)), (0x18, 0xFFFFF000), (0x20, 0xFFF80000),
    (0x14, 0x01FFFFFF), (0x1C, 0x01FFFFFF), (0x24, 0x01FFFFFF)]) ∧
    (∃ (s : State), s.hcpFree ∧ s.time.arm = true) ∧
    (∃ (s : State), s.hcpFree ∧ s.time.arm = false) ∧
    (∃ (s : State) (o : _), s.hcpFree ∧ s.spm.opBusy = true ∧ o ∈ [0x4010, 0x4014, 0x4018, 0x401C]) :=
  ⟨⟨sqAt 0 0 1 run, 0x24, by decide +kernel⟩,
   ⟨run.onHif fun h => { h with cfg := 0xC }, (0x24, 0x01FFFFFF), by decide +kernel⟩,
   ⟨run.onTime fun t => { t with arm := true }, by decide +kernel⟩,
   ⟨run, by decide +kernel⟩,
   ⟨run.onSpm fun p => { p with opBusy := true }, 0x401C, by decide +kernel⟩⟩

theorem test_witness_RcReadReturnsAndClears :
    (∃ (s : State) (p : _), s.hcpFree ∧ p ∈ rcRegs) ∧
    (∃ (s : State) (c : _) (o : _), s.hcpFree ∧ c ∈ List.range 32 ∧ o ∈ [0x0C, 0x10, 0x14, 0x18]) ∧
    (∃ (s : State) (c : _), s.hcpFree ∧ c ∈ List.range 32) :=
  ⟨⟨run, (0x40, 0xFFFFFFFF), by decide +kernel⟩,
   ⟨run.onChan 31 fun c => { c with suspCnt := 5 }, 31, 0x0C, by decide +kernel⟩,
   ⟨run, 31, by decide +kernel⟩⟩

theorem test_witness_TimeCaptureReadCaptures :
    (∃ (s : State), s.hcpFree) ∧
    (∃ (s : State), s.hcpFree) :=
  ⟨⟨run, by decide +kernel⟩,
   ⟨run.onTime fun t => { t with aon := 0x100000005 }, by decide +kernel⟩⟩

theorem test_witness_XipWindowCompletes :
    (∃ (s : State) (off : BitVec 16) (line : List Byte), s.hcpFree ∧ 0x8000 ≤ off.toNat ∧ s.spm.xipReady = true ∧ s.sectorHeld (sectorOf (s.spm.xipByte off)) = false ∧ SMap.get? s.spm.lines (s.spm.xipByte off / 64) = some line) ∧
    (∃ (s : State) (off : BitVec 16), s.hcpFree ∧ 0x8000 ≤ off.toNat ∧ s.spm.xipReady = true ∧ s.sectorHeld (sectorOf (s.spm.xipByte off)) = true) ∧
    (∃ (s : State) (off : BitVec 16), s.hcpFree ∧ 0x8000 ≤ off.toNat ∧ s.spm.xipReady = true ∧ s.sectorHeld (sectorOf (s.spm.xipByte off)) = false ∧ SMap.get? s.spm.lines (s.spm.xipByte off / 64) = none ∧ s.spm.inFlight = none) ∧
    (∃ (s : State) (off : BitVec 16) (line : List Byte), s.live = true ∧ s.spm.readable = true ∧ s.spm.xipReady = true ∧ s.spm.waiting = some off ∧ s.sectorHeld (sectorOf (s.spm.xipByte off)) = false ∧ s.spm.inFlight = some (s.spm.xipByte off / 64) ∧ s.spm.lineOrder.length < 8 ∧ line.length = 64) ∧
    (∃ (s : State), s.hcpFree ∧ s.spm.opBusy = false) ∧
    (∃ (s : State) (data : Word) (o : _), s.hcpFree ∧ s.spm.opBusy = true ∧ s.spm.op = some o ∧ o.kind = .program ∧ meets s.spm.opAddr.toNat s.spm.opLen.toNat (4096 * fld data 12 16) 0x8000 = true) :=
  ⟨⟨run.onSpm fun p => { p with lines := [(128, List.replicate 64 0xA5)], lineOrder := [128] }, 0x8000, List.replicate 64 0xA5, by decide +kernel⟩,
   ⟨{ run with sys := { run.sys with reerase := [12288] } }, 0x9000, by decide +kernel⟩,
   ⟨run, 0xFFFC, by decide +kernel⟩,
   ⟨run.onSpm fun p => { p with waiting := some 0xFFFC, inFlight := some 639 }, 0xFFFC, List.replicate 64 0xA5, by decide +kernel⟩,
   ⟨run.onSpm fun p => { p with lines := [(0, List.replicate 64 0xA5)], lineOrder := [0], xipErr := true }, by decide +kernel⟩,
   ⟨run.onSpm fun p => { p with opBusy := true, op := some (anOp .program), opAddr := 0x7FFF, leftover := none, opLen := 1 }, 0, anOp .program, by decide +kernel⟩⟩

theorem test_witness_InterruptWritesComplete :
    (∃ (s : State), s.hcpFree) ∧
    (∃ (s : State), s.hcpFree) ∧
    (∃ (s : State), s.hcpFree) ∧
    (∃ (s : State) (n : _), s.hcpFree ∧ n < 4) ∧
    (∃ (s : State), s.hcpFree) :=
  ⟨⟨run.onIrq fun q => { q with pend := 0x3FFFFFFFFFFFFFF }, by decide +kernel⟩,
   ⟨run.onIrq fun q => { q with pend := 0x3FFFFFFFFFFFFFF }, by decide +kernel⟩,
   ⟨run.onIrq fun q => { q with pend := 0x3FFFFFFFFFFFFFF }, by decide +kernel⟩,
   ⟨run, 3, by decide +kernel⟩,
   ⟨run, by decide +kernel⟩⟩

theorem test_witness_InterruptOutputFollowsPending :
    ∃ (s : State) (n : Nat), n < 58 ∧ s.pwr.st ≠ .soak ∧ s.pwr.st ≠ .bank :=
  ⟨run, 57, by decide +kernel⟩


theorem test_witness_FetchedCommandTaken :
    ∃ (p : _) (s : State) (e : _) (ctx : _) (c0 : _) (q : _) (k : _) (u : _), p ∈ fetchedRows ∧ s.going = true ∧ s.ctxFree ctx = true ∧ ctx.head? = some c0 ∧ s.fetched = some (q, k, u) ∧ s.ownMatches q k e = true ∧ opOf (entOp e) = p.1 :=
  ⟨(.unknown, .unknownOpcode), fetching run, sqe 255 0 0 0, [131071, 4, 3, 2, 1], 131071, 3, 0, afterFetch (fetching run), ⟨by simp [fetchedRows], by decide +kernel⟩⟩

theorem test_witness_FetchedCommandRefused :
    (∃ (p : _) (s : State) (e : _) (ctx : _) (c0 : _) (q : _) (k : _) (u : _) (st : _), p ∈ fetchedRows ∧ s.going = true ∧ s.ctxFree ctx = true ∧ ctx.head? = some c0 ∧ s.fetched = some (q, k, u) ∧ s.ownMatches q k e = true ∧ opOf (entOp e) = p.1 ∧ s.fetchRefusal p.1 e = some st ∧ ((st = .invalidDescriptor ∨ bindsPred p.1 e = false))) ∧
    (∃ (p : _) (s : State) (e : _) (ctx : _) (c0 : _) (q : _) (k : _) (u : _), p ∈ fetchedRows ∧ s.going = true ∧ s.ctxFree ctx = true ∧ ctx.head? = some c0 ∧ s.fetched = some (q, k, u) ∧ s.ownMatches q k e = true ∧ opOf (entOp e) = p.1 ∧ s.fetchRefusal p.1 e = some .routeUnknown ∧ bindsPred p.1 e = true) :=
  ⟨⟨(.nop, .nop), fetching run, sqe 0x7E 0 1 0, [131071, 4, 3, 2, 1], 131071, 3, 0, afterFetch (fetching run), .invalidDescriptor, ⟨by simp [fetchedRows], by decide +kernel⟩⟩,
   ⟨(.readScan, .readScan), fetching ((dieAt 3 run).onHif fun h => { h with preds := [(9, 0)] }), sqe 2 (BitVec.ofNat 64 (9 * 2 ^ 53)) 1 (0x4000 * 2 ^ 128 + 9 * 2 ^ 256 + 15 * 2 ^ 272), [131071, 4, 3, 2, 1], 131071, 3, 0, afterFetch (fetching ((dieAt 3 run).onHif fun h => { h with preds := [(9, 0)] })), ⟨by simp [fetchedRows], by decide +kernel⟩⟩⟩

theorem test_witness_FetchedCommandBegins :
    ∃ (p : _) (s : State) (e : _) (ctx : _) (c0 : _) (q : _) (k : _) (u : _), p ∈ fetchedRows ∧ p.1 ∈ ([.read, .readSherd, .program, .programSlc, .fold, .erase, .raw, .nop] : List Op) ∧ s.going = true ∧ s.ctxFree ctx = true ∧ ctx.head? = some c0 ∧ s.fetched = some (q, k, u) ∧ s.ownMatches q k e = true ∧ opOf (entOp e) = p.1 ∧ s.fetchRefusal p.1 e = none :=
  ⟨(.read, .read), fetching (dieAt 3 run), readE, [131071, 4, 3, 2, 1], 131071, 3, 0, afterFetch (fetching (dieAt 3 run)), ⟨by simp [fetchedRows], by decide +kernel⟩⟩

theorem test_witness_ScanPredicateBinds :
    (∃ (s : State) (e : _) (ctx : _) (c0 : _) (q : _) (k : _) (u : _) (id : _) (bits : _), s.going = true ∧ s.ctxFree ctx = true ∧ ctx.head? = some c0 ∧ s.fetched = some (q, k, u) ∧ s.ownMatches q k e = true ∧ opOf (entOp e) = .readScan ∧ s.fetchRefusal .readScan e = none ∧ s.hif.preds.find? (fun p => p.1 == entPredId e) = some (id, bits)) ∧
    (∃ (s : State) (e : _) (ctx : _) (c0 : _) (q : _) (k : _) (u : _), s.going = true ∧ s.ctxFree ctx = true ∧ ctx.head? = some c0 ∧ s.fetched = some (q, k, u) ∧ s.ownMatches q k e = true ∧ opOf (entOp e) = .readScan ∧ s.fetchRefusal .readScan e = none ∧ s.hif.preds.find? (fun p => p.1 == entPredId e) = none ∧ u.hdp.blocked = false ∧ u.hdp.heldReads = [] ∧ u.hdp.reads.length < 1024) :=
  ⟨⟨fetching ((dieAt 3 run).onHif fun h => { h with preds := [(9, 1)] }), scanE, [131071, 4, 3, 2, 1], 131071, 3, 0, afterFetch (fetching ((dieAt 3 run).onHif fun h => { h with preds := [(9, 1)] })), 9, 1, by decide +kernel⟩,
   ⟨fetching (dieAt 3 run), scanE, [131071, 4, 3, 2, 1], 131071, 3, 0, afterFetch (fetching (dieAt 3 run)), by decide +kernel⟩⟩

theorem test_witness_FetchedCommandActs :
    (∃ (s : State) (e : _) (ctx : _) (c0 : _) (q : _) (k : _) (u : _), s.going = true ∧ s.ctxFree ctx = true ∧ ctx.head? = some c0 ∧ s.fetched = some (q, k, u) ∧ s.ownMatches q k e = true ∧ opOf (entOp e) = .ringFence ∧ s.fetchRefusal .ringFence e = none) ∧
    (∃ (s : State) (e : _) (ctx : _) (c0 : _) (q : _) (k : _) (u : _), s.going = true ∧ s.ctxFree ctx = true ∧ ctx.head? = some c0 ∧ s.fetched = some (q, k, u) ∧ s.ownMatches q k e = true ∧ opOf (entOp e) = .cancel ∧ s.fetchRefusal .cancel e = none ∧ ((∀ x ∈ s.ldg.cmds, (x.2.sq == ent e 32 1 && entCmdId x.2.raw == ent e 34 2) = false))) ∧
    (∃ (s : State) (e : _) (ctx : _) (c0 : _) (q : _) (k : _) (u : _) (p : _), s.going = true ∧ s.ctxFree ctx = true ∧ ctx.head? = some c0 ∧ s.fetched = some (q, k, u) ∧ s.ownMatches q k e = true ∧ (p ∈ ([(.calibrate, .calibrate), (.patrolNow, .patrolNow)] : List (Op × (BitVec 512 → List Nat → Instr)))) ∧ opOf (entOp e) = p.1 ∧ s.fetchRefusal p.1 e = none ∧ faInst (entAddr e) ≠ s.sys.instance_.toNat) ∧
    (∃ (s : State) (e : _) (ctx : _) (c0 : _) (q : _) (k : _) (u : _), s.going = true ∧ s.ctxFree ctx = true ∧ ctx.head? = some c0 ∧ s.fetched = some (q, k, u) ∧ s.ownMatches q k e = true ∧ opOf (entOp e) = .calibrate ∧ s.fetchRefusal .calibrate e = none ∧ faInst (entAddr e) = s.sys.instance_.toNat ∧ ent e 32 1 ≠ 0 ∧ (s.chan (faChan (entAddr e))).fenced = false ∧ bit s.cal.active (faChan (entAddr e) / 2) = false) ∧
    (∃ (s : State) (e : _) (ctx : _) (c0 : _) (q : _) (k : _) (u : _), s.going = true ∧ s.ctxFree ctx = true ∧ ctx.head? = some c0 ∧ s.fetched = some (q, k, u) ∧ s.ownMatches q k e = true ∧ opOf (entOp e) = .nvsSync ∧ s.fetchRefusal .nvsSync e = none ∧ bit e 256 = true ∧ bit e 257 = false ∧ s.openSyncs = []) :=
  ⟨⟨fetching run, sqe 0x41 0 0 0, [5, 4, 3, 2, 1], 5, 3, 0, afterFetch (fetching run), by decide +kernel⟩,
   ⟨fetching run, sqe 0x40 0 0 0, [5, 4, 3, 2, 1], 5, 3, 0, afterFetch (fetching run), by decide +kernel⟩,
   ⟨fetching routed, sqe 0x60 (BitVec.ofNat 64 (7 * 2 ^ 53)) 0 (2 ^ 256), [5, 4, 3, 2, 1], 5, 3, 0, afterFetch (fetching routed), (.calibrate, .calibrate), by and_intros <;> first | decide +kernel | (simp)⟩,
   ⟨fetching (dieAt 3 run), sqe 0x60 (fa 3 0 0 0) 0 (2 ^ 256), [5, 4, 3, 2, 1], 5, 3, 0, afterFetch (fetching (dieAt 3 run)), by decide +kernel⟩,
   ⟨fetching run, sqe 0x70 0 0 (2 ^ 256), [5, 4, 3, 2, 1], 5, 3, 0, afterFetch (fetching run), by decide +kernel⟩⟩


theorem test_witness_UnitEntryTaken :
    (∃ (s : State) (ctx : _) (ix : _) (c : _), s.cmd? ctx = some c ∧ s.going = true ∧ c.want ≠ 0 ∧ s.isFree ix = true ∧ c.ixs.contains ix = false ∧ c.op ≠ .calibrate) ∧
    (∃ (s : State) (ctx : _) (ix : _) (c : _), s.cmd? ctx = some c ∧ s.going = true ∧ c.want ≠ 0 ∧ s.isFree ix = true ∧ c.ixs.contains ix = false ∧ s.ldg.faultValid = false) :=
  ⟨⟨cmdAt 0 ({ aCmd .read readE with want := 1 }) (dieAt 3 run), 0, 131071, { aCmd .read readE with want := 1 }, by decide +kernel⟩,
   ⟨cmdAt 0 ({ aCmd .read readE with want := 1 }) (dieAt 3 run), 0, 131071, { aCmd .read readE with want := 1 }, by decide +kernel⟩⟩

theorem test_witness_EntryFreed :
    (∃ (s : State) (ix : _) (u : _), s.live = true ∧ s.freeable ix = true ∧ s.unit? ix = some u) ∧
    (∃ (s : State) (ix : _) (ctx : _) (c : _), s.live = true ∧ s.freeable ix = true ∧ s.unit? ix = none ∧ s.ldg.cmds.find? (fun e => e.2.ixs.contains ix) = some (ctx, c)) :=
  ⟨⟨unitAt 9 ({ aUnit with st := .done, ctx := some 0, fetched := 0 }) (cmdAt 0 { aCmd .read readE with acked := true, units := [9] } run), 9, { aUnit with st := .done, ctx := some 0, fetched := 0 }, by decide +kernel⟩,
   ⟨cmdAt 0 ({ aCmd .nop 0 with acked := true }) run, 4, 0, { aCmd .nop 0 with acked := true }, by decide +kernel⟩⟩

theorem test_witness_PredicateFetchEnds :
    (∃ (s : State) (ctx : _) (bits : BitVec 1024) (q : _) (u : _) (c : _), s.popRead (fun r => r.what == .pred ctx) = some (q, u) ∧ s.live = true ∧ s.cmd? ctx = some c ∧ c.units = [] ∧ bit bits 0 = true) ∧
    (∃ (s : State) (ctx : _) (bits : BitVec 1024) (q : _) (u : _) (c : _), s.popRead (fun r => r.what == .pred ctx) = some (q, u) ∧ s.live = true ∧ s.cmd? ctx = some c ∧ c.units = [] ∧ c.origin = none ∧ bit bits 0 = false) ∧
    (∃ (s : State) (ctx : _) (q : _) (u : _) (c : _), s.popRead (fun r => r.what == .pred ctx) = some (q, u) ∧ s.live = true ∧ s.cmd? ctx = some c ∧ c.units = [] ∧ c.origin = none ∧ s.hif.faultValid = false) :=
  ⟨⟨reading (.pred 0) 0x40 (cmdAt 0 ({ aCmd .readScan scanE with predWait := true }) (dieAt 3 run)), 0, 1, rdOf (.pred 0) 0x40, cmdAt 0 ({ aCmd .readScan scanE with predWait := true }) (dieAt 3 run), { aCmd .readScan scanE with predWait := true }, by decide +kernel⟩,
   ⟨reading (.pred 0) 0x40 (cmdAt 0 ({ aCmd .readScan scanE with predWait := true }) (dieAt 3 run)), 0, 2, rdOf (.pred 0) 0x40, cmdAt 0 ({ aCmd .readScan scanE with predWait := true }) (dieAt 3 run), { aCmd .readScan scanE with predWait := true }, by decide +kernel⟩,
   ⟨reading (.pred 0) 0x40 (cmdAt 0 ({ aCmd .readScan scanE with predWait := true }) (dieAt 3 run)), 0, rdOf (.pred 0) 0x40, cmdAt 0 ({ aCmd .readScan scanE with predWait := true }) (dieAt 3 run), { aCmd .readScan scanE with predWait := true }, by decide +kernel⟩⟩

theorem test_witness_CompletionWritten :
    (∃ (s : State) (ctx : _) (c : _), s.cmd? ctx = some c ∧ s.live = true ∧ s.cmdReady ctx c = true ∧ s.cqRoom c.cq = true ∧ s.flowBlocked c = false ∧ s.hdp.blocked = false ∧ s.hdp.heldWrites = []) ∧
    (∃ (s : State) (cq : _) (w : _) (u : _) (ctx : _) (c : _), s.popWrite cq = some (w, u) ∧ w.what = .cqe ctx ∧ s.live = true ∧ s.cmd? ctx = some c ∧ entQuiet c.raw = false) ∧
    (∃ (s : State) (cq : _) (w : _) (u : _) (ctx : _) (c : _), s.popWrite cq = some (w, u) ∧ w.what = .cqe ctx ∧ s.live = true ∧ s.cmd? ctx = some c ∧ entQuiet c.raw = true) ∧
    (∃ (s : State) (cq : _) (w : _) (u : _) (ctx : _), s.popWrite cq = some (w, u) ∧ w.what = .cqe ctx ∧ s.live = true ∧ s.hif.faultValid = false) :=
  ⟨⟨cqAt 0 0xFFFFFFFF 0xFFFFFFFF (cmdAt 0 ({ aCmd .nop 0 with whole := some .ok }) run), 0, { aCmd .nop 0 with whole := some .ok }, by decide +kernel⟩,
   ⟨writing (.cqe 0) 0 [] (cqAt 0 0 1 (cmdAt 0 ({ aCmd .nop 0 with whole := some .ok, cqPos := some 0 }) run)), 0, wrOf (.cqe 0) 0 [], afterWrite 0 (writing (.cqe 0) 0 [] (cqAt 0 0 1 (cmdAt 0 ({ aCmd .nop 0 with whole := some .ok, cqPos := some 0 }) run))), 0, { aCmd .nop 0 with whole := some .ok, cqPos := some 0 }, by decide +kernel⟩,
   ⟨writing (.cqe 0) 0 [] (cqAt 0 0 1 (cmdAt 0 ({ aCmd .nop (2 ^ 10) with whole := some .ok, cqPos := some 0 }) run)), 0, wrOf (.cqe 0) 0 [], afterWrite 0 (writing (.cqe 0) 0 [] (cqAt 0 0 1 (cmdAt 0 ({ aCmd .nop (2 ^ 10) with whole := some .ok, cqPos := some 0 }) run))), 0, { aCmd .nop (2 ^ 10) with whole := some .ok, cqPos := some 0 }, by decide +kernel⟩,
   ⟨writing (.cqe 0) 0 [] (cqAt 0 0 1 (cmdAt 0 ({ aCmd .nop 0 with whole := some .ok, cqPos := some 0 }) run)), 0, wrOf (.cqe 0) 0 [], afterWrite 0 (writing (.cqe 0) 0 [] (cqAt 0 0 1 (cmdAt 0 ({ aCmd .nop 0 with whole := some .ok, cqPos := some 0 }) run))), 0, by decide +kernel⟩⟩

theorem test_witness_DescriptorsReturn :
    (∃ (s : State) (ctx : _) (desc : BitVec 256) (q : _) (u : _) (h : _), s.popRead (fun r => r.what == .seg (.cmd ctx)) = some (q, u) ∧ s.live = true ∧ s.chain? (.cmd ctx) = some h ∧ h.closing = false ∧ h.aborted = false ∧ s.dma.disable = false ∧ bit desc 191 = false) ∧
    (∃ (s : State) (ctx : _) (desc : BitVec 256) (q : _) (u : _) (h : _) (c : _), s.popRead (fun r => r.what == .seg (.cmd ctx)) = some (q, u) ∧ s.live = true ∧ s.chain? (.cmd ctx) = some h ∧ h.closing = false ∧ h.aborted = false ∧ s.dma.disable = false ∧ bit desc 191 = true ∧ s.cmd? ctx = some c ∧ c.op ≠ .readStream ∧ h.walk = none) ∧
    (∃ (s : State) (ctx : _) (link : BitVec 64) (q : _) (u : _) (h : _) (g : _), s.popRead (fun r => r.what == .link (.cmd ctx)) = some (q, u) ∧ s.live = true ∧ s.chain? (.cmd ctx) = some h ∧ h.segs.getLast? = some g ∧ h.closing = false ∧ h.aborted = false ∧ s.dma.disable = false ∧ bit link 0 = true ∧ bit g.flags 1 = true) :=
  ⟨⟨reading (.seg (.cmd 0)) 0x4000 (chainAt 0 ({ Chain.start 0x4000 with next := some 0x4000, reading := true }) (cmdRun .read readE)), 0, 0, rdOf (.seg (.cmd 0)) 0x4000, chainAt 0 ({ Chain.start 0x4000 with next := some 0x4000, reading := true }) (cmdRun .read readE), { Chain.start 0x4000 with next := some 0x4000, reading := true }, by decide +kernel⟩,
   ⟨reading (.seg (.cmd 0)) 0x4000 (chainAt 0 ({ Chain.start 0x4000 with next := some 0x4000, reading := true }) (cmdRun .read readE)), 0, BitVec.ofNat 256 (0x8000 * 2 ^ 64 + 64 * 2 ^ 128 + 2 ^ 191), rdOf (.seg (.cmd 0)) 0x4000, chainAt 0 ({ Chain.start 0x4000 with next := some 0x4000, reading := true }) (cmdRun .read readE), { Chain.start 0x4000 with next := some 0x4000, reading := true }, aCmd .read readE, by decide +kernel⟩,
   ⟨reading (.link (.cmd 0)) 0x4000 (chainAt 0 ({ Chain.start 0x4000 with segs := [aSeg], reading := true, next := none, park := some 0x4000 }) (cmdRun .read readE)), 0, 1, rdOf (.link (.cmd 0)) 0x4000, chainAt 0 ({ Chain.start 0x4000 with segs := [aSeg], reading := true, next := none, park := some 0x4000 }) (cmdRun .read readE), { Chain.start 0x4000 with segs := [aSeg], reading := true, next := none, park := some 0x4000 }, aSeg, by decide +kernel⟩⟩

theorem test_witness_ChainDataMoves :
    (∃ (s : State) (ctx : _) (tag : _) (q : _) (u : _) (ix : _) (off : Nat) (len : _) (skip : _) (c : _) (v : _), s.popTag tag (isSrcOf (.cmd ctx)) = some (q, u) ∧ q.what = .src (.cmd ctx) ix off len skip ∧ s.live = true ∧ s.dma.disable = false ∧ s.cmd? ctx = some c ∧ s.unit? ix = some v ∧ s.noneStarved) ∧
    (∃ (s : State) (ix : _) (u : _) (c : _), s.unit? ix = some u ∧ s.cmdOf u = some c ∧ s.going = true ∧ opPrograms c.op = true ∧ u.st = .dma ∧ u.dmaDone = true ∧ u.bundle = none ∧ s.dma.disable = false ∧ s.unitHeld u = false ∧ (s.chan (faChan u.addr)).fenced = false ∧ ((∀ e ∈ s.unitsOf c, e.2.pos < u.pos → ended e.2 = true ∨ e.2.linkPos.isSome = true))) ∧
    (∃ (s : State) (id : _) (w : _) (v : _) (ctx : _) (ix : _) (cw : _) (u : _) (n : _), s.popWrite id = some (w, v) ∧ w.what = .data ctx ix cw ∧ s.live = true ∧ s.dma.disable = false ∧ s.unit? ix = some u ∧ u.dmaLeft = [(cw, n)] ∧ w.bytes.length < n) ∧
    (∃ (s : State) (id : _) (w : _) (v : _) (ctx : _) (a : _), s.popWrite id = some (w, v) ∧ w.what = .segFlags (.cmd ctx) a ∧ s.live = true ∧ s.dma.disable = false) ∧
    (∃ (s : State) (id : _) (w : _) (v : _) (ctx : _) (a : _) (h : _) (g : _), s.popWrite id = some (w, v) ∧ w.what = .segStatus (.cmd ctx) a ∧ s.live = true ∧ s.chain? (.cmd ctx) = some h ∧ h.segs = [g] ∧ g.addr = a ∧ g.back = 1 ∧ h.halted = false ∧ s.dma.disable = false ∧ v.hdp.blocked = false ∧ v.hdp.heldWrites = []) :=
  ⟨⟨reading (.src (.cmd 0) 9 0 64 0) 0x8000 (unitAt 9 ({ aUnit with kind := .program, st := .dma }) (chainAt 0 { Chain.start 0x4000 with segs := [aSeg] } (cmdRun .program progE))), 0, 0, rdOf (.src (.cmd 0) 9 0 64 0) 0x8000, unitAt 9 ({ aUnit with kind := .program, st := .dma }) (chainAt 0 { Chain.start 0x4000 with segs := [aSeg] } (cmdRun .program progE)), 9, 0, 64, 0, aCmd .program progE, { aUnit with kind := .program, st := .dma }, by and_intros <;> first | decide +kernel | exact noneStarved_of (by decide +kernel)⟩,
   ⟨unitAt 9 ({ aUnit with kind := .program, st := .dma, dmaDone := true, pend := 0 }) (cmdAt 0 ({ aCmd .program progE with units := [9] }) (dieAt 3 run)), 9, { aUnit with kind := .program, st := .dma, dmaDone := true, pend := 0 }, { aCmd .program progE with units := [9] }, by decide +kernel⟩,
   ⟨writing (.data 0 9 1) 0 (List.replicate 64 0) (unitAt 9 ({ aUnit with st := .dma, dmaLeft := [(1, 100)] }) (cmdRun .read readE)), 0, wrOf (.data 0 9 1) 0 (List.replicate 64 0), afterWrite 0 (writing (.data 0 9 1) 0 (List.replicate 64 0) (unitAt 9 ({ aUnit with st := .dma, dmaLeft := [(1, 100)] }) (cmdRun .read readE))), 0, 9, 1, { aUnit with st := .dma, dmaLeft := [(1, 100)] }, 100, by decide +kernel⟩,
   ⟨writing (.segFlags (.cmd 0) 0x4000) 0 [0] (cmdRun .read readE), 0, wrOf (.segFlags (.cmd 0) 0x4000) 0 [0], afterWrite 0 (writing (.segFlags (.cmd 0) 0x4000) 0 [0] (cmdRun .read readE)), 0, 0x4000, by decide +kernel⟩,
   ⟨writing (.segStatus (.cmd 0) 0x4000) 0 [0] (chainAt 0 ({ Chain.start 0x4000 with segs := [({ aSeg with acc := 64, back := 1 })], next := none, closing := true }) (cmdRun .read readE)), 0, wrOf (.segStatus (.cmd 0) 0x4000) 0 [0], afterWrite 0 (writing (.segStatus (.cmd 0) 0x4000) 0 [0] (chainAt 0 ({ Chain.start 0x4000 with segs := [({ aSeg with acc := 64, back := 1 })], next := none, closing := true }) (cmdRun .read readE))), 0, 0x4000, { Chain.start 0x4000 with segs := [({ aSeg with acc := 64, back := 1 })], next := none, closing := true }, { aSeg with acc := 64, back := 1 }, by decide +kernel⟩⟩

theorem test_witness_ChainErrors :
    (∃ (s : State) (ctx : _) (write : _) (tag : _) (f : _) (u : _) (h : _), s.failing (.cmd ctx) write tag = some (f, u) ∧ s.live = true ∧ s.dma.disable = false ∧ s.chain? (.cmd ctx) = some h ∧ h.halted = false ∧ s.dma.haltQ = []) ∧
    (∃ (s : State) (ctx : _) (rest : _) (h : _), s.hcpFree ∧ s.dma.haltQ = ctx :: rest ∧ s.chain? (.cmd ctx) = some h) ∧
    (∃ (s : State) (ctx : _) (rest : _) (h : _) (c : _), s.hcpFree ∧ s.dma.haltQ = ctx :: rest ∧ s.chain? (.cmd ctx) = some h ∧ s.cmd? ctx = some c) ∧
    (∃ (s : State), s.hcpFree ∧ s.dma.disable = false) :=
  ⟨⟨reading (.seg (.cmd 0)) 0x4000 (chainAt 0 ({ Chain.start 0x4000 with reading := true }) (cmdRun .read readE)), 0, false, 0, .rd (rdOf (.seg (.cmd 0)) 0x4000), chainAt 0 ({ Chain.start 0x4000 with reading := true }) (cmdRun .read readE), { Chain.start 0x4000 with reading := true }, by decide +kernel⟩,
   ⟨(chainAt 0 ({ Chain.start 0x4000 with halted := true, failed := [.rd (rdOf (.seg (.cmd 0)) 0x4000)] }) (cmdRun .read readE)).onDma fun d => { d with haltQ := [0, 7] }, 0, [7], { Chain.start 0x4000 with halted := true, failed := [.rd (rdOf (.seg (.cmd 0)) 0x4000)] }, by decide +kernel⟩,
   ⟨(chainAt 0 ({ Chain.start 0x4000 with halted := true, failed := [.rd (rdOf (.seg (.cmd 0)) 0x4000)] }) (cmdRun .read readE)).onDma fun d => { d with haltQ := [0, 7] }, 0, [7], { Chain.start 0x4000 with halted := true, failed := [.rd (rdOf (.seg (.cmd 0)) 0x4000)] }, aCmd .read readE, by decide +kernel⟩,
   ⟨chainAt 0 { Chain.start 0x4000 with todo := [{ ix := 9, cw := 0, off := 0, len := 1, bytes := [0] }] } (cmdRun .read readE), by decide +kernel⟩⟩

theorem test_witness_LegacyCopyCompletes :
    (∃ (s : State) (data : Word), s.hcpFree ∧ s.pwr.st = .fire ∧ fld data 16 2 = 1 ∧ s.dma.leg.busy = false) ∧
    (∃ (s : State) (data : Word), s.hcpFree ∧ s.pwr.st = .fire ∧ fld data 16 2 = 2 ∧ s.dma.leg.halt = true ∧ s.dma.leg.busy = true) ∧
    (∃ (s : State) (data : Word), s.hcpFree ∧ s.pwr.st = .fire ∧ fld data 16 2 = 3 ∧ s.dma.leg.halt = true) ∧
    (∃ (s : State) (tag : _) (q : _) (u : _), s.popTag tag (fun r => isRdOf .legSrc r || isRdOf .legDst r || r.what == .gone) = some (q, u) ∧ q.what ≠ .gone ∧ s.live = true ∧ s.dma.leg.busy = true ∧ s.dma.disable = false ∧ s.dma.leg.halt = false) :=
  ⟨⟨run, 0x10001, by decide +kernel⟩,
   ⟨run.onDma fun d => { d with leg := { d.leg with busy := true, halt := true } }, 0x20000, by decide +kernel⟩,
   ⟨run.onDma fun d => { d with leg := { d.leg with busy := true, halt := true } }, 0x30000, by decide +kernel⟩,
   ⟨reading (.seg .legSrc) 0x4000 (run.onDma fun d => { d with leg := { d.leg with busy := true } }), 0, rdOf (.seg .legSrc) 0x4000, run.onDma fun d => { d with leg := { d.leg with busy := true } }, by decide +kernel⟩⟩

theorem test_witness_StreamsComplete :
    (∃ (s : State) (ctx : _) (ix : _) (c : _) (h : _) (x : _), s.cmd? ctx = some c ∧ s.chain? (.cmd ctx) = some h ∧ h.stream = some x ∧ s.going = true ∧ c.whole = none ∧ c.stopped = false ∧ c.predWait = false ∧ x.known = true ∧ x.left ≠ 0 ∧ x.ended = false ∧ h.moves = true ∧ s.dma.disable = false ∧ s.isFree ix = true ∧ admits x = true ∧ faInst x.addr = s.sys.instance_.toNat ∧ s.isWaster x.addr = false) ∧
    (∃ (s : State) (ctx : _) (cons : _) (q : _) (u : _) (c : _) (h : _) (x : _), s.popRead (fun r => r.what == .cons ctx) = some (q, u) ∧ s.live = true ∧ s.dma.disable = false ∧ s.cmd? ctx = some c ∧ s.chain? (.cmd ctx) = some h ∧ h.stream = some x ∧ x.known = true ∧ x.confirming = true ∧ x.again = false ∧ x.paused = false ∧ x.high.toNat ≤ (x.prod - cons).toNat ∧ c.sq < 256 ∧ s.pwr.st = .fire) ∧
    (∃ (s : State) (ctx : _) (q : _) (u : _) (c : _) (h : _) (x : _), s.popRead (fun r => r.what == .cons ctx) = some (q, u) ∧ s.live = true ∧ s.dma.disable = false ∧ s.cmd? ctx = some c ∧ s.chain? (.cmd ctx) = some h ∧ h.stream = some x ∧ x.confirming = false) :=
  ⟨⟨chainAt 0 ({ Chain.start 0x4000 with stream := some aStream, segs := [aSeg], next := none }) (cmdAt 0 (aCmd .readStream (sqe 4 (fa 3 0 7 2) 2 (0x4000 * 2 ^ 128 + 15 * 2 ^ 272))) (dieAt 3 run)), 0, 131071, aCmd .readStream (sqe 4 (fa 3 0 7 2) 2 (0x4000 * 2 ^ 128 + 15 * 2 ^ 272)), { Chain.start 0x4000 with stream := some aStream, segs := [aSeg], next := none }, aStream, by decide +kernel⟩,
   ⟨reading (.cons 0) 0x5000 (chainAt 0 ({ Chain.start 0x4000 with stream := some ({ aStream with confirming := true, high := 5, prod := 5 }), segs := [aSeg], next := none }) (cmdAt 0 (aCmd .readStream (sqe 4 (fa 3 0 7 2) 2 (0x4000 * 2 ^ 128 + 15 * 2 ^ 272))) (dieAt 3 run))), 0, 0, rdOf (.cons 0) 0x5000, chainAt 0 ({ Chain.start 0x4000 with stream := some ({ aStream with confirming := true, high := 5, prod := 5 }), segs := [aSeg], next := none }) (cmdAt 0 (aCmd .readStream (sqe 4 (fa 3 0 7 2) 2 (0x4000 * 2 ^ 128 + 15 * 2 ^ 272))) (dieAt 3 run)), aCmd .readStream (sqe 4 (fa 3 0 7 2) 2 (0x4000 * 2 ^ 128 + 15 * 2 ^ 272)), { Chain.start 0x4000 with stream := some ({ aStream with confirming := true, high := 5, prod := 5 }), segs := [aSeg], next := none }, { aStream with confirming := true, high := 5, prod := 5 }, by decide +kernel⟩,
   ⟨reading (.cons 0) 0x5000 (chainAt 0 ({ Chain.start 0x4000 with stream := some (aStream), segs := [aSeg], next := none }) (cmdAt 0 (aCmd .readStream (sqe 4 (fa 3 0 7 2) 2 (0x4000 * 2 ^ 128 + 15 * 2 ^ 272))) (dieAt 3 run))), 0, rdOf (.cons 0) 0x5000, chainAt 0 ({ Chain.start 0x4000 with stream := some (aStream), segs := [aSeg], next := none }) (cmdAt 0 (aCmd .readStream (sqe 4 (fa 3 0 7 2) 2 (0x4000 * 2 ^ 128 + 15 * 2 ^ 272))) (dieAt 3 run)), aCmd .readStream (sqe 4 (fa 3 0 7 2) 2 (0x4000 * 2 ^ 128 + 15 * 2 ^ 272)), { Chain.start 0x4000 with stream := some (aStream), segs := [aSeg], next := none }, aStream, by decide +kernel⟩⟩

theorem test_witness_HdpRecovers :
    (∃ (s : State), s.hdp.drain ≠ 0) ∧
    (∃ (s : State), s.live = true ∧ s.hdp.blocked = true ∧ s.hdp.drain = 0) :=
  ⟨⟨run.onHdp fun h => { h with drain := 1 }, by decide +kernel⟩,
   ⟨run.onHdp fun h => { h with blocked := true, heldWrites := [wrOf .legData 1 [0]], heldReads := [rdOf .gone 0] }, by decide +kernel⟩⟩


theorem test_witness_ArbiterDecisionCompletes :
    (∃ (s : State) (ch : _) (io : GrantIo) (ix : _), s.going = true ∧ ch < 32 ∧ (s.chan ch).next = none ∧ s.asks ch ≠ [] ∧ io.ecc = .double ix) ∧
    (∃ (s : State) (ch : _) (io : GrantIo) (u : _), s.going = true ∧ ch < 32 ∧ (s.chan ch).next = none ∧ s.asks ch ≠ [] ∧ eccHalts io.ecc = false ∧ State.arbitrate ch (s.ldg.units.length + 1) (s.ecc io.ecc) = (u, none)) ∧
    (∃ (s : State) (ch : _) (io : GrantIo) (u : _) (l : _) (a : _) (ms : _) (d : _) (v : _), s.going = true ∧ ch < 32 ∧ (s.chan ch).next = none ∧ s.asks ch ≠ [] ∧ eccHalts io.ecc = false ∧ State.arbitrate ch (s.ldg.units.length + 1) (s.ecc io.ecc) = (u, some (l, a, ms)) ∧ dieOf u l = some d ∧ u.grant ch l d a ms io = some v) ∧
    (∃ (s : State) (ch : _), ((s.going = false ∨ 32 ≤ ch ∨ (s.chan ch).next ≠ none ∨ s.asks ch = []))) :=
  ⟨⟨asks3, 0, { io0 with ecc := .double 131071 }, 131071, by decide +kernel⟩,
   ⟨unitAt 9 { aUnit with kind := .program, mark := .started, pecks := [0] } ((ready3.onLun 3 fun t => { t with orderQ := [9] }).onLdg fun l => { l with wasters := [{ lun := 3, plane := 0, block := 7, cause := 0, grown := true, consolidated := false }] }), 0, io0, (State.arbitrate 0 2 (unitAt 9 { aUnit with kind := .program, mark := .started, pecks := [0] } ((ready3.onLun 3 fun t => { t with orderQ := [9] }).onLdg fun l => { l with wasters := [{ lun := 3, plane := 0, block := 7, cause := 0, grown := true, consolidated := false }] }))).1, by decide +kernel⟩,
   ⟨asks3, 0, io0, asks3, 3, Ask.mk .reset 131072 1 false, [], aDie, (asks3.grant 0 3 aDie (Ask.mk .reset 131072 1 false) ([]) io0).getD run, by decide +kernel⟩,
   ⟨run, 31, by decide +kernel⟩⟩

theorem test_witness_ArbiterWinnerMayIssue :
    (∃ (s : State) (ch : _), s.asks ch ≠ []) ∧
    (∃ (s : State) (ch : _) (t : _) (a : _), ch < 32 ∧ s.winner ch = some (t, a)) :=
  ⟨⟨asks3, 0, by decide +kernel⟩,
   ⟨asks3, 0, 3, Ask.mk .reset 131072 1 false, by decide +kernel⟩⟩

theorem test_witness_ArrayStartPinEndCompletes :
    (∃ (s : State) (ch : _) (g : _) (d : _), s.GrantAt ch g d ∧ g.starting ≠ [] ∧ g.fin ≠ .running) ∧
    (∃ (s : State) (ch : _), (s.chan ch).grant = none) ∧
    (∃ (s : State) (ch : _) (status : _) (t : _), exec (.arrayStartPinEnd ch status) s = .next t) :=
  ⟨⟨unitAt 9 { aUnit with kind := .program } (grantAt 0 ({ aGrant .program (.ended 0 0) with starting := [9] }) ready3), 0, { aGrant .program (.ended 0 0) with starting := [9] }, aDie, by decide +kernel⟩,
   ⟨run, 31, by decide +kernel⟩,
   ⟨run, 31, [], run, rfl⟩⟩

theorem test_witness_ScheduleEndFreesPins :
    ∃ (s : State) (ch : _) (g : _) (d : _) (r : _) (st : _), s.GrantAt ch g d ∧ g.fin = .ended r st ∧ g.starting = [] ∧ ((g.kind = .raw → ∀ e ∈ (s.chan ch).arriving, e.ix ∉ g.members)) :=
  ⟨granted .levels (.ended 0 0), 0, aGrant .levels (.ended 0 0), aDie, 0, 0, by decide +kernel⟩

theorem test_witness_ScheduleEndActs :
    (∃ (s : State) (ch : _) (g : _) (d : _) (r : _) (st : _), s.GrantAt ch g d ∧ g.fin = .ended r st ∧ g.starting = [] ∧ g.kind = .temperature) ∧
    (∃ (s : State) (ch : _) (g : _) (d : _) (r : _) (st : _), s.GrantAt ch g d ∧ g.fin = .ended r st ∧ g.starting = [] ∧ g.kind = .levels) ∧
    (∃ (s : State) (ch : _) (g : _) (d : _) (st : _) (o : _), s.GrantAt ch g d ∧ g.fin = .ended 4 st ∧ g.starting = [] ∧ g.kind = .suspend ∧ (s.lun g.lun).op = some o) ∧
    (∃ (s : State) (ch : _) (g : _) (d : _) (st : _) (o : _), s.GrantAt ch g d ∧ g.fin = .ended 5 st ∧ g.starting = [] ∧ g.kind = .suspend ∧ (s.lun g.lun).op = some o) ∧
    (∃ (s : State) (ch : _) (g : _) (d : _) (r : _) (st : _) (o : _), s.GrantAt ch g d ∧ g.fin = .ended r st ∧ g.starting = [] ∧ g.kind = .resume ∧ (s.lun g.lun).op = some o) ∧
    (∃ (s : State) (ch : _) (g : _) (d : _) (st : _), s.GrantAt ch g d ∧ g.fin = .ended 3 st ∧ g.starting = [] ∧ g.kind = .readData ∧ g.cacheNext = none) ∧
    (∃ (s : State) (ch : _) (g : _) (d : _) (st : _) (ix : _) (u : _) (o : _), s.GrantAt ch g d ∧ g.fin = .ended 3 st ∧ g.starting = [] ∧ g.kind = .poll ∧ g.members = [ix] ∧ (s.lun g.lun).op = some o ∧ o.checking = false ∧ s.unit? ix = some u ∧ u.replay = .none) :=
  ⟨⟨granted .temperature (.ended 0 0x45), 0, aGrant .temperature (.ended 0 0x45), aDie, 0, 0x45, by decide +kernel⟩,
   ⟨granted .levels (.ended 0 0), 0, aGrant .levels (.ended 0 0), aDie, 0, 0, by decide +kernel⟩,
   ⟨granted .suspend (.ended 4 0), 0, aGrant .suspend (.ended 4 0), aDie, 0, anArray, by decide +kernel⟩,
   ⟨granted .suspend (.ended 5 0), 0, aGrant .suspend (.ended 5 0), aDie, 0, anArray, by decide +kernel⟩,
   ⟨(granted .resume (.ended 0 0)).onLun 3 fun t => { t with op := some ({ anArray with suspended := true }) }, 0, aGrant .resume (.ended 0 0), aDie, 0, 0, { anArray with suspended := true }, by decide +kernel⟩,
   ⟨granted .readData (.ended 3 0), 0, aGrant .readData (.ended 3 0), aDie, 0, by decide +kernel⟩,
   ⟨unitAt 9 ({ aUnit with kind := .program, st := .onDie }) (granted .poll (.ended 3 0)), 0, aGrant .poll (.ended 3 0), aDie, 0, 9, { aUnit with kind := .program, st := .onDie }, anArray, by decide +kernel⟩⟩

theorem test_witness_GrantReleaseCompletes :
    ∃ (s : State) (ch : _) (g : _) (d : _) (p : _), s.GrantAt ch g d ∧ g.fin = .released p ∧ g.starting = [] ∧ g.kind = .raw :=
  ⟨granted .raw (.released (some 7)), 0, aGrant .raw (.released (some 7)), aDie, some 7, by decide +kernel⟩

theorem test_witness_GrantLimitFences :
    ∃ (s : State) (ch : _) (g : _) (d : _) (n : _), s.GrantAt ch g d ∧ g.fin = .overLimit n ∧ (s.chan ch).fenced = false :=
  ⟨unitAt 9 { aUnit with kind := .program, st := .issued } (granted .program (.overLimit 77)), 0, aGrant .program (.overLimit 77), aDie, 77, by decide +kernel⟩

theorem test_witness_StepReloadCompletes :
    (∃ (s : State) (step : _), s.live = true ∧ s.spm.readable = true ∧ s.sched.reloading.head? = some step ∧ ((∀ l g, s.grantOf l = some g → g.fin ≠ .waiting step))) ∧
    (∃ (s : State) (step : _) (content : _) (t : _), exec (.stepReloadDone step content) s = .next t) :=
  ⟨⟨run.onSched fun h => { h with reloading := [6143, 3] }, 6143, by and_intros <;> first | (intro l g h; cases h) | decide +kernel⟩,
   ⟨run, 6143, 5, run, rfl⟩⟩

theorem test_witness_PollAndWindowFire :
    (∃ (s : State) (lun : _), s.going = true ∧ s.FallsDue lun (s.lun lun).ev.poll) ∧
    (∃ (s : State) (lun : _) (o : _), s.going = true ∧ s.FallsDue lun (s.lun lun).ev.win ∧ (s.lun lun).op = some o) ∧
    (∃ (s : State) (lun : _), s.dozing = true ∧ s.delivers lun (s.lun lun).ev.poll = true) ∧
    (∃ (s : State) (lun : _), s.delivers lun (s.lun lun).ev.poll = false) ∧
    (∃ (s : State) (lun : _), s.delivers lun (s.lun lun).ev.win = false) :=
  ⟨⟨due (fun e => { e with poll := some (Event.mk 10000000 none) }) ready3, 3, by decide +kernel⟩,
   ⟨due (fun e => { e with win := some (Event.mk 9999001 none) }) (granted .poll .running), 3, anArray, by decide +kernel⟩,
   ⟨(due (fun e => { e with poll := some (Event.mk 10000000 none) }) ready3).onPwr fun p => { p with st := .soak }, 3, by decide +kernel⟩,
   ⟨due (fun e => { e with poll := some (Event.mk 10000001 none) }) ready3, 3, by decide +kernel⟩,
   ⟨ready3, 511, by decide +kernel⟩⟩

theorem test_witness_RunTimeDecidesSuspend :
    (∃ (s : State) (lun : _) (d : _) (o : _) (ix : _) (u : _), s.going = true ∧ s.FallsDue lun (s.lun lun).ev.run ∧ dieOf s lun = some d ∧ (s.lun lun).op = some o ∧ o.suspended = false ∧ o.checking = false ∧ ((∀ j ∈ o.members, ∃ v, s.unit? j = some v ∧ v.st = .onDie)) ∧ (s.lun lun).cacheIx = none ∧ (s.lun lun).readQ.head? = some ix ∧ s.unit? ix = some u ∧ s.unitHeld u = false ∧ unitClass u ≤ 1 ∧ u.st = .queued ∧ bit (s.chan (lunChan lun)).cfg 2 = true ∧ bit d.caps (if o.phase = 4 then 7 else 6) = true ∧ o.susps < (if o.phase = 4 then d.suspMaxErs else d.suspMaxPgm) ∧ s.passed o.runFrom (1000 * (if o.phase = 4 then d.runMinErs else d.runMinPgm)) = true) ∧
    (∃ (s : State) (lun : _), s.going = true ∧ s.FallsDue lun (s.lun lun).ev.run ∧ (s.lun lun).op = none) :=
  ⟨⟨due (fun e => { e with run := some (Event.mk 0 none) }) ((unitAt 9 { aUnit with kind := .program, st := .onDie } (unitAt 10 aUnit (ready3.onLun 3 fun t => { t with op := some anArray, readQ := [10] }))).onChan 0 fun c => { c with cfg := 0x1E }), 3, aDie, anArray, 10, aUnit, by decide +kernel⟩,
   ⟨due (fun e => { e with run := some (Event.mk 0 none) }) ready3, 3, by decide +kernel⟩⟩

theorem test_witness_ListEventsComplete :
    (∃ (s : State) (lun : _), s.going = true ∧ s.FallsDue lun (s.lun lun).ev.merge) ∧
    (∃ (s : State) (lun : _), s.going = true ∧ s.FallsDue lun (s.lun lun).ev.backoff) ∧
    (∃ (s : State) (lun : _) (ix : _) (u : _), s.going = true ∧ s.FallsDue lun (s.lun lun).ev.backoff ∧ s.ldg.units = [(ix, u)] ∧ faLun u.addr = lun ∧ u.bundle = none ∧ u.st = .queued ∧ u.step ≠ 0 ∧ u.step < 16 ∧ u.order = false ∧ ix ∉ (s.lun lun).readQ ∧ ix ∉ (s.lun lun).orderQ) ∧
    (∃ (s : State) (ix : _) (u : _), s.going = true ∧ s.unit? ix = some u ∧ u.urgent = false ∧ ended u = false ∧ s.urgentNow u = true) ∧
    (∃ (s : State) (ix : _) (u : _) (gen : _), s.going = true ∧ s.unit? ix = some u ∧ u.gen ≠ gen) ∧
    (∃ (s : State) (ix : _) (gen : _), s.going = true ∧ s.unit? ix = none ∧ s.genOf ix ≠ gen) :=
  ⟨⟨due (fun e => { e with merge := some (Event.mk 0 none) }) ready3, 3, by decide +kernel⟩,
   ⟨due (fun e => { e with backoff := some (Event.mk 0 none) }) ready3, 3, by decide +kernel⟩,
   ⟨due (fun e => { e with backoff := some (Event.mk 0 none) }) (unitAt 9 ({ aUnit with step := 1 }) ready3), 3, 9, { aUnit with step := 1 }, by decide +kernel⟩,
   ⟨unitAt 9 ({ aUnit with fetched := 0 }) (cmdAt 0 { aCmd .read readE with units := [9], deadline := 1 } (ready3.onLun 3 fun t => { t with readQ := [9] })), 9, { aUnit with fetched := 0 }, by decide +kernel⟩,
   ⟨unitAt 9 aUnit ready3, 9, aUnit, 2, by decide +kernel⟩,
   ⟨ready3, 131071, 2, by decide +kernel⟩⟩


theorem test_witness_PacketLeavesQueue :
    ∃ (s : State) (ch : _) (e : _), s.PacketAt ch e :=
  ⟨incoming dUnit, 0, Expect.mk 9 1 0 64 false, by decide +kernel⟩

theorem test_witness_PacketCompleteActs :
    (∃ (s : State) (ch : _) (e : _) (u : _), s.PacketAt ch e ∧ s.unit? e.ix = some u ∧ u.gen ≠ e.gen) ∧
    (∃ (s : State) (ch : _) (e : _) (u : _), s.PacketAt ch e ∧ s.unit? e.ix = some u ∧ u.gen = e.gen ∧ ((ended u = true ∨ e.gone = true))) ∧
    (∃ (s : State) (ch : _) (e : _) (u : _), s.PacketAt ch e ∧ s.unit? e.ix = some u ∧ u.gen = e.gen ∧ ended u = false ∧ e.gone = false ∧ replayable u = true) ∧
    (∃ (s : State) (ch : _) (bytes : _) (e : _) (u : _) (p : _), s.PacketAt ch e ∧ s.unit? e.ix = some u ∧ u.gen = e.gen ∧ ended u = false ∧ e.gone = false ∧ u.kind ≠ .fold ∧ e.region < 4 ∧ bytes.length = e.len ∧ s.landing e.ix u e.region = some p ∧ u.step < 16 ∧ u.pend &&& ~~~(u.raws.foldl (fun m q => m ||| (1#4 <<< q.1)) (1#4 <<< e.region)) ≠ 0 ∧ fld s.dec.cfg 16 12 < Codec.zeroBits bytes ∧ s.dec.softCount ≠ 0) ∧
    (∃ (s : State) (ch : _) (bytes : _) (e : _) (u : _), s.PacketAt ch e ∧ s.unit? e.ix = some u ∧ u.gen = e.gen ∧ ended u = false ∧ e.gone = false ∧ e.region < 4 ∧ bytes.length = e.len ∧ u.step < 16 ∧ u.pend &&& ~~~(u.raws.foldl (fun m q => m ||| (1#4 <<< q.1)) (1#4 <<< e.region)) ≠ 0 ∧ Codec.zeroBits bytes ≤ fld s.dec.cfg 16 12) :=
  ⟨⟨incoming ({ dUnit with gen := 2 }), 0, Expect.mk 9 1 0 64 false, { dUnit with gen := 2 }, by decide +kernel⟩,
   ⟨incoming ({ dUnit with st := .done }), 0, Expect.mk 9 1 0 64 false, { dUnit with st := .done }, by decide +kernel⟩,
   ⟨incoming (dUnit), 0, Expect.mk 9 1 0 64 false, dUnit, by decide +kernel⟩,
   ⟨incoming (dUnit), 0, List.replicate 64 0, Expect.mk 9 1 0 64 false, dUnit, 5, by decide +kernel⟩,
   ⟨incoming (dUnit), 0, List.replicate 64 0xFF, Expect.mk 9 1 0 64 false, dUnit, by decide +kernel⟩⟩

theorem test_witness_PacketMismatchRecorded :
    ∃ (s : State) (ch : _) (e : _), s.PacketAt ch e :=
  ⟨incoming dUnit, 0, Expect.mk 9 1 0 64 false, by decide +kernel⟩

theorem test_witness_FlushEmptiesQueue :
    (∃ (s : State) (ch : _), s.inReset = false ∧ s.pwr.st = .fire ∧ (s.ingressOf ch).flush = true ∧ (s.ingressOf ch).closeShort = false) ∧
    (∃ (s : State) (ch : _), s.inReset = false ∧ s.pwr.st = .fire ∧ (s.egressOf ch).flush = true ∧ (s.egressOf ch).closeShort = false) ∧
    (∃ (s : State) (ch : _) (e : Bool), (((if e then s.egressOf ch else s.ingressOf ch).flush = false ∨
      (if e then s.egressOf ch else s.ingressOf ch).closeShort = true))) :=
  ⟨⟨run.onPool fun p => { p with ingress := [(31, { Queue.init with wptr := 3, rptr := 127, flush := true })], flushAsk := [false], flushCh := 31 }, 31, by decide +kernel⟩,
   ⟨run.onPool fun p => { p with egress := [(31, { Queue.init with wptr := 3, rptr := 127, flush := true })], flushAsk := [true], flushCh := 31 }, 31, by decide +kernel⟩,
   ⟨run, 31, true, by decide +kernel⟩⟩

theorem test_witness_PoolFlushWrites :
    (∃ (s : State) (data : Word), s.hcpFree ∧ bit data 8 = true ∧ s.pool.flushAsk = [] ∧ (s.chan (fld data 0 5)).fenced = true) ∧
    (∃ (s : State) (data : Word), s.hcpFree ∧ bit data 9 = true ∧ s.pool.flushAsk = [] ∧ (s.chan (fld data 0 5)).fenced = true) ∧
    (∃ (s : State) (data : Word), s.hcpFree ∧ bit data 8 = true ∧ s.pool.flushAsk = [] ∧ (s.chan (fld data 0 5)).fenced = false) ∧
    (∃ (s : State) (data : Word), s.hcpFree ∧ bit data 9 = true ∧ s.pool.flushAsk = [] ∧ (s.chan (fld data 0 5)).fenced = false) ∧
    (∃ (s : State), s.hcpFree ∧ s.pool.flushAsk ≠ []) :=
  ⟨⟨run.onChan 31 fun c => { c with fenced := true }, 0x31F, by decide +kernel⟩,
   ⟨run.onChan 31 fun c => { c with fenced := true }, 0x31F, by decide +kernel⟩,
   ⟨run, 0x31F, by decide +kernel⟩,
   ⟨run, 0x31F, by decide +kernel⟩,
   ⟨run.onPool fun p => { p with flushAsk := [true] }, by decide +kernel⟩⟩

theorem test_witness_PeckGrantCompletes :
    (∃ (s : State) (c : _) (r : _) (rest : _) (pecks : _) (u : _), s.live = true ∧ s.servedNext = some c ∧ s.pool.queueOf c = r :: rest ∧ s.freePecks pecks = true ∧ pecks.length = r.count ∧ r.ix < 131072 ∧ s.unit? r.ix = some u ∧ u.kind.reads = true ∧ u.bundle = none ∧ u.pecks = [] ∧ ((∀ k, s.cmdOf u = some k → opPrograms k.op = false ∧ k.op ≠ .raw)) ∧ (peckCws u pecks.length).length = pecks.length) ∧
    (∃ (s : State) (ix : _) (k : _) (rest : _) (p : _) (q : _) (u : _), s.live = true ∧ s.pool.softQ = (ix, k) :: rest ∧ 2 ≤ s.pool.softFree ∧ s.freePecks [p, q] = true ∧ s.unit? ix = some u) :=
  ⟨⟨unitAt 9 aUnit (ready3.onPool fun p => { p with allocQ := [(31, [AllocReq.mk 9 2 true, AllocReq.mk 10 1 false])] }), 31, AllocReq.mk 9 2 true, [AllocReq.mk 10 1 false], [2047, 0], aUnit, by decide +kernel⟩,
   ⟨unitAt 9 aUnit (ready3.onPool fun p => { p with softQ := [(9, 1), (9, 2)] }), 9, 1, [(9, 2)], 2047, 0, aUnit, by decide +kernel⟩⟩

theorem test_witness_FoldAdmissionCompletes :
    (∃ (s : State) (lun : _) (ix : _) (u : _) (pecks : _), s.going = true ∧ (s.lun lun).orderQ.head? = some ix ∧ s.unit? ix = some u ∧ u.kind = .fold ∧ u.pecks = [] ∧ s.orderReady u = true ∧ s.foldOpen lun = false ∧ s.foldRoom u.chan = true ∧ s.refuses u = none ∧ s.pool.queueOf u.chan = [] ∧ u.pecksAsked = false ∧ (s.askPecks u.chan ix 16).servedNext = some u.chan ∧ s.freePecks pecks = true ∧ pecks.length = 16) ∧
    (∃ (s : State) (lun : _) (ix : _) (u : _), s.going = true ∧ (s.lun lun).orderQ.head? = some ix ∧ s.unit? ix = some u ∧ u.kind = .fold ∧ u.pecks = [] ∧ s.orderReady u = true ∧ s.foldOpen lun = false ∧ s.foldRoom u.chan = true ∧ s.refuses u = none ∧ s.pool.queueOf u.chan = [] ∧ s.pool.grants u.chan 16 = false ∧ u.pecksAsked = false) ∧
    (∃ (s : State) (lun : _) (ix : _) (u : _) (st : _), s.going = true ∧ (s.lun lun).orderQ.head? = some ix ∧ s.unit? ix = some u ∧ u.kind = .fold ∧ u.pecks = [] ∧ s.orderReady u = true ∧ s.foldOpen lun = false ∧ s.foldRoom u.chan = true ∧ s.refuses u = some st ∧ ((∀ ctx h, u.ctx = some ctx → s.chain? (.cmd ctx) = some h → h.aborted = false))) :=
  ⟨⟨unitAt 9 ({ aUnit with kind := .fold, mark := .started }) (ready3.onLun 3 fun t => { t with orderQ := [9] }), 3, 9, { aUnit with kind := .fold, mark := .started }, List.range 16, by decide +kernel⟩,
   ⟨unitAt 9 ({ aUnit with kind := .fold, mark := .started }) ((ready3.onLun 3 fun t => { t with orderQ := [9] }).onPool fun p => { p with sharedMin := 0, pecks := (List.range 1537).map fun i => (i, { aPeck 0 with chan := i / 192 }) }), 3, 9, { aUnit with kind := .fold, mark := .started }, by decide +kernel⟩,
   ⟨unitAt 9 ({ aUnit with kind := .fold, mark := .started }) ((ready3.onLun 3 fun t => { t with orderQ := [9] }).onChan 0 fun c => { c with fenced := true }), 3, 9, { aUnit with kind := .fold, mark := .started }, .channelFenced, by and_intros <;> first | (intro ctx h e k; cases k) | decide +kernel⟩⟩

theorem test_witness_DecodeStartCompletes :
    (∃ (s : State) (kind : _) (i : _) (lane : _), s.live = true ∧ s.dec.nextStart kind = some (i, lane)) ∧
    (∃ (s : State) (kind : _), s.dec.nextStart kind = none) ∧
    (∃ (s : State) (lane : _) (rest : _), s.live = true ∧ s.dec.spareDue = lane :: rest ∧ 24 ≤ lane ∧ lane < 26) :=
  ⟨⟨run.onDec fun d => { d with hardQ := [DecItem.mk 9 1 0 false 0], hardOut := 0xFFFFFF, spareIn := 2 }, .hard, DecItem.mk 9 1 0 false 0, 25, by decide +kernel⟩,
   ⟨run, .bch, by decide +kernel⟩,
   ⟨run.onDec fun d => { d with spareDue := [25] }, 25, [], by decide +kernel⟩⟩

theorem test_witness_DecoderTakesHeadOfQueue :
    (∃ (d : Dec) (i : _) (lane : _), d.nextStart .hard = some (i, lane)) ∧
    (∃ (d : Dec) (i : _) (lane : _), d.nextStart .soft = some (i, lane)) ∧
    (∃ (d : Dec) (i : _) (lane : _), d.nextStart .bch = some (i, lane)) :=
  ⟨⟨{ Dec.reset with hardQ := [DecItem.mk 9 1 0 false 0], hardOut := 0xFFFFFF, spareIn := 2 }, DecItem.mk 9 1 0 false 0, 25, by decide +kernel⟩,
   ⟨{ Dec.reset with hardQ := [DecItem.mk 9 1 0 false 7], softQ := [DecItem.mk 9 1 1 true 9], hardOut := 0x3FFFFFF }, DecItem.mk 9 1 0 false 7, 32, by decide +kernel⟩,
   ⟨{ Dec.reset with bchQ := [DecItem.mk 9 1 4 false 0], bchOut := 1 }, DecItem.mk 9 1 4 false 0, 65, by decide +kernel⟩⟩

theorem test_witness_DecodeEndCounts :
    (∃ (s : State) (lane : _) (i : _) (cfg : _) (llr : _) (u : _), s.live = true ∧ SMap.get? s.dec.busy lane = some (i, cfg, llr) ∧ i.soft = false ∧ i.cw < 4 ∧ s.unit? i.ix = some u ∧ u.gen = i.gen ∧ ended u = false ∧ lane < 26) ∧
    (∃ (s : State) (lane : _) (i : _) (cfg : _) (llr : _) (u : _), s.live = true ∧ SMap.get? s.dec.busy lane = some (i, cfg, llr) ∧ i.soft = false ∧ i.cw < 4 ∧ s.unit? i.ix = some u ∧ u.gen ≠ i.gen) ∧
    (∃ (s : State) (lane : _) (i : _) (cfg : _) (llr : _) (u : _), s.live = true ∧ SMap.get? s.dec.busy (32 + lane) = some (i, cfg, llr) ∧ i.soft = true ∧ s.unit? i.ix = some u ∧ u.gen = i.gen ∧ ended u = false) ∧
    (∃ (s : State) (lane : _) (i : _) (cfg : _) (llr : _) (u : _), s.live = true ∧ SMap.get? s.dec.busy (64 + lane) = some (i, cfg, llr) ∧ i.cw = 4 ∧ s.unit? i.ix = some u ∧ u.gen = i.gen ∧ ended u = false ∧ u.kind ≠ .fold) :=
  ⟨⟨unitAt 9 ({ dUnit with st := .decoding }) (pecked (decoding 25 (DecItem.mk 9 1 0 false 0) ready3)), 25, DecItem.mk 9 1 0 false 0, Dec.reset.cfg, Dec.reset.llr, { dUnit with st := .decoding }, by decide +kernel⟩,
   ⟨unitAt 9 ({ dUnit with st := .decoding }) (pecked (decoding 25 (DecItem.mk 9 2 0 false 0) ready3)), 25, DecItem.mk 9 2 0 false 0, Dec.reset.cfg, Dec.reset.llr, { dUnit with st := .decoding }, by decide +kernel⟩,
   ⟨unitAt 9 ({ dUnit with st := .decoding }) (pecked (decoding 35 (DecItem.mk 9 1 0 true 0) ready3)), 3, DecItem.mk 9 1 0 true 0, Dec.reset.cfg, Dec.reset.llr, { dUnit with st := .decoding }, by decide +kernel⟩,
   ⟨unitAt 9 ({ dUnit with st := .decoding }) (pecked (decoding 65 (DecItem.mk 9 1 4 false 0) ready3)), 1, DecItem.mk 9 1 4 false 0, Dec.reset.cfg, Dec.reset.llr, { dUnit with st := .decoding }, by decide +kernel⟩⟩

theorem test_witness_DecoderFaultRetires :
    (∃ (s : State) (lane : _) (i : _) (cfg : _) (llr : _), s.live = true ∧ SMap.get? s.dec.busy lane = some (i, cfg, llr) ∧ i.soft = false ∧ i.cw < 4 ∧ lane < 26 ∧ s.dec.softCount ≠ 0 ∧ s.dec.bchOut ≠ 3) ∧
    (∃ (s : State) (lane : _) (i : _) (cfg : _) (llr : _), s.live = true ∧ SMap.get? s.dec.busy (32 + lane) = some (i, cfg, llr) ∧ i.soft = true ∧ i.cw < 4 ∧ lane < 4) ∧
    (∃ (s : State) (lane : _) (i : _) (cfg : _) (llr : _), s.live = true ∧ SMap.get? s.dec.busy (64 + lane) = some (i, cfg, llr) ∧ i.cw = 4 ∧ lane < 2) :=
  ⟨⟨decoding 25 (DecItem.mk 9 1 0 false 0) ready3, 25, DecItem.mk 9 1 0 false 0, Dec.reset.cfg, Dec.reset.llr, by decide +kernel⟩,
   ⟨decoding 35 (DecItem.mk 9 1 0 true 0) ready3, 3, DecItem.mk 9 1 0 true 0, Dec.reset.cfg, Dec.reset.llr, by decide +kernel⟩,
   ⟨decoding 65 (DecItem.mk 9 1 4 false 0) ready3, 1, DecItem.mk 9 1 4 false 0, Dec.reset.cfg, Dec.reset.llr, by decide +kernel⟩⟩

theorem test_witness_PredicateDecisionCounts :
    (∃ (s : State) (ix : _) (u : _) (c : _) (st : _), s.going = true ∧ s.unit? ix = some u ∧ s.cmdOf u = some c ∧ u.sherd = some st ∧ s.probes u = true ∧ u.st = .decoding ∧ s.dec.sherdBusy ix = false ∧ s.unitHeld u = false) ∧
    (∃ (s : State) (ix : _) (u : _) (gen : _), s.live = true ∧ s.unit? ix = some u ∧ u.gen ≠ gen) :=
  ⟨⟨unitAt 9 ({ dUnit with kind := .readScan, st := .decoding, sherd := some .ok }) (cmdAt 0 ({ aCmd .readScan scanE with units := [9], pred := some 1 }) (pecked ready3)), 9, { dUnit with kind := .readScan, st := .decoding, sherd := some .ok }, { aCmd .readScan scanE with units := [9], pred := some 1 }, .ok, by decide +kernel⟩,
   ⟨unitAt 9 (dUnit) ready3, 9, dUnit, 2, by decide +kernel⟩⟩


theorem test_witness_SampleApplyCompletes :
    (∃ (s : State) (p : _) (rest : _), s.live = true ∧ s.cal.samples = p :: rest ∧ p.inRange = false ∧ p.internal = none) ∧
    (∃ (s : State) (p : _) (rest : _), s.live = true ∧ s.cal.samples = p :: rest ∧ p.inRange = true ∧ p.internal = none ∧ ((p.patrol = true ∨ (SMap.get? s.cal.relearns p.lun = none ∧ s.groupRelearns p.lun = false)))) ∧
    (∃ (s : State) (p : _) (rest : _) (r : _), s.live = true ∧ s.cal.samples = p :: rest ∧ p.inRange = true ∧ p.internal = none ∧ p.patrol = false ∧ SMap.get? s.cal.relearns p.lun = some r ∧ r.count + 1 < 64 ∧ fld s.cal.cfg 24 4 < (sampleError p).natAbs) ∧
    (∃ (s : State) (p : _) (rest : _) (r : _), s.live = true ∧ s.cal.samples = p :: rest ∧ p.inRange = true ∧ p.internal = none ∧ p.patrol = false ∧ SMap.get? s.cal.relearns p.lun = some r ∧ r.run = 7 ∧ (sampleError p).natAbs ≤ fld s.cal.cfg 24 4) ∧
    (∃ (s : State), s.cal.samples = []) :=
  ⟨⟨sampled ({ aSample with inRange := false }) none, { aSample with inRange := false }, [], by decide +kernel⟩,
   ⟨sampled (aSample) none, aSample, [], by decide +kernel⟩,
   ⟨sampled ({ aSample with ones := 4096 }) (some (aRelearn 0)), { aSample with ones := 4096 }, [], aRelearn 0, by decide +kernel⟩,
   ⟨sampled ({ aSample with ones := 2048 }) (some (aRelearn 7)), { aSample with ones := 2048 }, [], aRelearn 7, by decide +kernel⟩,
   ⟨run, by decide +kernel⟩⟩

theorem test_witness_TemperatureRowsComplete :
    (∃ (s : State) (lun : _) (due : _) (d : _), s.going = true ∧ (s.lun lun).ev.temp = some due ∧ s.delivers lun (some due) = true ∧ dieOf s lun = some d ∧ d.tempFa ≠ 0 ∧ fld s.cal.temp 0 16 ≠ 0) ∧
    (∃ (s : State) (lun : _) (due : _), s.dozing = true ∧ (s.lun lun).ev.temp = some due ∧ s.delivers lun (some due) = true) ∧
    (∃ (s : State) (lun : _) (due : _), s.going = true ∧ (s.lun lun).ev.temp = some due ∧ s.delivers lun (some due) = true ∧ fld s.cal.temp 0 16 = 0) ∧
    (∃ (s : State) (lun : _) (due : _) (d : _) (code : _), s.going = true ∧ (s.lun lun).ev.temp = some due ∧ s.delivers lun (some due) = true ∧ dieOf s lun = some d ∧ d.tempFa = 0 ∧ fld s.cal.temp 0 16 ≠ 0 ∧ s.cal.thmLast = some code) ∧
    (∃ (s : State) (lun : _) (x : Int), s.going = true ∧ (s.lun lun).tempS = some x ∧ bit s.cal.cfg 31 = true ∧ SMap.get? s.cal.relearns lun = none ∧ ((∀ c, SMap.get? s.cal.tCal lun = some c → max 1 (fld s.cal.cfg 0 8) < (x - c).natAbs))) ∧
    (∃ (s : State) (lun : _) (x : Int) (c : _), s.going = true ∧ (s.lun lun).tempS = some x ∧ SMap.get? s.cal.tCal lun = some c ∧ (x - c).natAbs ≤ max 1 (fld s.cal.cfg 0 8)) ∧
    (∃ (s : State) (lun : _) (r : _), s.live = true ∧ SMap.get? s.cal.relearns lun = some r ∧ s.passed r.start 5000000 = true) ∧
    (∃ (s : State) (lun : _) (r : _), SMap.get? s.cal.relearns lun = some r ∧ s.passed r.start 5000000 = false) :=
  ⟨⟨due (fun e => { e with temp := some (Event.mk 9999001 none) }) (ready3.onCal fun c => { c with temp := 0x46000A }), 3, Event.mk 9999001 none, aDie, by decide +kernel⟩,
   ⟨(due (fun e => { e with temp := some (Event.mk 9999001 none) }) ready3).onPwr fun p => { p with st := .bank }, 3, Event.mk 9999001 none, by decide +kernel⟩,
   ⟨due (fun e => { e with temp := some (Event.mk 9999001 none) }) (ready3.onCal fun c => { c with temp := 0x460000 }), 3, Event.mk 9999001 none, by decide +kernel⟩,
   ⟨due (fun e => { e with temp := some (Event.mk 9999001 none) }) (({ ready3 with img := { ready3.img with dies := [({ aDie with tempFa := 0 })] } }).onCal fun c => { c with thmLast := some 500, temp := 0x46000A }), 3, Event.mk 9999001 none, { aDie with tempFa := 0 }, 500, by decide +kernel⟩,
   ⟨(warm false).onCal fun c => { c with tCal := [(3, 68)] }, 3, 70, by decide +kernel⟩,
   ⟨(warm false).onCal fun c => { c with tCal := [(3, 69)] }, 3, 70, 69, by decide +kernel⟩,
   ⟨sampled aSample (some ({ aRelearn 7 with start := 5000000 })), 3, { aRelearn 7 with start := 5000000 }, by decide +kernel⟩,
   ⟨sampled aSample (some ({ aRelearn 7 with start := 5000001 })), 3, { aRelearn 7 with start := 5000001 }, by decide +kernel⟩⟩

theorem test_witness_HotCrossing :
    (∃ (s : State) (lun : _) (x : Int), s.going = true ∧ (s.lun lun).tempS = some x ∧ (s.patrol lun).hot = false ∧ (BitVec.ofNat 8 (fld s.cal.temp 16 8)).toInt ≤ x) ∧
    (∃ (s : State) (lun : _) (x : Int), s.going = true ∧ (s.lun lun).tempS = some x ∧ (s.patrol lun).hot = true ∧ x < (BitVec.ofNat 8 (fld s.cal.temp 16 8)).toInt - 3) ∧
    (∃ (s : State) (lun : _) (x : Int), s.going = true ∧ (s.lun lun).tempS = some x ∧ (s.patrol lun).hot = true ∧ (BitVec.ofNat 8 (fld s.cal.temp 16 8)).toInt - 3 ≤ x) :=
  ⟨⟨warm false, 3, 70, by decide +kernel⟩,
   ⟨(warm true).onLun 3 fun t => { t with tempS := some 66 }, 3, 66, by decide +kernel⟩,
   ⟨(warm true).onLun 3 fun t => { t with tempS := some 67 }, 3, 67, by decide +kernel⟩⟩

theorem test_witness_DieTemperatureSampled :
    (∃ (s : State) (code : _), s.awake = true ∧ s.cal.thm = code ∧ code ≠ 0x3FF) ∧
    (∃ (s : State) (code : _), s.awake = true ∧ ((s.cal.thm ≠ code ∨ code = 0x3FF))) ∧
    (∃ (s : State) (code : _) (k : _), s.awake = true ∧ s.cal.thm = code ∧ code ≠ 0x3FF ∧ bit s.cal.trainCfg 31 = true ∧ k < 16 ∧ s.pairRuns k = true ∧ s.pairCode k ≠ 0x3FF ∧ 4 * max 1 (fld s.cal.trainCfg 16 8) < ((code.toNat : Int) - ((s.pairCode k).toNat : Int)).natAbs ∧ bit s.cal.active k = false) :=
  ⟨⟨run.onCal fun c => { c with thm := 500 }, 500, by decide +kernel⟩,
   ⟨run.onCal fun c => { c with thm := 500 }, 501, by decide +kernel⟩,
   ⟨((run.onCal fun c => { c with thm := 500, trainCfg := 0x80010000 }).onPair 15 fun p => { p with inService := true }).onPhy fun m => SMap.set m 31 { Phy.init with calCode := 505 }, 500, 15, by decide +kernel⟩⟩

theorem test_witness_PatrolRowsComplete :
    (∃ (s : State) (lun : _) (due : _), s.going = true ∧ (s.lun lun).ev.patrol = some due ∧ s.delivers lun (some due) = true ∧ (s.patrol lun).period ≠ 0) ∧
    (∃ (s : State) (lun : _) (ix : _) (d : _) (a : _) (next : _), s.going = true ∧ dieOf s lun = some d ∧ dieBushel d = true ∧ (s.patrol lun).outstanding = false ∧ s.isFree ix = true ∧ s.patrolNowOf lun = none ∧ (s.patrol lun).period ≠ 0 ∧ 1 ≤ (s.patrol lun).debt ∧ (((s.patrol lun).urgent = true ∨ ((s.lun lun).readQ = [] ∧ (s.lun lun).orderQ = [] ∧ (s.lun lun).free = true))) ∧ s.patrolNext d lun (s.patrol lun) = some (a, next)) ∧
    (∃ (s : State) (lun : _) (d : _), dieOf s lun = some d ∧ s.patrolNowOf lun = none ∧ (s.patrol lun).debt = 0) :=
  ⟨⟨due (fun e => { e with patrol := some (Event.mk 9999001 none) }) (patrolling 8), 3, Event.mk 9999001 none, by decide +kernel⟩,
   ⟨patrolling 1, 3, 131071, aDie, fa 3 0 0 0, { Patrol.init with period := 10, debt := 1, page := 1 }, by decide +kernel⟩,
   ⟨patrolling 0, 3, aDie, by decide +kernel⟩⟩

theorem test_witness_TrainingBegins :
    (∃ (s : State) (k : _), s.live = true ∧ k < 16 ∧ s.sys.restored = true ∧ s.sys.wasters = true ∧ s.hif.ready = false ∧ s.pwr.padHeld = false ∧ ((∀ i, i < 32 → (s.lun (32 * k + i)).die = none ∨ (s.lun (32 * k + i)).checked = true)) ∧ ((∃ c, (c = 2 * k ∨ c = 2 * k + 1) ∧ s.isRelay c = false ∧ s.countedCes c ≠ [])) ∧ (s.pair k).inService = false ∧ (s.pair k).stepDown = false ∧ bit s.cal.pending k = false ∧ bit s.cal.active k = false) ∧
    (∃ (s : State) (k : _), s.live = true ∧ k < 16 ∧ bit s.cal.pending k = true ∧ bit s.cal.active k = false ∧ s.trainees k ≠ [] ∧ s.bundleBusy k = false ∧ ((∀ c ∈ s.trainees k, s.cesAvailable c = true)) ∧ ((∀ c ∈ [2 * k, 2 * k + 1], s.pinsStill c = true)) ∧ s.noticeLinks k = [] ∧ (s.pair k).inService = true) ∧
    (∃ (s : State) (k : _) (b : _) (lk : _), s.live = true ∧ k < 16 ∧ bit s.cal.pending k = true ∧ bit s.cal.active k = false ∧ s.trainees k ≠ [] ∧ s.bundleBusy k = false ∧ ((∀ c ∈ s.trainees k, s.cesAvailable c = true)) ∧ ((∀ c ∈ [2 * k, 2 * k + 1], s.pinsStill c = true)) ∧ (s.noticeLinks k).find? (fun e => e.2.trainAsked.isNone) = some (b, lk)) ∧
    (∃ (s : State) (k : _), bit s.cal.pending k = false) :=
  ⟨⟨((ready3.onPair 0 fun p => { p with inService := false }).onHif fun h => { h with ready := false }), 0, by and_intros <;> first | decide +kernel | exact ⟨0, by decide +kernel⟩⟩,
   ⟨ready3.onCal fun c => { c with pending := 1 }, 0, by decide +kernel⟩,
   ⟨(linkAt 1 { hostLink with identified := [1] } ready3).onCal fun c => { c with pending := 1 }, 0, 1, { hostLink with identified := [1] }, by decide +kernel⟩,
   ⟨run, 15, by decide +kernel⟩⟩

theorem test_witness_TrainingCompleteCompletes :
    ∃ (s : State) (k : _) (lo : _) (hi : _) (u : _), s.trainOpen k = true ∧ s.trainFails k lo hi = [] ∧ s.trainees k ≠ [] ∧ s.pairPins k lo hi = some u ∧ bit u.cal.active k = true :=
  ⟨training 7, 0, swOk, sw8, (State.pairPins 0 swOk sw8 (training 7)).getD (training 7), by decide +kernel⟩

theorem test_witness_TrainingFailureSteps :
    (∃ (s : State) (k : _) (lo : _) (hi : _) (u : _), s.trainOpen k = true ∧ s.trainFails k lo hi ≠ [] ∧ s.pairPins k lo hi = some u ∧ bit u.cal.active k = true ∧ 3 < (u.pair k).rate) ∧
    (∃ (s : State) (k : _), s.live = true ∧ k < 16 ∧ bit s.cal.active k = true ∧ s.reached (SMap.getD s.cal.starts k 0) = true ∧ s.passed (SMap.getD s.cal.starts k 0) 60000 = true ∧ 3 < (s.pair k).rate) ∧
    (∃ (s : State) (k : _) (lo : _) (hi : _) (c : _) (u : _), s.trainOpen k = true ∧ s.trainees k = [c] ∧ s.trainFails k lo hi = [c] ∧ s.pairPins k lo hi = some u ∧ bit u.cal.active k = true ∧ (u.pair k).rate ≤ 3) ∧
    (∃ (s : State) (k : _) (lo : _) (hi : _), s.trainFails k lo hi = []) :=
  ⟨⟨training 4, 0, sw8, sw8, (State.pairPins 0 sw8 sw8 (training 4)).getD (training 4), by decide +kernel⟩,
   ⟨(training 4).onCal fun c => { c with starts := [(0, 9940000)] }, 0, by decide +kernel⟩,
   ⟨training 3, 0, sw8, sw8, 0, (State.pairPins 0 sw8 sw8 (training 3)).getD (training 3), by decide +kernel⟩,
   ⟨run, 15, sw8, sw8, by decide +kernel⟩⟩

theorem test_witness_TargetTrainingCompletes :
    ∃ (s : State) (ch : _) (b : _) (l : _), s.live = true ∧ ch < 32 ∧ s.bundleOf ch = some b ∧ s.link? b = some l ∧ l.target = true ∧ (s.chan ch).fenced = false ∧ bit s.cal.active (ch / 2) = false ∧ ((∀ c ∈ [ch, 4 * (ch / 2) + 1 - ch], s.pinsStill c = true)) :=
  ⟨linkAt 31 ({ hostLink with target := true }) run, 31, 31, { hostLink with target := true }, by decide +kernel⟩

theorem test_witness_EyeIsCentred :
    ∃ (w : BitVec 128) (rest : List (BitVec 128)), rest.foldl (fun a b => a &&& b) w ≠ 0 :=
  ⟨0x1F0, [0xFF0F0], by decide +kernel⟩


theorem test_witness_SequencedFramesInOrder :
    (∃ (s : State) (ch : _) (b : _) (l : _) (f : RFrame), s.BundleAt ch b l ∧ s.noneStarved ∧ f.typ = 2 ∧ l.st = .up ∧ l.session f ∧ 0 < (f.seq - l.rxSeq).toNat ∧ (f.seq - l.rxSeq).toNat < 64 ∧ ((∀ g ∈ l.reorder, g.1.seq ≠ f.seq ∧ g.1.seq ≠ l.rxSeq))) ∧
    (∃ (s : State) (ch : _) (b : _) (l : _) (f : RFrame) (p : _) (ps : _), s.BundleAt ch b l ∧ s.noneStarved ∧ f.typ = 2 ∧ l.target = true ∧ l.st = .up ∧ l.session f ∧ 0 < (f.seq - l.rxSeq).toNat ∧ (f.seq - l.rxSeq).toNat < 64 ∧ ((∀ g ∈ l.reorder, g.1.seq ≠ f.seq ∧ g.1.seq ≠ l.rxSeq)) ∧ l.dataPecks = p :: ps) ∧
    (∃ (s : State) (ch : _) (b : _) (l : _) (f : RFrame), s.BundleAt ch b l ∧ s.noneStarved ∧ f.typ = 2 ∧ l.st = .up ∧ l.session f ∧ ((∀ g ∈ l.reorder, g.1.seq ≠ l.rxSeq)) ∧ ((64 ≤ (f.seq - l.rxSeq).toNat ∨ (0 < (f.seq - l.rxSeq).toNat ∧ ∃ g ∈ l.reorder, g.1.seq = f.seq)))) ∧
    (∃ (s : State) (ch : _) (b : _) (l : _) (f : RFrame), s.BundleAt ch b l ∧ s.noneStarved ∧ f.typ = 2 ∧ ¬ l.session f) ∧
    (∃ (s : State) (ch : _), s.bundleOf ch = none ∧ s.noneStarved) :=
  ⟨⟨linked ({ hostLink with rxSeq := 0xFFF }), 31, 31, { hostLink with rxSeq := 0xFFF }, { fr 2 with seq := 62 }, by and_intros <;> first | decide +kernel | exact noneStarved_of (by decide +kernel)⟩,
   ⟨linked ({ tgtLink with rxSeq := 0xFFF, dataPecks := [2047, 3] }), 31, 31, { tgtLink with rxSeq := 0xFFF, dataPecks := [2047, 3] }, { fr 2 with seq := 62, payload := List.replicate 32 0xA5 }, 2047, [3], by and_intros <;> first | decide +kernel | exact noneStarved_of (by decide +kernel)⟩,
   ⟨linked ({ hostLink with rxSeq := 0xFFF }), 31, 31, { hostLink with rxSeq := 0xFFF }, { fr 2 with seq := 63 }, by and_intros <;> first | decide +kernel | exact noneStarved_of (by decide +kernel)⟩,
   ⟨linked (hostLink), 31, 31, hostLink, mkFrame 2, by and_intros <;> first | decide +kernel | exact noneStarved_of (by decide +kernel)⟩,
   ⟨run, 31, by and_intros <;> first | decide +kernel | exact noneStarved_of (by decide +kernel)⟩⟩

theorem test_witness_RelayCommandTaken :
    (∃ (s : State) (ch : _) (b : _) (l : _) (f : RFrame) (c0 : _) (c1 : _) (c2 : _) (c3 : _) (c4 : _) (ix : _), s.BundleAt ch b l ∧ s.noneStarved ∧ f.typ = 1 ∧ l.target = true ∧ s.ldg.halted = false ∧ [c0, c1, c2, c3, c4, ix].Nodup ∧ ((∀ k ∈ [c0, c1, c2, c3, c4, ix], s.isFree k = true)) ∧ l.st = .up ∧ l.session f ∧ f.seq = l.rxSeq ∧ l.reorder = []) ∧
    (∃ (s : State) (ch : _) (b : _) (l : _) (f : RFrame), s.BundleAt ch b l ∧ s.noneStarved ∧ f.typ = 1 ∧ l.target = false) :=
  ⟨⟨linked (tgtLink), 31, 31, tgtLink, { fr 1 with payload := List.replicate 64 0, entry := 77, gen := 5 }, 131071, 1, 2, 3, 4, 0, by and_intros <;> first | decide +kernel | exact noneStarved_of (by decide +kernel)⟩,
   ⟨linked (hostLink), 31, 31, hostLink, fr 1, by and_intros <;> first | decide +kernel | exact noneStarved_of (by decide +kernel)⟩⟩

theorem test_witness_RelayDataTaken :
    (∃ (s : State) (ch : _) (b : _) (l : _) (f : RFrame) (p : _) (ps : _) (ix : _) (u : _), s.BundleAt ch b l ∧ s.noneStarved ∧ f.typ = 2 ∧ l.target = true ∧ l.st = .up ∧ l.session f ∧ f.seq = l.rxSeq ∧ l.reorder = [] ∧ l.unacked = [] ∧ f.nak = false ∧ ((∀ e ∈ s.ldg.units, e.2.bundle ≠ some b)) ∧ l.waiting = [] ∧ l.dataPecks = p :: ps ∧ s.ownerUnit b f = some (ix, u) ∧ s.unit? ix = some u ∧ u.kind ≠ .raw) ∧
    (∃ (s : State) (ch : _) (b : _) (l : _) (f : RFrame) (u : _), s.BundleAt ch b l ∧ s.noneStarved ∧ f.typ = 2 ∧ l.target = false ∧ l.st = .up ∧ l.session f ∧ f.seq = l.rxSeq ∧ l.reorder = [] ∧ l.unacked = [] ∧ ((∀ e ∈ s.ldg.units, e.2.bundle = some b → e.2.kind ≠ .raw)) ∧ s.unit? f.entry = some u ∧ u.gen ≠ f.gen) :=
  ⟨⟨unitAt 9 ({ aUnit with kind := .program, st := .dma }) (cmdAt 0 ownerCmd (linked ({ tgtLink with dataPecks := [2047, 3] }))), 31, 31, { tgtLink with dataPecks := [2047, 3] }, { fr 2 with entry := 77, gen := 5, payload := List.replicate 32 0xA5 }, 2047, [3], 9, { aUnit with kind := .program, st := .dma }, by and_intros <;> first | decide +kernel | exact noneStarved_of (by decide +kernel)⟩,
   ⟨unitAt 9 (rUnit) (linked (hostLink)), 31, 31, hostLink, { fr 2 with entry := 9, gen := 2 }, rUnit, by and_intros <;> first | decide +kernel | exact noneStarved_of (by decide +kernel)⟩⟩

theorem test_witness_RelayCompletionTaken :
    (∃ (s : State) (ch : _) (b : _) (l : _) (f : RFrame) (u : _), s.BundleAt ch b l ∧ f.typ = 3 ∧ l.target = false ∧ l.st = .up ∧ l.session f ∧ f.seq = l.rxSeq ∧ l.reorder = [] ∧ s.unit? f.entry = some u ∧ u.gen = f.gen ∧ u.bundle = some b ∧ ended u = false ∧ u.relayDone = false ∧ bit f.cflags 3 = false) ∧
    (∃ (s : State) (ch : _) (b : _) (l : _) (f : RFrame) (u : _), s.BundleAt ch b l ∧ f.typ = 3 ∧ l.target = false ∧ l.st = .up ∧ l.session f ∧ f.seq = l.rxSeq ∧ l.reorder = [] ∧ s.unit? f.entry = some u ∧ u.gen = f.gen ∧ u.bundle = some b ∧ ended u = false ∧ u.relayDone = false ∧ bit f.cflags 3 = true) ∧
    (∃ (s : State) (ch : _) (b : _) (l : _) (f : RFrame) (u : _), s.BundleAt ch b l ∧ f.typ = 3 ∧ l.target = false ∧ l.st = .up ∧ l.session f ∧ f.seq = l.rxSeq ∧ l.reorder = [] ∧ s.unit? f.entry = some u ∧ u.gen ≠ f.gen) ∧
    (∃ (s : State) (ch : _) (b : _) (l : _), s.BundleAt ch b l ∧ l.target = true) :=
  ⟨⟨unitAt 9 (rUnit) (linked (hostLink)), 31, 31, hostLink, { fr 3 with entry := 9, gen := 1, iter := 5, refire := 2, rows := 3 }, rUnit, by decide +kernel⟩,
   ⟨unitAt 9 (rUnit) (linked (hostLink)), 31, 31, hostLink, { fr 3 with entry := 9, gen := 1, cflags := 8 }, rUnit, by decide +kernel⟩,
   ⟨unitAt 9 (rUnit) (linked (hostLink)), 31, 31, hostLink, { fr 3 with entry := 9, gen := 2 }, rUnit, by decide +kernel⟩,
   ⟨linked (tgtLink), 31, 31, tgtLink, by decide +kernel⟩⟩

theorem test_witness_RelayControlFramesTaken :
    (∃ (s : State) (ch : _) (b : _) (l : _) (f : RFrame), s.BundleAt ch b l ∧ f.typ = 4 ∧ l.target = false ∧ l.st = .up ∧ l.session f ∧ l.trainAsked = none) ∧
    (∃ (s : State) (ch : _) (b : _) (l : _) (f : RFrame), s.BundleAt ch b l ∧ f.typ = 5) ∧
    (∃ (s : State) (ch : _) (b : _) (l : _) (f : RFrame), s.BundleAt ch b l ∧ f.typ = 7 ∧ l.target = true ∧ l.st = .up ∧ l.session f) ∧
    (∃ (s : State) (ch : _) (b : _) (l : _) (f : RFrame), s.BundleAt ch b l ∧ 1 ≤ f.typ ∧ f.typ ≤ 7 ∧ f.typ ≠ 4) :=
  ⟨⟨linked (hostLink), 31, 31, hostLink, { fr 4 with cmdCredit := 9, dataCredit := 70 }, by decide +kernel⟩,
   ⟨linked (hostLink), 31, 31, hostLink, fr 5, by decide +kernel⟩,
   ⟨linked (tgtLink), 31, 31, tgtLink, { fr 7 with hold := 100 }, by decide +kernel⟩,
   ⟨linked (hostLink), 31, 31, hostLink, fr 5, by decide +kernel⟩⟩

theorem test_witness_RelayHelloTaken :
    (∃ (s : State) (ch : _) (b : _) (l : _) (f : RFrame), s.BundleAt ch b l ∧ f.typ = 6 ∧ f.pers = (if l.target then 1 else 2) ∧ f.size ≠ Nat.log2 l.size ∧ l.st ≠ .up ∧ l.st ≠ .hold) ∧
    (∃ (s : State) (ch : _) (b : _) (l : _) (f : RFrame), s.BundleAt ch b l ∧ b < 32 ∧ f.typ = 6 ∧ f.pers = (if l.target then 1 else 2) ∧ f.size ≠ Nat.log2 l.size ∧ ((l.st = .up ∨ l.st = .hold))) ∧
    (∃ (s : State) (ch : _) (b : _) (l : _) (f : RFrame), s.BundleAt ch b l ∧ b < 32 ∧ f.typ = 6 ∧ f.pers = 2 ∧ f.size = Nat.log2 l.size ∧ l.target = false ∧ l.st = .bringing ∧ l.helloSent = true) ∧
    (∃ (s : State) (ch : _) (b : _) (l : _) (f : RFrame), s.BundleAt ch b l ∧ f.typ = 6 ∧ f.pers ≠ (if l.target then 1 else 2)) :=
  ⟨⟨linked ({ hostLink with st := .bringing }), 31, 31, { hostLink with st := .bringing }, { fr 6 with pers := 2, size := 1 }, by decide +kernel⟩,
   ⟨linked (tgtLink), 31, 31, tgtLink, { fr 6 with pers := 1, size := 1 }, by decide +kernel⟩,
   ⟨linked ({ hostLink with st := .bringing, helloSent := true }), 31, 31, { hostLink with st := .bringing, helloSent := true }, { fr 6 with pers := 2, size := 0, boot := 5, src := 7 }, by decide +kernel⟩,
   ⟨linked (hostLink), 31, 31, hostLink, { fr 6 with pers := 1 }, by decide +kernel⟩⟩

theorem test_witness_RelayBadFrameCounted :
    (∃ (s : State) (ch : _) (b : _) (l : _), s.BundleAt ch b l ∧ SMap.getD l.crcRun ch 0 < 15) ∧
    (∃ (s : State) (ch : _) (b : _) (l : _) (f : RFrame), s.BundleAt ch b l ∧ ((f.typ = 0 ∨ 7 < f.typ)) ∧ SMap.getD l.crcRun ch 0 < 15) ∧
    (∃ (s : State) (ch : _) (b : _) (l : _), s.BundleAt ch b l ∧ ch < 32 ∧ 15 ≤ SMap.getD l.crcRun ch 0 ∧ ch ∈ l.channels b) :=
  ⟨⟨linked ({ hostLink with crcRun := [(31, 14)] }), 31, 31, { hostLink with crcRun := [(31, 14)] }, by decide +kernel⟩,
   ⟨linked (hostLink), 31, 31, hostLink, fr 8, by decide +kernel⟩,
   ⟨linked ({ hostLink with crcRun := [(31, 15)] }), 31, 31, { hostLink with crcRun := [(31, 15)] }, by decide +kernel⟩⟩

theorem test_witness_RelayReadIdCompletes :
    (∃ (s : State) (ch : _) (b : _) (l : _), s.live = true ∧ s.bundleOf ch = some b ∧ s.link? b = some l ∧ l.target = true) ∧
    (∃ (s : State) (ch : _) (b : _) (l : _) (id : List Byte), s.BundleAt ch b l ∧ s.hif.ready = true ∧ l.target = false ∧ ch ∉ l.identified ∧ ((∀ x, SMap.get? l.polled ch = some x → s.passed x 100000 = true)) ∧ num id 2 1 = 0x52 ∧ ch < 32) ∧
    (∃ (s : State) (ch : _) (b : _) (l : _) (id : List Byte), s.BundleAt ch b l ∧ s.hif.ready = true ∧ l.target = false ∧ ch ∉ l.identified ∧ ((∀ x, SMap.get? l.polled ch = some x → s.passed x 100000 = true)) ∧ num id 2 1 ≠ 0x52) :=
  ⟨⟨linked (tgtLink), 31, 31, tgtLink, by decide +kernel⟩,
   ⟨linked ({ hostLink with polled := [(31, 9900000)] }), 31, 31, { hostLink with polled := [(31, 9900000)] }, [0x7A, 0x0B, 0x52, 1, 7, 0, 0, 0], by and_intros <;> first | (intro x h; cases h; decide +kernel) | decide +kernel⟩,
   ⟨linked (hostLink), 31, 31, hostLink, [], by and_intros <;> first | (intro x h; cases h) | decide +kernel⟩⟩

theorem test_witness_RelayTransfersComplete :
    (∃ (s : State) (ch : _) (b : _) (l : _) (rb : _), s.BundleAt ch b l ∧ s.pullDue b l ch rb = true) ∧
    (∃ (s : State) (ch : _) (b : _) (l : _), s.BundleAt ch b l ∧ (s.pair (ch / 2)).inService ∧ l.target = true ∧ bit s.cal.active (ch / 2) = false ∧ SMap.get? l.sending ch = none ∧ l.nextFrame = none) ∧
    (∃ (s : State) (ch : _) (b : _) (l : _) (f : RFrame) (r : _), s.BundleAt ch b l ∧ (s.pair (ch / 2)).inService ∧ ch ∈ l.channels b ∧ l.target = true ∧ bit s.cal.active (ch / 2) = false ∧ SMap.get? l.sending ch = none ∧ l.st = .up ∧ l.retryQ = [] ∧ l.txq = f :: r ∧ ((∀ g ∈ l.txq, sequenced g = true)) ∧ l.unacked.length < 64) ∧
    (∃ (s : State) (ch : _) (b : _) (l : _), s.BundleAt ch b l ∧ (s.pair (ch / 2)).inService ∧ ch ∉ l.channels b ∧ l.target = true ∧ bit s.cal.active (ch / 2) = false ∧ SMap.get? l.sending ch = none ∧ l.st = .up ∧ ((∀ g ∈ l.txq, sequenced g = true))) ∧
    (∃ (s : State) (ch : _) (b : _) (l : _), s.BundleAt ch b l ∧ l.target = true) ∧
    (∃ (s : State) (ch : _) (b : _) (l : _) (rb : _), s.BundleAt ch b l ∧ s.pullDue b { l with sending := SMap.erase l.sending ch } ch rb = true) ∧
    (∃ (s : State) (ch : _) (b : _) (l : _), s.BundleAt ch b l ∧ (s.pair (ch / 2)).inService ∧ l.target = false ∧ ch ∈ l.channels b ∧ l.st = .up ∧ bit s.cal.active (ch / 2) = false ∧ SMap.get? l.sending ch = none ∧ ((∀ x, SMap.get? l.lastTx ch = some x → s.passed x 2000 = true))) :=
  ⟨⟨linked (hostLink), 31, 31, hostLink, true, by decide +kernel⟩,
   ⟨linked (tgtLink), 31, 31, tgtLink, by decide +kernel⟩,
   ⟨linked ({ tgtLink with txq := [fr 2] }), 31, 31, { tgtLink with txq := [fr 2] }, fr 2, [], by decide +kernel⟩,
   ⟨linked ({ tgtLink with txq := [fr 2], mask := 0 }), 31, 31, { tgtLink with txq := [fr 2], mask := 0 }, by decide +kernel⟩,
   ⟨linked ({ tgtLink with sending := [(31, fr 2)] }), 31, 31, { tgtLink with sending := [(31, fr 2)] }, by decide +kernel⟩,
   ⟨linked ({ hostLink with sending := [(31, fr 2)] }), 31, 31, { hostLink with sending := [(31, fr 2)] }, true, by decide +kernel⟩,
   ⟨linked ({ hostLink with lastTx := [(31, 9998000)] }), 31, 31, { hostLink with lastTx := [(31, 9998000)] }, by and_intros <;> first | (intro x h; cases h; decide +kernel) | decide +kernel⟩⟩

theorem test_witness_RelayTimersComplete :
    (∃ (s : State) (ch : _) (l : _) (q : _) (x : _) (r : _), s.live = true ∧ s.link? ch = some l ∧ l.unacked = (q, x) :: r ∧ l.st = .up ∧ l.retryQ = [] ∧ s.passed x s.retryNs = true) ∧
    (∃ (s : State) (ch : _) (b : _) (l : _) (c : _), s.live = true ∧ ch < 32 ∧ s.bundleOf ch = some b ∧ s.link? b = some l ∧ l.st = .up ∧ l.trainDue = none ∧ ch ∈ l.channels b ∧ s.silent l ch = true ∧ c ∈ l.channels b ∧ s.silent l c = false) :=
  ⟨⟨linked ({ hostLink with unacked := [(({ fr 2 with seq := 3 }), (9990000))] }), 31, { hostLink with unacked := [(({ fr 2 with seq := 3 }), (9990000))] }, { fr 2 with seq := 3 }, 9990000, [], by decide +kernel⟩,
   ⟨linkAt 30 ({ Link.fresh false 2 with st := .up, mask := 3, kept := true, lastRx := [(31, 9999999)] }) run, 30, 30, { Link.fresh false 2 with st := .up, mask := 3, kept := true, lastRx := [(31, 9999999)] }, 31, by decide +kernel⟩⟩

theorem test_witness_RelayLossCompletes :
    (∃ (s : State) (b : _) (l : _), s.live = true ∧ b < 32 ∧ s.link? b = some l ∧ ((l.st = .up ∨ l.st = .hold)) ∧ l.trainDue = none ∧ ((∀ c, b ≤ c → c < b + l.size → s.silent l c = true)) ∧ l.target = false) ∧
    (∃ (s : State) (b : _) (l : _), s.live = true ∧ s.link? b = some l ∧ ((∃ x, l.trainDue = some x ∧ s.reached x = true)) ∧ l.trainAsked = none) ∧
    (∃ (s : State) (b : _) (l : _), s.live = true ∧ s.link? b = some l ∧ ((∃ x, l.holdDue = some x ∧ s.reached x = true))) :=
  ⟨⟨unitAt 9 rUnit (linked (hostLink)), 31, hostLink, by decide +kernel⟩,
   ⟨linked ({ tgtLink with st := .hold, trainDue := some 10000000 }), 31, { tgtLink with st := .hold, trainDue := some 10000000 }, by and_intros <;> first | exact ⟨10000000, by decide +kernel⟩ | decide +kernel⟩,
   ⟨unitAt 9 { rUnit with st := .parked } (linked ({ hostLink with st := .down, mask := 0, holdDue := some 10000000 })), 31, { hostLink with st := .down, mask := 0, holdDue := some 10000000 }, by and_intros <;> first | exact ⟨10000000, by decide +kernel⟩ | decide +kernel⟩⟩


theorem test_witness_PspTimersComplete :
    (∃ (s : State), s.awake = true ∧ ((s.psp.settled = true ∨ s.psp.listenFrom.isSome = true)) ∧ s.passed s.psp.lastMember 2000000 = true) ∧
    (∃ (s : State), s.awake = true ∧ s.psp.source = true ∧ s.passed s.psp.lastTime 100000 = true) ∧
    (∃ (s : State), s.awake = true) ∧
    (∃ (s : State), s.awake = true ∧ s.psp.synced = true ∧ s.passed s.psp.timeTaken 1000000 = true) :=
  ⟨⟨port, by decide +kernel⟩,
   ⟨{ port with psp := { port.psp with source := true, lastTime := 9900000 } }, by decide +kernel⟩,
   ⟨asleep .bank, by decide +kernel⟩,
   ⟨{ port with psp := { port.psp with synced := true, timeTaken := 9000000 } }, by decide +kernel⟩⟩

theorem test_witness_PspMemberFrameTaken :
    (∃ (s : State) (f : PFrame), s.awake = true ∧ f.src = s.sys.instance_) ∧
    (∃ (s : State) (f : PFrame), s.awake = true ∧ f.src ≠ s.sys.instance_ ∧ s.psp.settled = false ∧ s.psp.listenFrom.isSome = true ∧ f.listening = true) ∧
    (∃ (s : State) (f : PFrame), s.awake = true ∧ f.src ≠ s.sys.instance_ ∧ s.psp.settled = false ∧ s.psp.listenFrom.isSome = true ∧ f.listening = false) ∧
    (∃ (s : State) (f : PFrame), s.awake = true ∧ f.src ≠ s.sys.instance_ ∧ s.psp.settled = true ∧ f.listening = false ∧ s.psp.epoch ≤ f.epoch) ∧
    (∃ (s : State) (f : PFrame), s.awake = true ∧ s.psp.settled = true ∧ f.listening = false ∧ f.epoch < s.psp.epoch) :=
  ⟨⟨port, { pf 4 with src := 5 }, by decide +kernel⟩,
   ⟨{ port with psp := { port.psp with settled := false, listenFrom := some 0, bestCandidate := 4 } }, { pf 5 with listening := true }, by decide +kernel⟩,
   ⟨{ port with psp := { port.psp with settled := false, listenFrom := some 0, bestSettled := some 6 } }, pf 5, by decide +kernel⟩,
   ⟨port, { pf 5 with src := 9 }, by decide +kernel⟩,
   ⟨port, pf 3, by decide +kernel⟩⟩

theorem test_witness_PspTimeFrameTaken :
    (∃ (s : State) (f : PFrame), s.awake = true ∧ f.src ≠ s.sys.instance_ ∧ s.psp.settled = true ∧ f.listening = false ∧ f.epoch = s.psp.epoch ∧ f.tsrc = true ∧ ((∀ i ∈ s.psp.tsrcs, f.src.toNat ≤ i)) ∧ ((s.psp.srcEn = true → f.src.toNat < s.sys.instance_.toNat))) ∧
    (∃ (s : State) (f : PFrame), s.awake = true ∧ f.src = s.sys.instance_ ∧ s.psp.source = true) :=
  ⟨⟨port, pf 4, by decide +kernel⟩,
   ⟨{ port with psp := { port.psp with source := true } }, { pf 4 with src := 5 }, by decide +kernel⟩⟩

theorem test_witness_PspMembershipEnds :
    (∃ (s : State) (i : _) (x : _), s.awake = true ∧ SMap.get? s.psp.members i = some x ∧ s.passed x 7000000 = true) ∧
    (∃ (s : State) (x : _), s.awake = true ∧ s.psp.listenFrom = some x ∧ s.psp.settled = false ∧ s.passed x 10000000 = true) ∧
    (∃ (s : State), s.psp.listenFrom = none) :=
  ⟨⟨port, 7, 3000000, by decide +kernel⟩,
   ⟨{ port with psp := { port.psp with settled := false, listenFrom := some 0, bestCandidate := 4 } }, 0, by decide +kernel⟩,
   ⟨port, by decide +kernel⟩⟩

theorem test_witness_TestAccessPortCompletes :
    (∃ (bs : List Bool), bs ≠ []) ∧
    (∃ (bs : List Bool), bs ≠ []) :=
  ⟨⟨[false], by decide +kernel⟩,
   ⟨[false], by decide +kernel⟩⟩

theorem test_witness_NvsWriteBecomesDurable :
    (∃ (s : State) (r : _), s.sys.coldLow = false ∧ s.nvs.running = some r) ∧
    (∃ (s : State) (r : _) (u : _) (k : _), s.sys.coldLow = false ∧ s.nvs.running = some r ∧ r.what = .marker u k) ∧
    (∃ (s : State) (r : _), s.sys.coldLow = false ∧ s.nvs.running = some r ∧ r.what = .snapshot 1089) :=
  ⟨⟨storing .health 1, aReq .health 1, by decide +kernel⟩,
   ⟨storing (.marker none 1) 0, aReq (.marker none 1) 0, none, 1, by decide +kernel⟩,
   ⟨storing (.snapshot 1089) 0, aReq (.snapshot 1089) 0, by decide +kernel⟩⟩

theorem test_witness_NvsWriteFails :
    (∃ (s : State) (r : _), s.sys.coldLow = false ∧ s.nvs.running = some r ∧ r.fails = 0) ∧
    (∃ (s : State) (r : _), s.sys.coldLow = false ∧ s.nvs.running = some r ∧ r.fails ≠ 0 ∧ s.nvs.sparesLeft ≠ 0) ∧
    (∃ (s : State) (r : _), s.sys.coldLow = false ∧ s.nvs.running = some r ∧ r.fails ≠ 0 ∧ s.nvs.sparesLeft = 0) ∧
    (∃ (s : State), s.nvs.running = none) :=
  ⟨⟨storing .health 0, aReq .health 0, by decide +kernel⟩,
   ⟨(storing .health 1).onNvs fun n => { n with sparesLeft := 1 }, aReq .health 1, by decide +kernel⟩,
   ⟨(storing .health 1).onNvs fun n => { n with sparesLeft := 0 }, aReq .health 1, by decide +kernel⟩,
   ⟨run, by decide +kernel⟩⟩

theorem test_witness_NvsTimersComplete :
    (∃ (s : State) (r : _) (rs : _), s.live = true ∧ s.nvs.retry = r :: rs ∧ s.passed s.nvs.retryAt 1000000 = true ∧ s.nvs.running.isSome = true) ∧
    (∃ (s : State) (r : _) (rs : _), s.live = true ∧ s.nvs.retry = r :: rs ∧ s.passed s.nvs.retryAt 1000000 = true) ∧
    (∃ (s : State), s.live = true ∧ s.nvs.scanned = true ∧ s.nvs.snapWant = true ∧ s.nvs.snapping = none ∧ ((∀ x, s.nvs.snapLast = some x → s.passed x 10000000000 = true))) ∧
    (∃ (s : State), s.live = true ∧ s.nvs.scanned = true ∧ s.passed s.nvs.healthAt 3600000000000 = true) :=
  ⟨⟨(storing (.marker none 1) 0).onNvs fun n => { n with retry := [aReq .health 0], retryAt := 9000000 }, aReq .health 0, [], by decide +kernel⟩,
   ⟨run.onNvs fun n => { n with retry := [aReq .health 0], retryAt := 9000000 }, aReq .health 0, [], by decide +kernel⟩,
   ⟨run.onNvs fun n => { n with snapWant := true }, by and_intros <;> first | (intro x h; cases h) | decide +kernel⟩,
   ⟨run.onTime fun t => { t with ns := 3600000000000 }, by decide +kernel⟩⟩

theorem test_witness_MarkersOpenAndClose :
    (∃ (ms : List OpenMark) (loc : _) (page : _) (line : Nat) (m : OpenMark), m ∈ markReplay 2 loc page line ms) ∧
    (∃ (ms : List OpenMark) (loc : _) (page : _) (line : Nat) (m : OpenMark), m ∈ markReplay 4 loc page line ms) ∧
    (∃ (ms : List OpenMark) (loc : _) (page : _) (line : Nat) (m : OpenMark), m ∈ markReplay 6 loc page line ms) ∧
    (∃ (ms : List OpenMark) (kind : _) (loc : _) (page : _) (m : OpenMark), ((kind = 1 ∨ kind = 3 ∨ kind = 5)) ∧ m ∈ ms ∧ ((m.kind ≠ kind ∨ m.loc ≠ loc ∨ m.page ≠ page))) :=
  ⟨⟨[aMark 1, aMark 5], 9, 2, 78, aMark 5, by decide +kernel⟩,
   ⟨[1, 3].map aMark, 9, 2, 78, aMark 1, by decide +kernel⟩,
   ⟨[aMark 1, aMark 5], 9, 2, 78, aMark 1, by decide +kernel⟩,
   ⟨[aMark 1], 3, 9, 2, aMark 1, by decide +kernel⟩⟩


theorem test_witness_SpmOperationWrites :
    (∃ (data : Word) (image : _) (s : State) (p : _), p ∈ spmRows data image ∧ s.hcpFree ∧ s.spm.opBusy = false ∧ fld data 0 2 = p.2.1 ∧ (s.onSpm (fun m => { m with opSlot := bit data 8 })).spmRefusal (p.2.2 s.spm).kind ≠ 0) ∧
    (∃ (data : Word) (image : _) (s : State) (p : _), p ∈ spmRows data image ∧ s.hcpFree ∧ s.spm.opBusy = false ∧ fld data 0 2 = p.2.1 ∧ s.spm.op.isSome = true ∧ (s.onSpm (fun m => { m with opSlot := bit data 8 })).spmRefusal (p.2.2 s.spm).kind = 0) ∧
    (∃ (data : Word) (image : _) (s : State) (p : _), p ∈ spmRows data image ∧ s.hcpFree ∧ s.spm.opBusy = false ∧ fld data 0 2 = p.2.1 ∧ s.spm.op = none ∧ (s.onSpm (fun m => { m with opSlot := bit data 8 })).spmRefusal (p.2.2 s.spm).kind = 0) ∧
    (∃ (data : Word) (image : _) (s : State) (p : _), p ∈ spmRows data image ∧ s.hcpFree ∧ ((s.spm.opBusy = true ∨ fld data 0 2 ≠ p.2.1))) :=
  ⟨⟨2, [], asked 0x1FFF 2, (.spmErase 2, 2, eraseOp), by and_intros <;> first | decide +kernel | (simp [spmRows])⟩,
   ⟨2, [], (operating (anOp .consolidate)).onSpm fun m => { m with opBusy := false, opAddr := 0xF00000, opLen := 0x1000 }, (.spmErase 2, 2, eraseOp), by and_intros <;> first | decide +kernel | (simp [spmRows])⟩,
   ⟨2, [], (asked 0xF00000 0x1000).onSpm fun m => { m with sfdp := aSfdp }, (.spmErase 2, 2, eraseOp), by and_intros <;> first | decide +kernel | (simp [spmRows])⟩,
   ⟨1, [], run, (.spmErase 1, 2, eraseOp), by and_intros <;> first | decide +kernel | (simp [spmRows])⟩⟩

theorem test_witness_SpmRefusalOrder :
    ∃ (k : SpmKind), (k = .program ∨ k = .erase) :=
  ⟨.erase, by decide +kernel⟩

theorem test_witness_SpmDeviceEvents :
    (∃ (s : State) (r : _) (rest : _) (o : _) (d : List Byte) (off : Nat) (n : _), s.live = true ∧ takeFirst (fun (r : HdpRd) => match r.what with
      | .spmBuf _ _ => true
      | _ => false) s.hdp.reads = some (r, rest) ∧ r.what = .spmBuf off n ∧ s.spm.op = some o ∧ o.kind = .program ∧ o.bufWait = true ∧ d ≠ []) ∧
    (∃ (s : State) (r : _) (rest : _) (o : _) (off : Nat) (n : _), s.live = true ∧ takeFirst (fun (r : HdpRd) => match r.what with
      | .spmBuf _ _ => true
      | _ => false) s.hdp.reads = some (r, rest) ∧ r.what = .spmBuf off n ∧ s.spm.op = some o ∧ o.kind = .program ∧ o.bufWait = true) ∧
    (∃ (s : State) (o : _), s.live = true ∧ s.spm.leftover = none ∧ s.spm.erasing = some o ∧ o.suspending = true) ∧
    (∃ (s : State) (o : _), s.live = true ∧ s.spm.leftover = none ∧ s.spm.erasing = none ∧ s.spm.op = some o ∧ o.devBusy = true ∧ o.suspended = false ∧ o.suspending = true) ∧
    (∃ (s : State) (o : _), s.live = true ∧ s.spm.leftover = none ∧ s.spm.erasing = none ∧ s.spm.op = some o ∧ o.devBusy = true ∧ o.suspended = false ∧ o.kind ≠ .consolidate) ∧
    (∃ (s : State) (o : _), s.live = true ∧ s.spm.op = some o ∧ o.kind ≠ .consolidate ∧ o.stage = 9 ∧ o.devBusy = false) ∧
    (∃ (s : State) (o : _), s.live = true ∧ s.spm.op = some o ∧ o.kind ≠ .consolidate ∧ o.devBusy = true) :=
  ⟨⟨reading (.spmBuf 0 64) 0x40 (operating ({ anOp .program with bufWait := true, devBusy := false })), rdOf (.spmBuf 0 64) 0x40, [], { anOp .program with bufWait := true, devBusy := false }, [0xA5], 0, 64, by decide +kernel⟩,
   ⟨reading (.spmBuf 0 64) 0x40 (operating ({ anOp .program with bufWait := true, devBusy := false })), rdOf (.spmBuf 0 64) 0x40, [], { anOp .program with bufWait := true, devBusy := false }, 0, 64, by decide +kernel⟩,
   ⟨run.onSpm fun m => { m with erasing := some { anOp .erase with suspending := true } }, { anOp .erase with suspending := true }, by decide +kernel⟩,
   ⟨operating ({ anOp .erase with suspending := true }), { anOp .erase with suspending := true }, by decide +kernel⟩,
   ⟨operating ({ anOp .erase with len := 4096 }), { anOp .erase with len := 4096 }, by decide +kernel⟩,
   ⟨operating ({ anOp .erase with stage := 9, devBusy := false }), { anOp .erase with stage := 9, devBusy := false }, by decide +kernel⟩,
   ⟨operating (anOp .erase), anOp .erase, by decide +kernel⟩⟩

theorem test_witness_SpmSuspendResume :
    (∃ (s : State) (o : _), s.live = true ∧ s.spm.device = some o ∧ o.devBusy = true ∧ o.suspended = false ∧ o.suspending = false ∧ s.spm.sfdp.suspend = true ∧ s.readNeeded = true ∧ s.passed o.runFrom 100000 = true) ∧
    (∃ (s : State) (o : _), s.live = true ∧ s.spm.device = some o ∧ o.suspended = true ∧ ((s.readNeeded = false ∨ s.passed o.suspAt 20000 = true))) ∧
    (∃ (s : State), s.spm.device = none) ∧
    (∃ (s : State) (o : _), s.live = true ∧ s.spm.device = some o ∧ s.passed o.runFrom 100000 = false) :=
  ⟨⟨(operating (anOp .erase)).onSpm fun m => { m with inFlight := some 0 }, anOp .erase, by decide +kernel⟩,
   ⟨operating ({ anOp .erase with suspended := true }), { anOp .erase with suspended := true }, by decide +kernel⟩,
   ⟨run, by decide +kernel⟩,
   ⟨(operating ({ anOp .erase with runFrom := 9900001 })).onSpm fun m => { m with inFlight := some 0 }, { anOp .erase with runFrom := 9900001 }, by decide +kernel⟩⟩

theorem test_witness_StartUpScans :
    (∃ (s : State), s.inReset = false ∧ s.sys.started = true ∧ s.nvs.scanned = false ∧ s.nvs.booting = false ∧ s.sys.resume = false) ∧
    (∃ (s : State) (r : _), s.sys.coldLow = false ∧ s.nvs.running = some r ∧ r.what = .health ∧ s.nvs.booting = true) ∧
    (∃ (s : State), s.inReset = false ∧ s.sys.started = true ∧ s.nvs.scanned = false ∧ s.nvs.booting = false ∧ s.sys.resume = true) ∧
    (∃ (s : State) (a : _) (b : _) (ra : _) (rb : _), s.live = true ∧ s.sys.started = true ∧ s.sys.resume = false ∧ s.sys.discovered = false ∧ 100000 ≤ s.now ∧ optRecord a = some ra ∧ optRecord b = some rb) ∧
    (∃ (s : State) (a : _) (b : _), s.live = true ∧ s.sys.started = true ∧ s.sys.resume = false ∧ s.sys.discovered = false ∧ 100000 ≤ s.now ∧ optRecord a = none ∧ optRecord b = none) :=
  ⟨⟨(starting id id).onNvs fun n => { n with scanned := false }, by decide +kernel⟩,
   ⟨(storing .health 1).onNvs fun n => { n with scanned := false, booting := true }, aReq .health 1, by decide +kernel⟩,
   ⟨(starting (fun y => { y with resume := true }) id).onNvs fun n => { n with scanned := false }, by decide +kernel⟩,
   ⟨starting id id, optBytes 5, optBytes 6, aRec, { aRec with seq := 6 }, by decide +kernel⟩,
   ⟨starting id id, [], List.replicate 64 0xFF, by decide +kernel⟩⟩

theorem test_witness_SlotSelectionCompletes :
    (∃ (s : State) (r : _), s.live = true ∧ s.nvs.scanned = true ∧ s.sys.discovered = true ∧ s.spm.xipReady = false ∧ s.sys.resume = false ∧ s.spm.opt = some r ∧ s.openSectors = [] ∧ ((r.genA ≠ 0 ∨ r.genB ≠ 0))) ∧
    (∃ (s : State), s.live = true ∧ s.nvs.scanned = true ∧ s.sys.discovered = true ∧ s.spm.xipReady = false ∧ s.sys.resume = false ∧ s.spm.opt = none) :=
  ⟨⟨starting (fun y => { y with discovered := true }) (fun m => { m with opt := some aRec }), aRec, by decide +kernel⟩,
   ⟨starting (fun y => { y with discovered := true }) (fun m => { m with opt := none }), by decide +kernel⟩⟩

theorem test_witness_ImageLoadCompletes :
    (∃ (s : State) (slot : _) (img : _), s.live = true ∧ s.spm.loading = some slot ∧ s.spm.readable = true ∧ imageOk img = true ∧ imgGen img = s.spm.gen slot ∧ s.openSectors = []) ∧
    (∃ (s : State) (slot : _) (img : _), s.live = true ∧ s.spm.loading = some slot ∧ s.spm.readable = true ∧ imageOk img = false ∧ s.sys.resume = false ∧ s.spm.gen (!slot) ≠ 0 ∧ s.spm.tried.contains (!slot) = false) ∧
    (∃ (s : State) (slot : _) (img : _), s.live = true ∧ s.spm.loading = some slot ∧ s.spm.readable = true ∧ imageOk img = true ∧ imgGen img = s.spm.gen slot ∧ s.openSectors.any (inSlot slot) = true ∧ s.sys.resume = false ∧ s.spm.gen (!slot) ≠ 0 ∧ s.spm.tried.contains (!slot) = false) ∧
    (∃ (s : State) (slot : _) (img : _), s.live = true ∧ s.spm.loading = some slot ∧ s.spm.readable = true ∧ imageOk img = false ∧ s.sys.resume = true ∧ s.spm.passedOver = none) ∧
    (∃ (s : State) (slot : _) (img : _), s.live = true ∧ s.spm.loading = some slot ∧ s.spm.readable = true ∧ imageOk img = false ∧ s.sys.resume = false ∧ s.spm.gen (!slot) = 0 ∧ s.spm.passedOver = none) :=
  ⟨⟨starting (fun y => { y with discovered := true }) (fun m => { m with loading := some true, genA := 0, genB := 1, xipReady := true }), true, anImage, by and_intros <;> first | with_reducible exact anImage_ok | decide +kernel⟩,
   ⟨starting (fun y => { y with discovered := true }) (fun m => { m with loading := some true, genA := 1, genB := 2, xipReady := true }), true, [], by decide +kernel⟩,
   ⟨(starting (fun y => { y with discovered := true }) (fun m => { m with loading := some true, genA := 1, genB := 1, xipReady := true })).onNvs fun n => { n with opens := [{ kind := 5, loc := 0x800000, page := 0, line := 6144 }] }, true, anImage, by and_intros <;> first | with_reducible exact anImage_ok | decide +kernel⟩,
   ⟨starting (fun y => { y with discovered := true, resume := true }) (fun m => { m with loading := some true, genA := 1, genB := 2, xipReady := true }), true, [], by decide +kernel⟩,
   ⟨starting (fun y => { y with discovered := true }) (fun m => { m with loading := some true, genA := 0, genB := 2, xipReady := true }), true, [], by decide +kernel⟩⟩

theorem test_witness_StartUpTablesBuilt :
    (∃ (s : State) (o : _) (sec : _), s.live = true ∧ s.spm.erasing = some o ∧ o.addr = sec ∧ o.suspended = false) ∧
    (∃ (s : State), s.spm.erasing = none) ∧
    (∃ (s : State), s.live = true ∧ s.nvs.scanned = true ∧ s.spm.booted = true ∧ s.sys.wasters = false ∧ (s.nvs.opens.filter (fun m => m.kind == 1)).length ≤ 4096 ∧ (s.nvs.opens.filter (fun m => m.kind == 3)).length ≤ 256) ∧
    (∃ (s : State), s.live = true ∧ s.nvs.scanned = true ∧ s.spm.booted = true ∧ s.sys.restored = false ∧ s.nvs.snapValid = true) ∧
    (∃ (s : State), s.live = true ∧ s.nvs.scanned = true ∧ s.spm.booted = true ∧ s.sys.restored = false ∧ s.nvs.snapValid = false) :=
  ⟨⟨(run.onSys fun y => { y with reerase := [0x3000, 0x5000] }).onSpm fun m => { m with erasing := some { anOp .erase with addr := 0x3000 }, lines := [(0xC0, []), (0x100, [])] }, { anOp .erase with addr := 0x3000 }, 0x3000, by decide +kernel⟩,
   ⟨run.onSys fun y => { y with reerase := [0x3000] }, by decide +kernel⟩,
   ⟨(starting id (fun m => { m with booted := true })).onNvs fun n => { n with opens := [aMark 1, aMark 3] }, by decide +kernel⟩,
   ⟨(starting id (fun m => { m with booted := true })).onNvs fun n => { n with snapValid := true }, by decide +kernel⟩,
   ⟨starting id (fun m => { m with booted := true }), by decide +kernel⟩⟩

theorem test_witness_StartUpEnds :
    (∃ (s : State) (lun : _) (id : List Byte) (k : _) (d : _) (v : Env) (x0 : Run) (f : BitVec 64) (x1 : Run) (x : Run), s.live = true ∧ s.sys.wasters = true ∧ s.sys.restored = true ∧ lun < 512 ∧ (s.lun lun).checked = false ∧ (s.lun lun).die = some k ∧ s.img.dies[k]? = some d ∧ ((∀ l, lunChan l = lunChan lun → l < lun → (s.lun l).die = none ∨ (s.lun l).checked = true)) ∧ s.setUpRun lun d (some (sdrCycles ((s.img.rates[lunChan lun / 2]?).getD 0))) = (v, x0) ∧ x0.draw s.freeCtr = (f, x1) ∧ runSetUps v s.freeCtr (checkId d id f) x1 = some x ∧ x.good = true ∧ idMatches d (leBytes 8 x.readBack.toNat) = false) ∧
    (∃ (s : State) (lun : _) (id : List Byte) (ext : Byte) (k : _) (d : _) (v : Env) (x0 : Run) (f : BitVec 64) (x1 : Run) (x : Run) (y : Run), s.live = true ∧ s.sys.wasters = true ∧ s.sys.restored = true ∧ lun < 512 ∧ (s.lun lun).checked = false ∧ (s.lun lun).die = some k ∧ s.img.dies[k]? = some d ∧ ((∀ l, lunChan l = lunChan lun → l < lun → (s.lun l).die = none ∨ (s.lun l).checked = true)) ∧ s.setUpRun lun d (some (sdrCycles ((s.img.rates[lunChan lun / 2]?).getD 0))) = (v, x0) ∧ x0.draw s.freeCtr = (f, x1) ∧ runSetUps v s.freeCtr (checkId d id f) x1 = some x ∧ x.good = true ∧ idMatches d (leBytes 8 x.readBack.toNat) = true ∧ runSetUps v s.freeCtr (checkFeatures d ext f) x = some y ∧ y.good = true) ∧
    (∃ (s : State), s.live = true ∧ s.hif.ready = false ∧ s.spm.booted = true ∧ s.sys.wasters = true ∧ s.sys.restored = true ∧ s.pwr.padHeld = false ∧ ((∀ l, l < 512 → (s.lun l).die = none ∨ (s.lun l).checked = true)) ∧ s.cal.pending = 0 ∧ s.cal.active = 0 ∧ ((∀ c, c < 32 → s.untrained c = false))) :=
  ⟨⟨checking ([1, 2]), 3, [], 0, { aDie with id := [1, 2], initFeat := List.replicate 8 0 }, (checkRun ([1, 2])).1, (checkRun ([1, 2])).2, (checkDraw ([1, 2])).1, (checkDraw ([1, 2])).2, checkRead ([1, 2]), ⟨by decide +kernel, by decide +kernel, by decide +kernel, by decide +kernel, by decide +kernel, by decide +kernel, by decide +kernel, by (intro l h g; interval_cases l <;> exact Or.inl (by decide +kernel)), rfl, rfl, some_getD (by decide +kernel), by decide +kernel, by decide +kernel⟩⟩,
   ⟨checking (List.replicate 8 0), 3, [], 9, 0, { aDie with id := List.replicate 8 0, initFeat := List.replicate 8 0 }, (checkRun (List.replicate 8 0)).1, (checkRun (List.replicate 8 0)).2, (checkDraw (List.replicate 8 0)).1, (checkDraw (List.replicate 8 0)).2, checkRead (List.replicate 8 0), checkDone (List.replicate 8 0), ⟨by decide +kernel, by decide +kernel, by decide +kernel, by decide +kernel, by decide +kernel, by decide +kernel, by decide +kernel, by (intro l h g; interval_cases l <;> exact Or.inl (by decide +kernel)), rfl, rfl, some_getD (by decide +kernel), by decide +kernel, by decide +kernel, some_getD (by decide +kernel), by decide +kernel⟩⟩,
   ⟨{ ready3 with hif := { ready3.hif with ready := false } }, by decide +kernel⟩⟩

theorem test_witness_PaceMeterCompletes :
    (∃ (s : State) (c : _), s.sys.coldLow = false ∧ s.sys.started = true ∧ s.time.running = true ∧ s.time.tickEdge = true ∧ 100 ≤ s.time.edges ∧ 0 < c ∧ (32000000 + c) / (2 * c) < 65536) ∧
    (∃ (s : State), s.sys.coldLow = false ∧ s.sys.started = true ∧ s.time.running = true ∧ s.time.tickEdge = true ∧ 100 ≤ s.time.edges) ∧
    (∃ (s : State), s.time.tickEdge = false) ∧
    (∃ (s : State), s.sys.coldLow = false ∧ s.sys.started = true ∧ s.time.running = true ∧ s.time.tickEdge = true ∧ s.time.edges < 100) :=
  ⟨⟨run.onTime fun t => { t with tickEdge := true }, 245, by decide +kernel⟩,
   ⟨run.onTime fun t => { t with tickEdge := true }, by decide +kernel⟩,
   ⟨run.onTime fun t => { t with edges := 99 }, by decide +kernel⟩,
   ⟨run.onTime fun t => { t with edges := 99, tickEdge := true }, by decide +kernel⟩⟩

theorem test_witness_TimeRowsComplete :
    (∃ (s : State), s.sys.coldLow = false ∧ s.sys.started = true ∧ s.time.running = true ∧ s.time.arm = true ∧ s.reached s.time.alarm = true) ∧
    (∃ (s : State), s.time.arm = false) ∧
    (∃ (s : State), s.pwr.exiting = true ∧ s.pwr.ack = true ∧ s.pwr.wakeOut = false ∧ s.time.running = false ∧ s.sys.coldLow = false ∧ s.pwr.save = none) ∧
    (∃ (s : State) (k : _), s.time.running = true ∧ s.time.kr = some k) :=
  ⟨⟨run.onTime fun t => { t with arm := true, alarm := 10000000 }, by decide +kernel⟩,
   ⟨run, by decide +kernel⟩,
   ⟨((asleep .ember).onTime fun t => { t with running := false }).onPwr fun p => { p with exiting := true, ack := true }, by decide +kernel⟩,
   ⟨run.onTime fun t => { t with kr := some 5000, aon := 5000 }, 5000, by decide +kernel⟩⟩

theorem test_witness_PadsComplete :
    (∃ (s : State), s.awake = true) ∧
    (∃ (s : State) (data : Word), s.hcpFree ∧ s.pwr.padHeld = true ∧ bit data 0 = true) ∧
    (∃ (s : State) (data : Word), s.hcpFree ∧ ((s.pwr.padHeld = false ∨ bit data 0 = false))) :=
  ⟨⟨asleep .soak, by decide +kernel⟩,
   ⟨run.onPwr fun p => { p with padHeld := true, padHold := true }, 1, by decide +kernel⟩,
   ⟨run, 1, by decide +kernel⟩⟩


theorem test_witness_StepRunsFront :
    ∃ (s : State) (c : Instr) (rest : List Instr), s.pending = c :: rest :=
  ⟨{ run with pending := [.jtagReset] }, .jtagReset, [], by decide +kernel⟩

theorem test_witness_IdleStepTicks :
    ∃ (s : State), s.pending = [] :=
  ⟨run, by decide +kernel⟩

theorem test_witness_CommandsComplete :
    ∃ (c : _), runsSchedule c = false :=
  ⟨.jtagReset, by decide +kernel⟩

theorem test_witness_OnlyDriversSetSettings :
    ∃ (c : _) (s : State) (t : _), setsSettings c = false ∧ exec c s = .next t :=
  ⟨.pspBadFrame, run, after .pspBadFrame run, ⟨by decide +kernel, exec_after (by decide +kernel)⟩⟩

theorem test_witness_OnlyTakersMoveEntries :
    ∃ (c : _) (s : State) (t : _), movesEntries c = false ∧ emptiesLedger c = false ∧ exec c s = .next t :=
  ⟨.pspBadFrame, unitAt 9 aUnit run, after .pspBadFrame (unitAt 9 aUnit run), by and_intros <;> first | decide +kernel | exact exec_after (by decide +kernel)⟩

theorem test_witness_GenMovesOnlyFromFree :
    ∃ (c : _) (s : State) (t : _) (i : _), emptiesLedger c = false ∧ exec c s = .next t ∧ t.genOf i ≠ s.genOf i :=
  ⟨.unitEntryTaken 0 131071 .ok, cmdAt 0 { aCmd .read readE with want := 1 } (dieAt 3 run), after (.unitEntryTaken 0 131071 .ok) (cmdAt 0 { aCmd .read readE with want := 1 } (dieAt 3 run)), 131071, by and_intros <;> first | decide +kernel | exact exec_after (by decide +kernel)⟩

theorem test_witness_ColdResetHoldsAll :
    ∃ (c : _) (s : State), s.sys.coldLow = true ∧ actsInColdReset c = false :=
  ⟨.kickIn, State.reset, by decide +kernel⟩

theorem test_witness_ReservedBitsStayClear :
    ∃ (s : State) (t : State), s.reservedClear ∧ step s = .next t :=
  ⟨run, run.tick, ⟨⟨fun p hp => eq_of_beq (List.all_eq_true.1 (by decide +kernel : (reservedOf run.hif run.time run.pool run.dec run.cal run.sched run.rly run.psp run.nvs.cfg).all (fun p => p.1 &&& ~~~p.2 == 0) = true) p hp), by decide +kernel, by decide +kernel, by decide +kernel, by (intro a h; cases h)⟩, rfl⟩⟩

theorem test_witness_StoresStayCanonical :
    ∃ (s : State) (t : State), s.canonical ∧ step s = .next t :=
  ⟨unitAt 9 aUnit run, State.tick (unitAt 9 aUnit run), ⟨⟨by decide +kernel, by decide +kernel, by decide +kernel, by decide +kernel, by decide +kernel, by decide +kernel⟩, rfl⟩⟩

theorem test_witness_InvariantsHoldAtReset :
    (∃ (n : _), n < 4) ∧
    (∃ (i : _), i < 131072) :=
  ⟨⟨3, by decide +kernel⟩,
   ⟨131071, by decide +kernel⟩⟩


theorem test_witness_ArbiterPicksByClassLengthTurn :
    ∃ (s : State) (ch : Nat) (t : Nat) (a : Ask), s.winner ch = some (t, a) :=
  ⟨asks3, 0, 3, Ask.mk .reset 131072 1 false, by decide +kernel⟩

theorem test_witness_PassedRequestIsPromoted :
    (∃ (s : State) (l : _) (a : _), s.request l = some a ∧ 16 ≤ (s.chan (lunChan l)).passesOf (l % 16) a) ∧
    (∃ (ch : _) (won : _) (t : _), ch < 32 ∧ t < 16 ∧ (16 * ch + t ≠ won)) ∧
    (∃ (ch : _) (won : _) (t : _), ch < 32 ∧ t < 16 ∧ (16 * ch + t ≠ won)) ∧
    (∃ (ch : _) (won : _) (t : _) (a : Ask) (b : Ask), ch < 32 ∧ t < 16 ∧ (16 * ch + t ≠ won) ∧ ((b.kind ≠ a.kind ∨ b.ix ≠ a.ix))) :=
  ⟨⟨asks3.onChan 0 fun c => { c with passes := [(3, { kind := .reset, ix := 131072, n := 16 })] }, 3, Ask.mk .reset 131072 0 false, by decide +kernel⟩,
   ⟨31, 0, 15, by decide +kernel⟩,
   ⟨31, 0, 15, by decide +kernel⟩,
   ⟨31, 0, 15, Ask.mk .reset 131072 1 false, Ask.mk .raw 131072 1 false, by decide +kernel⟩⟩

theorem test_witness_TurnsStartAtFifteen :
    ∃ (s : State), s.sys.coldLow = false ∧ s.pwr.st ≠ .cold ∧ s.ldg.halted = false ∧ s.hif.ready = true :=
  ⟨run.onChan 0 fun c => { c with ptrs := [(2, 3)] }, by decide +kernel⟩

theorem test_witness_SeedOfRegion :
    ∃ (r : Nat), r ≤ 4 :=
  ⟨4, by decide +kernel⟩

theorem test_witness_StaleEventsDiscarded :
    (∃ (s : State) (ix : _) (u : _) (gen : _), s.going = true ∧ s.unit? ix = some u ∧ u.gen ≠ gen) ∧
    (∃ (s : State) (ix : _) (gen : _), s.going = true ∧ s.unit? ix = none ∧ s.genOf ix ≠ gen) ∧
    (∃ (s : State) (ix : _) (u : _) (gen : _), s.live = true ∧ s.unit? ix = some u ∧ u.gen ≠ gen) ∧
    (∃ (s : State) (ix : _) (gen : _), s.live = true ∧ s.unit? ix = none ∧ s.genOf ix ≠ gen) ∧
    (∃ (s : State) (ch : _) (e : _) (u : _), s.PacketAt ch e ∧ s.unit? e.ix = some u ∧ u.gen ≠ e.gen) ∧
    (∃ (s : State) (lane : _) (i : _) (cfg : _) (llr : _) (u : _), s.live = true ∧ SMap.get? s.dec.busy lane = some (i, cfg, llr) ∧ i.soft = false ∧ i.cw < 4 ∧ s.unit? i.ix = some u ∧ u.gen ≠ i.gen) ∧
    (∃ (s : State) (lane : _) (i : _) (cfg : _) (llr : _) (u : _), s.live = true ∧ SMap.get? s.dec.busy (32 + lane) = some (i, cfg, llr) ∧ i.soft = true ∧ s.unit? i.ix = some u ∧ u.gen ≠ i.gen) ∧
    (∃ (s : State) (lane : _) (i : _) (cfg : _) (llr : _) (u : _), s.live = true ∧ SMap.get? s.dec.busy (64 + lane) = some (i, cfg, llr) ∧ i.cw = 4 ∧ s.unit? i.ix = some u ∧ u.gen ≠ i.gen) ∧
    (∃ (s : State) (ch : _) (b : _) (l : _) (f : RFrame) (u : _), s.BundleAt ch b l ∧ s.noneStarved ∧ f.typ = 2 ∧ l.target = false ∧ l.st = .up ∧ l.session f ∧ f.seq = l.rxSeq ∧ l.reorder = [] ∧ l.unacked = [] ∧ ((∀ e ∈ s.ldg.units, e.2.bundle = some b → e.2.kind ≠ .raw)) ∧ s.unit? f.entry = some u ∧ u.gen ≠ f.gen) ∧
    (∃ (s : State) (ch : _) (b : _) (l : _) (f : RFrame) (u : _), s.BundleAt ch b l ∧ f.typ = 3 ∧ l.target = false ∧ l.st = .up ∧ l.session f ∧ f.seq = l.rxSeq ∧ l.reorder = [] ∧ s.unit? f.entry = some u ∧ u.gen ≠ f.gen) :=
  ⟨⟨unitAt 9 aUnit ready3, 9, aUnit, 2, by decide +kernel⟩,
   ⟨ready3, 131071, 2, by decide +kernel⟩,
   ⟨unitAt 9 aUnit ready3, 9, aUnit, 2, by decide +kernel⟩,
   ⟨ready3, 131071, 2, by decide +kernel⟩,
   ⟨incoming ({ dUnit with gen := 2 }), 0, Expect.mk 9 1 0 64 false, { dUnit with gen := 2 }, by decide +kernel⟩,
   ⟨unitAt 9 ({ dUnit with st := .decoding }) (pecked (decoding 25 (DecItem.mk 9 2 0 false 0) ready3)), 25, DecItem.mk 9 2 0 false 0, Dec.reset.cfg, Dec.reset.llr, { dUnit with st := .decoding }, by decide +kernel⟩,
   ⟨unitAt 9 ({ dUnit with st := .decoding }) (pecked (decoding 35 (DecItem.mk 9 2 0 true 0) ready3)), 3, DecItem.mk 9 2 0 true 0, Dec.reset.cfg, Dec.reset.llr, { dUnit with st := .decoding }, by decide +kernel⟩,
   ⟨unitAt 9 ({ dUnit with st := .decoding }) (pecked (decoding 65 (DecItem.mk 9 2 4 false 0) ready3)), 1, DecItem.mk 9 2 4 false 0, Dec.reset.cfg, Dec.reset.llr, { dUnit with st := .decoding }, by decide +kernel⟩,
   ⟨unitAt 9 (rUnit) (linked (hostLink)), 31, 31, hostLink, { fr 2 with entry := 9, gen := 2 }, rUnit, by and_intros <;> first | decide +kernel | exact noneStarved_of (by decide +kernel)⟩,
   ⟨unitAt 9 (rUnit) (linked (hostLink)), 31, 31, hostLink, { fr 3 with entry := 9, gen := 2 }, rUnit, by decide +kernel⟩⟩

theorem test_witness_PaceRegister :
    (∃ (s : State), s.time.paceValid = false) ∧
    (∃ (s : State), s.time.paceValid = true) ∧
    (∃ (s : State), s.hcpFree) ∧
    (∃ (s : State) (c : _), s.sys.coldLow = false ∧ s.sys.started = true ∧ s.time.running = true ∧ s.time.tickEdge = true ∧ 100 ≤ s.time.edges ∧ 0 < c ∧ (32000000 + c) / (2 * c) < 65536) :=
  ⟨⟨run, by decide +kernel⟩,
   ⟨run.onTime fun t => { t with paceValid := true, pacePs := 3200 }, by decide +kernel⟩,
   ⟨run, by decide +kernel⟩,
   ⟨run.onTime fun t => { t with tickEdge := true }, 245, by decide +kernel⟩⟩

theorem test_witness_PaceExtremes :
    (∃ (s : State), s.hcpFree) ∧
    (∃ (s : State), s.hcpFree) :=
  ⟨⟨run, by decide +kernel⟩,
   ⟨run, by decide +kernel⟩⟩


theorem test_witness_ResetsHoldPins :
    (∃ (s : State), s.sys.coldLow = false ∧ s.pwr.st ≠ .cold ∧ s.ldg.halted = false ∧ s.hif.ready = true ∧ s.spm.booted = true ∧ s.pwr.padHold = false) ∧
    (∃ (s : State), s.sys.coldLow = false ∧ s.pwr.st ≠ .cold ∧ s.pwr.padHold = false ∧ ((s.ldg.halted = true ∨ (s.hif.ready = false ∧ s.sys.resume = false)))) :=
  ⟨⟨run, by decide +kernel⟩,
   ⟨run.onLdg fun l => { l with halted := true }, by decide +kernel⟩⟩

theorem test_witness_ServicePins :
    (∃ (s : State) (ch : _) (g : _) (e : _), s.pwr.padHold = false ∧ s.sys.coldLow = false ∧ s.sys.warmLow = false ∧ s.spm.booted = true ∧ s.targetPers ch = false ∧ (s.chan ch).fenced = false ∧ bit s.cal.active (ch / 2) = false ∧ (s.chan ch).grant = some g ∧ e < 8) ∧
    (∃ (s : State) (ch : _), s.pwr.padHold = false ∧ s.sys.coldLow = false ∧ s.spm.booted = true ∧ s.targetPers ch = false ∧ (s.chan ch).fenced = true) ∧
    (∃ (s : State), s.pwr.padHold = true) :=
  ⟨⟨granted .program .running, 0, aGrant .program .running, 7, by decide +kernel⟩,
   ⟨run.onChan 31 fun c => { c with fenced := true }, 31, by decide +kernel⟩,
   ⟨run.onPwr fun p => { p with padHold := true }, by decide +kernel⟩⟩

end Sys2Proof.Tests
end

/-! The arbiter of a channel: its winner, the classes of the requests, their pass counts, and the turns after a reset (R46,
R144, R145, R168). -/

namespace Sys2Proof.Machine

/-! ## Tables and channels -/

theorem SMap.get?_erase_same {α : Type} (k : Nat) : (m : SMap α) → SMap.get? (SMap.erase m k) k = none
  | [] => rfl
  | (j, v) :: r => by
    have ih := SMap.get?_erase_same k r
    by_cases h : j = k
    · simpa [SMap.erase, h] using ih
    · simpa [SMap.erase, SMap.get?, h] using ih

theorem SMap.getD_put_same {α : Type} [DecidableEq α] (d : α) (m : SMap α) (k : Nat) (v : α) :
    SMap.getD (SMap.put d m k v) k d = v := by
  unfold SMap.put SMap.getD
  split
  case isTrue h => simp [SMap.get?_erase_same, h]
  case isFalse => simp [SMap.get?_set]

theorem SMap.get?_mapVal {α β : Type} (f : α → β) (k : Nat) : (m : SMap α) →
    SMap.get? (m.map (fun e => (e.1, f e.2))) k = (SMap.get? m k).map f
  | [] => rfl
  | (j, v) :: r => by
    have ih := SMap.get?_mapVal f k r
    by_cases h : j = k <;> simp [SMap.get?, h, ih]

theorem State.chan_onChan_same (c : Nat) (f : Chan → Chan) (s : State) : (s.onChan c f).chan c = f (s.chan c) :=
  SMap.getD_put_same _ _ _ _

theorem State.chan_onUnit (c ix : Nat) (f : LUnit → LUnit) (s : State) : (s.onUnit ix f).chan c = s.chan c := rfl

theorem State.chan_congr {s t : State} (h : t.che = s.che) (c : Nat) : t.chan c = s.chan c := by
  unfold State.chan
  rw [h]

theorem State.che_of_outside {B : Nat} {s t : State} (hB : B.testBit 13 = false) (h : t.outside B = s.outside B) :
    t.che = s.che := by
  simpa [State.outside, hB] using congrArg State.che h

/-! ## The winner (R145) -/

/-- A running minimum is below every element that it has passed. -/
theorem foldl_min_le_of_mem {α : Type} (g : α → Nat) {l : List α} {a : α} (h : a ∈ l) (i : Nat) :
    l.foldl (fun m a => min m (g a)) i ≤ g a := by
  have below_start : ∀ (l : List α) (i : Nat), l.foldl (fun m a => min m (g a)) i ≤ i := fun l i =>
    l.foldlRecOn (motive := (· ≤ i)) _ le_rfl fun _ ih _ _ => (min_le_left _ _).trans ih
  induction l generalizing i with
  | nil => cases h
  | cons b r ih =>
    rcases List.mem_cons.1 h with rfl | h
    · exact (below_start r _).trans (min_le_right _ _)
    · exact ih h _

/-- The circular search finds a thread that qualifies, and none that qualifies comes sooner after thread `p`. -/
theorem rrFind_nearest {p t : Nat} {ok : Nat → Bool} (h : rrFind 16 (p + 1) ok = some t) :
    ok t = true ∧ ∀ u, u < 16 → ok u = true → (t + 15 - p % 16) % 16 ≤ (u + 15 - p % 16) % 16 := by
  obtain ⟨hok, i, hi, ht, before⟩ := List.find?_eq_some_iff_getElem.1 h
  simp only [List.length_map, List.length_range, List.getElem_map, List.getElem_range] at hi ht before
  refine ⟨hok, fun u hu huok => ?_⟩
  by_contra sooner
  -- `u` stands at place `(u + 15 - p % 16) % 16` of the search, before the place `i` of `t`
  have hj : (u + 15 - p % 16) % 16 < i := by omega
  have hu' : (p + 1 + (u + 15 - p % 16) % 16) % 16 = u := by omega
  simpa [hu', huok] using before _ hj

theorem State.thread_lt_of_mem_asks {s : State} {ch : Nat} {q : Nat × Ask} (h : q ∈ s.asks ch) : q.1 < 16 := by
  obtain ⟨t, ht, hq⟩ := List.mem_filterMap.1 h
  obtain ⟨a, -, rfl⟩ := Option.map_eq_some_iff.1 hq
  exact List.mem_range.1 ht

/-- The winner has the least key of the requests, and of those with its key none comes sooner in the round-robin. -/
theorem State.winner_least {s : State} {ch t : Nat} {a : Ask} (h : s.winner ch = some (t, a)) :
    (t, a) ∈ s.asks ch ∧ ∀ q ∈ s.asks ch, a.key ≤ q.2.key ∧ (q.2.key = a.key →
      (t + 15 - (SMap.getD (s.chan ch).ptrs a.key 15) % 16) % 16 ≤
        (q.1 + 15 - (SMap.getD (s.chan ch).ptrs a.key 15) % 16) % 16) := by
  obtain ⟨u, hturn, hfind⟩ := Option.bind_eq_some_iff.1 h
  have hut : t = u := by simpa using List.find?_some hfind
  obtain ⟨hmem, hkey⟩ := List.mem_filter.1 (List.mem_of_find?_eq_some hfind)
  have hbest : a.key = _ := eq_of_beq hkey
  rw [← hbest, ← hut] at hturn
  refine ⟨hmem, fun q hq => ⟨hbest ▸ foldl_min_le_of_mem (fun a : Nat × Ask => a.2.key) hq 16, fun hsame => ?_⟩⟩
  refine (rrFind_nearest hturn).2 q.1 (State.thread_lt_of_mem_asks hq) (List.any_eq_true.2 ⟨q, ?_, by simp⟩)
  exact List.mem_filter.2 ⟨hq, by simp [hsame]⟩

/-- The order of the keys is that of class, then length. -/
theorem Ask.key_le_iff {a b : Ask} :
    a.key ≤ b.key ↔ a.cls < b.cls ∨ (a.cls = b.cls ∧ (a.long = true → b.long = true)) := by
  unfold Ask.key
  cases a.long <;> cases b.long <;> simp <;> omega

theorem arbiterPicksByClassLengthTurn : Stated.ArbiterPicksByClassLengthTurn := by
  intro s ch t a h
  obtain ⟨hmem, least⟩ := State.winner_least h
  refine ⟨hmem, fun q hq => ?_⟩
  obtain ⟨hle, hturn⟩ := least q hq
  refine ⟨?_, ?_, fun hcls hlong => hturn (by simp only [Ask.key, hcls, hlong])⟩
  · rcases Ask.key_le_iff.1 hle with hlt | ⟨heq, -⟩
    · exact hlt.le
    · exact heq.le
  · intro hcls
    rcases Ask.key_le_iff.1 hle with hlt | ⟨-, hlong⟩
    · exact absurd hcls hlt.ne'
    · exact hlong

/-! ## The classes (R144, R145) -/

theorem unitClass_of_reads {u : LUnit} (hp : u.kind ≠ .patrol) (h : u.kind.reads = true) :
    unitClass u = if u.urgent then 0 else 1 := by
  simp [unitClass, hp, h]

theorem requestClasses : Stated.RequestClasses := by
  intro u
  refine ⟨fun h => ?_, fun h => ?_, fun h => ?_⟩
  · simp only [List.mem_cons, List.not_mem_nil, or_false] at h
    rcases h with h | h | h | h <;> exact unitClass_of_reads (by simp [h]) (by simp [h, UKind.reads])
  · simp only [List.mem_cons, List.not_mem_nil, or_false] at h
    rcases h with h | h <;> simp [unitClass, h, UKind.reads]
  · simp [unitClass, h, UKind.reads]

/-! ## The turns after a reset (R145) -/

theorem State.chan_coldReset (s : State) (c : Nat) : s.coldReset.chan c = Chan.init := rfl

/-- Where every listed channel loses its pointers, every channel has none. -/
theorem State.ptrs_chan_of_cleared {f : Chan → Chan} (hf : ∀ x, (f x).ptrs = []) (s : State) (c : Nat) :
    ((s.onChe (fun m => m.map (fun e => (e.1, f e.2)))).chan c).ptrs = [] := by
  simp only [State.chan, State.onChe_che, SMap.getD, SMap.get?_mapVal]
  cases SMap.get? s.che c with
  | none => rfl
  | some x => exact hf x

theorem State.ptrs_chan_of_kept {f : Chan → Chan} (hf : ∀ x, (f x).ptrs = x.ptrs) (s : State) (c : Nat) :
    ((s.onChe (fun m => m.map (fun e => (e.1, f e.2)))).chan c).ptrs = (s.chan c).ptrs := by
  simp only [State.chan, State.onChe_che, SMap.getD, SMap.get?_mapVal]
  cases SMap.get? s.che c with
  | none => rfl
  | some x => exact hf x

theorem State.chan_cutPackets (l : List Nat) (s : State) (c : Nat) :
    (l.foldl (fun (s : State) ch => s.cutPacket ch) s).chan c = s.chan c :=
  State.chan_congr (State.che_of_outside (B := 0x800100) rfl
    (foldl_frame _ l (fun t ch => State.cutPacket_frame ch t rfl) s)) c

theorem State.ptrs_chan_warmGrants (s : State) (c : Nat) : (s.warmGrants.chan c).ptrs = [] := by
  unfold State.warmGrants
  dsimp only
  rw [State.chan_congr (State.onLuns_che _ _)]
  refine (State.ptrs_chan_of_kept (f := fun x => { x with late := [] }) (fun _ => rfl) _ c).trans ?_
  rw [State.chan_cutPackets]
  exact State.ptrs_chan_of_cleared (f := fun x => { x.endGrants with ptrs := [], passes := [] }) (fun _ => rfl) _ c

/-- After the grants have ended the warm reset leaves the channels alone. -/
theorem State.che_warmAssert (s : State) : ∃ u : State, s.warmAssert.che = u.warmGrants.che := by
  unfold State.warmAssert
  dsimp only
  apply Exists.intro
  simp only [State.onLdg_che, State.onSpm_che, State.onRly_che, State.onHif_che, State.onIrq_che, State.onSys_che]
  exact State.che_of_outside (B := 0x10300) rfl (State.warmPool_frame _ rfl)

theorem State.ptrs_chan_warmAssert (s : State) (c : Nat) : (s.warmAssert.chan c).ptrs = [] := by
  obtain ⟨u, hu⟩ := State.che_warmAssert s
  rw [State.chan_congr hu]
  exact State.ptrs_chan_warmGrants u c

theorem execWarmResetAssert_of_ready {s : State} (hcold : s.sys.coldLow = false) (hst : s.pwr.st ≠ .cold)
    (hhalt : s.ldg.halted = false) (hready : s.hif.ready = true) : execWarmResetAssert s = .next s.warmAssert := by
  simp [execWarmResetAssert, hcold, hst, hhalt, hready]

theorem turnsStartAtFifteen : Stated.TurnsStartAtFifteen := by
  refine ⟨fun s => ⟨s.coldReset, rfl, fun c k => ?_⟩, fun s hcold hst hhalt hready =>
    ⟨s.warmAssert, execWarmResetAssert_of_ready hcold hst hhalt hready, fun c k => ?_⟩⟩
  · rw [State.chan_coldReset]
    rfl
  · rw [State.ptrs_chan_warmAssert]
    rfl

/-! ## The pass counts (R46, R168) -/

/-- A thread's request is its own request with the class raised. -/
theorem State.request_eq_some {s : State} {l : Nat} {a : Ask} (h : s.request l = some a) :
    ∃ d b, s.ownAsk l d = some b ∧ a = { b with cls := s.raisedClass l b } := by
  simp only [State.request] at h
  split at h
  case isTrue => cases h
  case isFalse =>
    obtain ⟨d, -, hd⟩ := Option.bind_eq_some_iff.1 h
    obtain ⟨b, hb, rfl⟩ := Option.map_eq_some_iff.1 hd
    exact ⟨d, b, hb, rfl⟩

/-- The count belongs to the request's kind and entry, whatever its class. -/
theorem Chan.passesOf_withCls (c : Chan) (t : Nat) (a : Ask) (n : Nat) :
    c.passesOf t { a with cls := n } = c.passesOf t a := rfl

theorem State.raisedClass_of_passed {s : State} {l : Nat} {a : Ask} (h : 16 ≤ (s.chan (lunChan l)).passesOf (l % 16) a) :
    s.raisedClass l a = 0 := if_pos h

theorem State.cls_of_passed {s : State} {l : Nat} {a : Ask} (h : s.request l = some a)
    (hn : 16 ≤ (s.chan (lunChan l)).passesOf (l % 16) a) : a.cls = 0 := by
  obtain ⟨d, b, -, rfl⟩ := State.request_eq_some h
  rw [Chan.passesOf_withCls] at hn
  exact State.raisedClass_of_passed hn

/-- A channel whose thread `t` has been passed over once more with the request `a`. -/
def Chan.passed (t : Nat) (a : Ask) (c : Chan) : Chan :=
  { c with
    passes := SMap.set c.passes t { kind := a.kind, ix := a.ix, n := c.passesOf t a + 1 },
    promoteCnt := if c.passesOf t a + 1 = 16 then c.promoteCnt + 1 else c.promoteCnt }

theorem Chan.passesOf_passed (t : Nat) (a b : Ask) (c : Chan) :
    (c.passed t a).passesOf t b = if a.kind = b.kind ∧ a.ix = b.ix then c.passesOf t a + 1 else 0 := by
  simp [Chan.passesOf, Chan.passed, SMap.get?_set]

theorem Chan.promoteCnt_passed (t : Nat) (a : Ask) (c : Chan) :
    (c.passed t a).promoteCnt = c.promoteCnt + (if c.passesOf t a = 15 then 1 else 0) := by
  by_cases h : c.passesOf t a = 15 <;> simp [Chan.passed, h]

theorem State.countPasses_of_winner (ch t : Nat) (a : Ask) (s : State) :
    State.countPasses ch (16 * ch + t) [(t, a)] s = s := if_pos rfl

/-- A request that has not won is passed over. -/
theorem State.chan_countPasses_of_loser {ch won t : Nat} (h : 16 * ch + t ≠ won) (a : Ask) (s : State) :
    (State.countPasses ch won [(t, a)] s).chan ch = (s.chan ch).passed t a := by
  simp only [State.countPasses, List.foldl_cons, List.foldl_nil, if_neg h, State.chan_onUnit, State.chan_onChan_same]
  rfl

theorem passedRequestIsPromoted : Stated.PassedRequestIsPromoted := by
  refine ⟨fun s l a h hn => State.cls_of_passed h hn, fun s ch won t a _ _ h => ?_, fun s ch won t a _ _ h => ?_,
    fun s ch t a => State.countPasses_of_winner ch t a s, fun s ch won t a b _ _ h hab => ?_⟩
  · rw [State.chan_countPasses_of_loser h, Chan.passesOf_passed, if_pos ⟨rfl, rfl⟩]
  · rw [State.chan_countPasses_of_loser h, Chan.promoteCnt_passed]
  · have other : ¬(a.kind = b.kind ∧ a.ix = b.ix) := fun e => hab.elim (absurd e.1.symm) (absurd e.2.symm)
    rw [State.chan_countPasses_of_loser h, Chan.passesOf_passed, if_neg other]

/-- Settles O13: the winner has the least key, which orders class before length, and the circular search gives the turn; both
resets leave no pointer; a count of 16 raises the class. -/
theorem arbiterOrder : Obligations.ArbiterOrder :=
  ⟨arbiterPicksByClassLengthTurn, requestClasses, turnsStartAtFifteen, passedRequestIsPromoted⟩

end Sys2Proof.Machine

/-! The randomiser seed of a region (R198): its value, and that the register never starts at zero. -/

namespace Sys2Proof.Codec

/-- The sum of R198 before a zero is replaced. -/
def seedSum (page block plane cw : Nat) : Nat :=
  (page * 0x9E3779B1 + block * 0x85EBCA6B + cw + plane * 0x400) % 2 ^ 31

theorem seedSum_lt (page block plane cw : Nat) : seedSum page block plane cw < 2 ^ 31 :=
  Nat.mod_lt _ (Nat.two_pow_pos 31)

theorem seed_eq_ofNat_seedSum (page block plane cw : Nat) :
    seed page block plane cw =
      BitVec.ofNat 31 (if seedSum page block plane cw = 0 then 1 else seedSum page block plane cw) := rfl

theorem toNat_seed_of_seedSum_ne_zero {page block plane cw : Nat} (h : seedSum page block plane cw ≠ 0) :
    (seed page block plane cw).toNat = seedSum page block plane cw := by
  rw [seed_eq_ofNat_seedSum, if_neg h, BitVec.toNat_ofNat, Nat.mod_eq_of_lt (seedSum_lt ..)]

theorem seed_of_seedSum_eq_zero {page block plane cw : Nat} (h : seedSum page block plane cw = 0) :
    seed page block plane cw = 1 := by
  rw [seed_eq_ofNat_seedSum, if_pos h]
  rfl

/-- The register would stay at zero for ever; no region's seed starts it there. -/
theorem seed_ne_zero (page block plane cw : Nat) : seed page block plane cw ≠ 0 := by
  by_cases h : seedSum page block plane cw = 0
  · rw [seed_of_seedSum_eq_zero h]
    decide
  · intro hzero
    have hval := toNat_seed_of_seedSum_ne_zero h
    rw [hzero] at hval
    exact h hval.symm

end Sys2Proof.Codec

namespace Sys2Proof.Machine

/-- Settles O14: the seed is the sum modulo 2^31 where that is not zero, and one where it is; so it is never zero. -/
theorem seedOfRegion : Obligations.SeedOfRegion := by
  intro a r _
  refine ⟨fun h => Codec.toNat_seed_of_seedSum_ne_zero h, fun h => ?_, Codec.seed_ne_zero _ _ _ _⟩
  rw [Codec.seed_of_seedSum_eq_zero h]
  rfl

end Sys2Proof.Machine

/-! Stale events (R319): an event whose GEN is not its entry's is discarded and counted, by each row before anything of the
entry changes. A relay frame first takes what every good frame brings, so most of this part says that this leaves alone the
count and what the link judges the frame by. -/

namespace Sys2Proof.Machine

/-! ## Stale events at the dies, the channels and the decoders (R319) -/

theorem onlyIf_true {c : Bool} (h : c = true) (f : State → State) (s : State) : onlyIf c f s = .next (f s) := by
  rw [onlyIf, if_pos h]

theorem urgencyPromotion_stale {s : State} {ix : Nat} {u : LUnit} {gen : BitVec 16} (hgo : s.going = true)
    (hu : s.unit? ix = some u) (hgen : u.gen ≠ gen) : exec (.urgencyPromotion ix gen) s = .next s.stale := by
  show execUrgencyPromotion ix gen s = _
  simp only [execUrgencyPromotion, hu, if_pos hgen]
  exact onlyIf_true hgo _ _

theorem urgencyPromotion_stale_of_free {s : State} {ix : Nat} {gen : BitVec 16} (hgo : s.going = true)
    (hu : s.unit? ix = none) (hgen : s.genOf ix ≠ gen) : exec (.urgencyPromotion ix gen) s = .next s.stale := by
  show execUrgencyPromotion ix gen s = _
  simp only [execUrgencyPromotion, hu]
  exact onlyIf_true (by simp [hgo, hgen]) _ _

theorem predicateDecision_stale {s : State} {ix : Nat} {u : LUnit} {gen : BitVec 16} (hlive : s.live = true)
    (hu : s.unit? ix = some u) (hgen : u.gen ≠ gen) : exec (.predicateDecision ix gen) s = .next s.stale := by
  show execPredicateDecision ix gen s = _
  simp only [execPredicateDecision, hu, if_pos hgen]
  exact onlyIf_true hlive _ _

theorem predicateDecision_stale_of_free {s : State} {ix : Nat} {gen : BitVec 16} (hlive : s.live = true)
    (hu : s.unit? ix = none) (hgen : s.genOf ix ≠ gen) : exec (.predicateDecision ix gen) s = .next s.stale := by
  show execPredicateDecision ix gen s = _
  simp only [execPredicateDecision, hu]
  exact onlyIf_true (by simp [hlive, hgen]) _ _

/-- The packet passes the ingress queue; the rest of it is discarded. -/
theorem packetComplete_stale {s : State} {ch : Nat} {bytes : List Byte} {short : Bool} {e : Expect} {u : LUnit}
    (hp : s.PacketAt ch e) (hu : s.unit? e.ix = some u) (hgen : u.gen ≠ e.gen) :
    ∃ q : SMap Queue, exec (.packetComplete ch bytes short none) s =
      .next ((s.onChan ch Chan.popArriving).onPool (fun p => { p with ingress := q })).stale := by
  obtain ⟨hlive, hhead, hflush, -, hbusy⟩ := hp
  rw [State.ingressOf] at hflush
  have passed : ∀ f g, ((s.onChan ch f).onPool g).unit? e.ix = some u := fun _ _ => hu
  have hgo : (s.live && (!(SMap.getD s.pool.ingress ch Queue.init).flush ||
      (SMap.getD s.pool.ingress ch Queue.init).closeShort) && !s.unitIs (fun u => rawPeckBusy u e.region) e.ix) = true := by
    simp [hlive, hflush, hbusy]
  apply Exists.intro
  show execPacketComplete ch bytes short none s = _
  simp only [execPacketComplete, hhead]
  rw [onlyIf_true hgo]
  simp only [passed, if_pos hgen]
  rfl

/-- A decode that ends frees its lane first. -/
theorem State.hardEnd_stale {s : State} {i : DecItem} {u : LUnit} (hu : s.unit? i.ix = some u) (hgen : u.gen ≠ i.gen)
    (lane : Nat) (cfg llr : Word) : s.hardEnd lane i cfg llr = (s.freeLane lane).stale := by
  have hu' : (s.freeLane lane).unit? i.ix = some u := hu
  simp only [State.hardEnd, hu', if_pos hgen]

theorem State.softEnd_stale {s : State} {i : DecItem} {u : LUnit} (hu : s.unit? i.ix = some u) (hgen : u.gen ≠ i.gen)
    (lane : Nat) (cfg llr : Word) : s.softEnd lane i cfg llr = (s.freeLane lane).stale := by
  have hu' : (s.freeLane lane).unit? i.ix = some u := hu
  simp only [State.softEnd, hu', if_pos hgen]

theorem State.sherdEnd_stale {s : State} {i : DecItem} {u : LUnit} (hu : s.unit? i.ix = some u) (hgen : u.gen ≠ i.gen)
    (lane : Nat) : s.sherdEnd lane i = (s.freeLane lane).stale := by
  have hu' : (s.freeLane lane).unit? i.ix = some u := hu
  simp only [State.sherdEnd, hu', if_pos hgen]

theorem hardDecodeEnd_eq {s : State} {lane : Nat} {i : DecItem} {cfg llr : Word} (hlive : s.live = true)
    (hbusy : SMap.get? s.dec.busy lane = some (i, cfg, llr)) (hsoft : i.soft = false) (hcw : i.cw < 4) :
    exec (.hardDecodeEnd .hard lane none) s = .next (s.hardEnd lane i cfg llr) := by
  show execHardDecodeEnd .hard lane none s = _
  simp only [execHardDecodeEnd, hbusy]
  exact onlyIf_true (by simp [hlive, hsoft, hcw]) _ _

theorem softDecodeEnd_eq {s : State} {lane : Nat} {i : DecItem} {cfg llr : Word} (hlive : s.live = true)
    (hbusy : SMap.get? s.dec.busy (32 + lane) = some (i, cfg, llr)) (hsoft : i.soft = true) :
    exec (.softDecodeEnd lane none) s = .next (s.softEnd (32 + lane) i cfg llr) := by
  show execSoftDecodeEnd lane none s = _
  simp only [execSoftDecodeEnd, hbusy]
  exact onlyIf_true (by simp [hlive, hsoft]) _ _

theorem sherdDecodeEnd_eq {s : State} {lane : Nat} {i : DecItem} {cfg llr : Word} (hlive : s.live = true)
    (hbusy : SMap.get? s.dec.busy (64 + lane) = some (i, cfg, llr)) (hcw : i.cw = 4) :
    exec (.sherdDecodeEnd lane none) s = .next (s.sherdEnd (64 + lane) i) := by
  show execSherdDecodeEnd lane none s = _
  simp only [execSherdDecodeEnd, hbusy]
  exact onlyIf_true (by simp [hlive, hcw]) _ _

/-- What the end of a decode whose event is stale leaves: the lane free and the event counted. -/
theorem State.freeLane_stale_effect (s : State) (lane : Nat) :
    (s.freeLane lane).stale.ldg = { s.ldg with staleCnt := s.ldg.staleCnt + 1 } ∧
      (s.freeLane lane).stale.dec = { s.dec with busy := SMap.erase s.dec.busy lane } ∧
      s.sameBut [.ldg, .dec] (s.freeLane lane).stale := ⟨rfl, rfl, rfl⟩

/-! ## What a link judges the next sequenced frame by (R350) -/

theorem SMap.get?_upd_same {α : Type} (k : Nat) (f : α → α) : (m : SMap α) →
    SMap.get? (SMap.upd m k f) k = (SMap.get? m k).map f
  | [] => rfl
  | (j, v) :: r => by
    have ih := SMap.get?_upd_same k f r
    rw [SMap.upd] at ih
    by_cases h : j = k <;> simp [SMap.upd, SMap.get?, h, ih]

theorem State.link?_onLink (b : Nat) (f : Link → Link) (s : State) : (s.onLink b f).link? b = (s.link? b).map f :=
  SMap.get?_upd_same b f s.rly.links

theorem State.link?_onLink_of_some {b : Nat} {s : State} {l : Link} (hl : s.link? b = some l) (f : Link → Link) :
    (s.onLink b f).link? b = some (f l) := (State.link?_onLink b f s).trans (congrArg (Option.map f) hl)

/-- The link sends and takes frames: it is up, or holds for a training (R358). -/
def Link.works (l : Link) : Bool := l.st == .up || l.st == .hold

/-- What a link judges the next sequenced frame by: its role, its service, its session, the SEQ due and the reorder store. -/
abbrev Link.intake (l : Link) : Bool × Bool × Word × Word × BitVec 12 × List (RFrame × Option Nat) :=
  (l.target, l.works, l.host, l.tgt, l.rxSeq, l.reorder)

/-- What bundle `b` judges the next sequenced frame by, and the count of stale events (R319). -/
def State.intake (b : Nat) (s : State) :
    Word × Option (Bool × Bool × Word × Word × BitVec 12 × List (RFrame × Option Nat)) :=
  (s.ldg.staleCnt, (s.link? b).map Link.intake)

theorem Link.works_of_intake {l m : Link} (h : m.intake = l.intake) : m.works = l.works := congrArg (fun x => x.2.1) h

theorem State.staleCnt_of_intake {b : Nat} {s t : State} (h : t.intake b = s.intake b) :
    t.ldg.staleCnt = s.ldg.staleCnt := congrArg Prod.fst h

theorem State.link_of_intake {b : Nat} {s t : State} {l : Link} (h : t.intake b = s.intake b) (hl : s.link? b = some l) :
    ∃ m, t.link? b = some m ∧ m.intake = l.intake := by
  have hlink : (t.link? b).map Link.intake = some l.intake := (congrArg Prod.snd h).trans (congrArg (Option.map Link.intake) hl)
  exact Option.map_eq_some_iff.1 hlink

section
variable (b : Nat)

/-- What touches neither the ledger (block 7) nor the links (block 17), so blocks of the mask 0x1FDFF7F alone, leaves the intake as
it is. -/
theorem State.intake_of_outside {s t : State} (h : t.outside 0x1FDFF7F = s.outside 0x1FDFF7F) : t.intake b = s.intake b := by
  have hldg : t.ldg = s.ldg := by simpa [State.outside, Nat.testBit] using congrArg State.ldg h
  have hrly : t.rly = s.rly := by simpa [State.outside, Nat.testBit] using congrArg State.rly h
  rw [State.intake, State.intake, State.link?, State.link?, hldg, hrly]

theorem State.onRly_intake {f : Rly → Rly} {s : State} (h : (f s.rly).links = s.rly.links) :
    (s.onRly f).intake b = s.intake b := by
  simp only [State.intake, State.link?, State.onRly_rly, State.onRly_ldg, h]

@[simp] theorem State.onUnit_intake (ix : Nat) (f : LUnit → LUnit) (s : State) : (s.onUnit ix f).intake b = s.intake b := rfl
@[simp] theorem State.onCmd_intake (ctx : Nat) (f : Cmd → Cmd) (s : State) : (s.onCmd ctx f).intake b = s.intake b := rfl
@[simp] theorem State.onLun_intake (l : Nat) (f : Lun → Lun) (s : State) : (s.onLun l f).intake b = s.intake b := rfl
@[simp] theorem State.onPool_intake (f : Pool → Pool) (s : State) : (s.onPool f).intake b = s.intake b := rfl
@[simp] theorem State.onCal_intake (f : Cal → Cal) (s : State) : (s.onCal f).intake b = s.intake b := rfl
@[simp] theorem State.onDma_intake (f : Dma → Dma) (s : State) : (s.onDma f).intake b = s.intake b := rfl
@[simp] theorem State.onChain_intake (id : ChainId) (f : Chain → Chain) (s : State) :
    (s.onChain id f).intake b = s.intake b := rfl
@[simp] theorem State.withdraw_intake (l ix : Nat) (s : State) : (s.withdraw l ix).intake b = s.intake b := rfl
@[simp] theorem State.placeMerge_intake (l : Nat) (s : State) : (s.placeMerge l).intake b = s.intake b := rfl
@[simp] theorem State.latchResume_intake (l : Nat) (s : State) : (s.latchResume l).intake b = s.intake b := rfl
@[simp] theorem State.patrolEnded_intake (u : LUnit) (st : Status) (s : State) :
    (s.patrolEnded u st).intake b = s.intake b := rfl
@[simp] theorem State.decideSuspend_intake (l : Nat) (s : State) : (s.decideSuspend l).intake b = s.intake b :=
  State.intake_of_outside b (State.decideSuspend_frame _ _ rfl)
@[simp] theorem State.nvsMarker_intake (u : Option Nat) (k loc p : Nat) (s : State) :
    (s.nvsMarker u k loc p).intake b = s.intake b := State.intake_of_outside b (State.nvsMarker_frame _ _ _ _ _ rfl)
@[simp] theorem State.considerHead_intake (c : Nat) (s : State) : (s.considerHead c).intake b = s.intake b :=
  State.intake_of_outside b (State.considerHead_frame _ _ rfl)
@[simp] theorem State.release_intake (ps : List Nat) (s : State) : (s.release ps).intake b = s.intake b :=
  State.intake_of_outside b (State.release_frame _ _ rfl)
@[simp] theorem State.dropSense_intake (ix : Nat) (cw : Option Nat) (s : State) :
    (s.dropSense ix cw).intake b = s.intake b := State.intake_of_outside b (State.dropSense_frame _ _ _ rfl)
@[simp] theorem State.chainRead_intake (id : ChainId) (what : RdWhat) (a n : Nat) (s : State) :
    (s.chainRead id what a n).intake b = s.intake b := State.intake_of_outside b (State.chainRead_frame _ _ _ _ _ rfl)
@[simp] theorem State.writeRun_intake (id : ChainId) (what : WrWhat) (a : Nat) (bs : List Byte) (s : State) :
    (s.writeRun id what a bs).intake b = s.intake b := State.intake_of_outside b (State.writeRun_frame _ _ _ _ _ rfl)
@[simp] theorem State.writeBacks_intake (id : ChainId) (s : State) : (s.writeBacks id).intake b = s.intake b :=
  State.intake_of_outside b (State.writeBacks_frame _ _ rfl)
@[simp] theorem State.advance_intake (id : ChainId) (beyond : Bool) (s : State) :
    (s.advance id beyond).intake b = s.intake b := State.intake_of_outside b (State.advance_frame _ _ _ rfl)

theorem State.onLink_intake {f : Link → Link} {s : State} (h : ∀ l, s.link? b = some l → (f l).intake = l.intake) :
    (s.onLink b f).intake b = s.intake b := by
  refine Prod.ext rfl ?_
  show ((s.onLink b f).link? b).map Link.intake = (s.link? b).map Link.intake
  rw [State.link?_onLink, Option.map_map]
  exact Option.map_congr h

theorem State.fold_intake {α : Type} {f : State → α → State} (h : ∀ s a, (f s a).intake b = s.intake b) (l : List α)
    (s : State) : (l.foldl f s).intake b = s.intake b := fold_leaves (State.intake b) h rfl l

/-! ### Units that end -/

@[simp] theorem State.prepare_intake (l : Nat) (s : State) : (s.prepare l).intake b = s.intake b := by
  unfold State.prepare
  dsimp only
  split
  · rfl
  · split
    · rfl
    · refine ite_leaves (State.fold_intake b (fun t j => ?_) _ _) rfl
      split
      · exact ite_leaves (by simp) rfl
      · rfl

@[simp] theorem State.headEvent_intake (l : Nat) (s : State) : (s.headEvent l).intake b = s.intake b := by
  simp [State.headEvent]

@[simp] theorem State.unlist_intake (ix : Nat) (s : State) : (s.unlist ix).intake b = s.intake b := by
  unfold State.unlist
  split
  · rfl
  · exact ite_leaves (by simp) rfl

@[simp] theorem State.dropAsks_intake (c ix : Nat) (s : State) : (s.dropAsks c ix).intake b = s.intake b := by
  simp [State.dropAsks]

@[simp] theorem State.endUnit_intake (ix : Nat) (st : UState) (status : Status) (failCw : Nat) (s : State) :
    (s.endUnit ix st status failCw).intake b = s.intake b := by
  unfold State.endUnit
  split
  · rfl
  · refine ite_leaves rfl ?_
    split
    · split <;> simp
    · simp

/-! ### Chains -/

@[simp] theorem State.dmaLess_intake (ix cw n : Nat) (s : State) : (s.dmaLess ix cw n).intake b = s.intake b := by
  unfold State.dmaLess
  split
  · rfl
  · split
    · rfl
    · dsimp only
      refine ite_leaves ?_ rfl
      split <;> simp

@[simp] theorem State.dmaDones_intake (ctx : Nat) (s : State) : (s.dmaDones ctx).intake b = s.intake b := by
  unfold State.dmaDones
  split
  · refine ite_leaves rfl (State.fold_intake b (fun t ix => ?_) _ _)
    split
    · exact ite_leaves (by simp) rfl
    · rfl
  · rfl

@[simp] theorem State.pushOne_intake (id : ChainId) (s : State) (d : Deliver) : (s.pushOne id d).intake b = s.intake b := by
  unfold State.pushOne
  split
  · rfl
  · split
    · rfl
    · extract_lets keep what p cut opened moved
      have hmoved : moved.intake b = s.intake b := by
        refine State.fold_intake b (fun t q => ?_) _ _
        exact ite_leaves (by simp) (by cases id <;> simp)
      exact ite_leaves (ite_leaves (by simp [hmoved]) hmoved) hmoved

@[simp] theorem State.pullOne_intake (id : ChainId) (s : State) (d : Deliver) : (s.pullOne id d).intake b = s.intake b := by
  unfold State.pullOne
  split
  · rfl
  · split
    · rfl
    · extract_lets keep p cut opened asked
      have hasked : asked.intake b = s.intake b :=
        State.fold_intake b (fun t q => State.fold_intake b (fun u z => by simp) _ _) _ _
      exact ite_leaves (ite_leaves (by simp [hasked]) hasked) hasked

@[simp] theorem State.pump_intake (id : ChainId) (s : State) : (s.pump id).intake b = s.intake b := by
  unfold State.pump
  split
  · rfl
  · refine ite_leaves rfl ?_
    extract_lets src moved beyond walked
    have hmoved : moved.intake b = s.intake b := by
      refine State.fold_intake b (fun t d => ?_) _ _
      cases src
      · exact State.pushOne_intake b id t d
      · exact State.pullOne_intake b id t d
    have hwalked : walked.intake b = s.intake b := by simp [walked, hmoved]
    cases id <;> simp [hwalked]

@[simp] theorem State.want_intake (id : ChainId) (ix cw off len : Nat) (s : State) :
    (s.want id ix cw off len).intake b = s.intake b := by simp [State.want]

@[simp] theorem State.rawRefill_intake (ix : Nat) (s : State) : (s.rawRefill ix).intake b = s.intake b := by
  unfold State.rawRefill
  split
  · rfl
  · split
    · exact ite_leaves rfl (ite_leaves (by simp) rfl)
    · rfl

/-! ### Frames to send -/

theorem Link.intake_of_nextHello {l m : Link} {f : RFrame} {n : Bool} (h : l.nextHello = some (f, n, m)) :
    m.intake = l.intake := by
  obtain ⟨q, -, hq⟩ := Option.map_eq_some_iff.1 h
  cases hq
  rfl

theorem Link.intake_of_nextFrame {l m : Link} {f : RFrame} {n : Bool} (h : l.nextFrame = some (f, n, m)) :
    m.intake = l.intake := by
  unfold Link.nextFrame at h
  split at h
  case h_1 x hx => exact Link.intake_of_nextHello (hx.trans h)
  case h_2 =>
    repeat' split at h
    all_goals cases h
    all_goals rfl

@[simp] theorem State.sendOn_intake (ch : Nat) (f : RFrame) (isNew : Bool) (s : State) :
    (s.sendOn b ch f isNew).intake b = s.intake b := by
  unfold State.sendOn
  split
  · rfl
  · exact State.onLink_intake b fun _ _ => rfl

theorem State.fillOne_intake (s : State) (ch : Nat) : (s.fillOne b ch).intake b = s.intake b := by
  unfold State.fillOne
  split
  · rfl
  case h_2 l hl =>
    refine ite_leaves rfl ?_
    split
    · exact (State.sendOn_intake ..).trans (State.onLink_intake b fun _ _ => rfl)
    · split
      case h_1 hnext =>
        refine (State.sendOn_intake ..).trans (State.onLink_intake b fun m hm => ?_)
        rw [hl] at hm
        cases hm
        exact Link.intake_of_nextFrame hnext
      · rfl

@[simp] theorem State.fillChannels_intake (s : State) : (s.fillChannels b).intake b = s.intake b := by
  unfold State.fillChannels
  split
  · rfl
  · exact ite_leaves (State.fold_intake b (State.fillOne_intake b) _ _) rfl

@[simp] theorem State.queueFrame_intake (f : RFrame) (s : State) : (s.queueFrame b f).intake b = s.intake b :=
  (State.fillChannels_intake b _).trans (State.onLink_intake b fun _ _ => rfl)

@[simp] theorem State.replayFrames_intake (s : State) : (s.replayFrames b).intake b = s.intake b := by
  unfold State.replayFrames
  split
  · rfl
  · exact (State.fillChannels_intake b _).trans
      ((State.onRly_intake b rfl).trans (State.onLink_intake b fun _ _ => rfl))

@[simp] theorem State.sendCommand_intake (ix : Nat) (s : State) : (s.sendCommand b ix).intake b = s.intake b := by
  unfold State.sendCommand
  split
  · rfl
  · split
    · rfl
    · exact (State.queueFrame_intake ..).trans (State.onLink_intake b fun _ _ => rfl)

theorem State.sendPage_intake (ix : Nat) (u : LUnit) (l : Link) (s : State) :
    (s.sendPage b ix u l).intake b = s.intake b := by
  unfold State.sendPage
  refine ite_leaves ((State.fold_intake b (fun t f => State.queueFrame_intake b f t) _ _).trans ?_) rfl
  exact State.onLink_intake b fun _ _ => rfl

theorem State.sendPackets_intake (ix : Nat) (u : LUnit) (c : Cmd) (s : State) :
    (s.sendPackets b ix u c).intake b = s.intake b := by
  unfold State.sendPackets
  refine ite_leaves rfl (State.fold_intake b (fun t _ => ?_) _ _)
  split
  · refine ite_leaves ?_ rfl
    split
    · exact (State.queueFrame_intake ..).trans (State.onLink_intake b fun _ _ => rfl)
    · rfl
  · rfl

theorem State.sendData_intake (ix : Nat) (s : State) : (s.sendData b ix).intake b = s.intake b := by
  unfold State.sendData
  split
  · refine ite_leaves rfl ?_
    split
    · exact ite_leaves (ite_leaves (State.sendPackets_intake ..) rfl) (State.sendPage_intake ..)
    · rfl
  · rfl

@[simp] theorem State.relayPump_intake (s : State) : (s.relayPump b).intake b = s.intake b := by
  unfold State.relayPump
  split
  · rfl
  · extract_lets pruned commanded sent
    have hcommanded : commanded.intake b = s.intake b := by
      refine (State.fold_intake b (fun t ix => ?_) _ _).trans (State.onLink_intake b fun _ _ => rfl)
      split
      · split
        · exact ite_leaves (State.sendCommand_intake ..) rfl
        · rfl
      · rfl
    have hsent : sent.intake b = s.intake b :=
      (State.fold_intake b (fun _ _ => State.sendData_intake ..) _ _).trans hcommanded
    exact (State.fillChannels_intake b sent).trans hsent

/-! ### Acknowledges -/

theorem State.packetAcked_intake (ix : Nat) (u : LUnit) (c : Cmd) (s : State) :
    (s.packetAcked ix u c).intake b = s.intake b := by
  unfold State.packetAcked
  split <;> simp

theorem Link.intake_grantCmds (l : Link) : l.grantCmds.intake = l.intake := by
  unfold Link.grantCmds
  split <;> rfl

theorem State.ackedFrame_intake (target : Bool) (s : State) (f : RFrame) :
    (s.ackedFrame b target f).intake b = s.intake b := by
  unfold State.ackedFrame
  split
  case isTrue =>
    refine ite_leaves ?_ (ite_leaves ?_ rfl)
    · split
      · exact State.dmaLess_intake ..
      · rfl
    · split
      · refine (State.onLink_intake b fun l _ => ?_).trans rfl
        exact Link.intake_grantCmds _
      · rfl
  case isFalse =>
    split
    · refine ite_leaves ?_ rfl
      split
      · extract_lets acked
        have hacked : acked.intake b = s.intake b := ite_leaves (State.packetAcked_intake ..) rfl
        exact ite_leaves hacked (ite_leaves hacked hacked)
      · rfl
    · rfl

theorem State.ackUpTo_intake (a : BitVec 12) (s : State) : (s.ackUpTo b a).intake b = s.intake b := by
  unfold State.ackUpTo
  split
  · rfl
  · split
    · rfl
    · exact (State.fold_intake b (fun _ _ => State.ackedFrame_intake ..) _ _).trans
        (State.onLink_intake b fun _ _ => rfl)

/-! ### A good frame -/

theorem Link.works_of_up {l : Link} (h : l.st = .up) : l.works = true := by
  simp [Link.works, h]

/-- A link that works before and after a frame's credits, acknowledge and training state is judged as before. -/
theorem Link.intake_of_works {l m : Link} (hl : l.works = true) (hm : m.works = true)
    (h : (m.target, m.host, m.tgt, m.rxSeq, m.reorder) = (l.target, l.host, l.tgt, l.rxSeq, l.reorder)) :
    m.intake = l.intake := by
  simp only [Prod.mk.injEq] at h
  simp only [Link.intake, hl, hm, h]

theorem State.rxGood_intake (ch : Nat) (f : RFrame) (s : State) : (s.rxGood b ch f).intake b = s.intake b := by
  unfold State.rxGood
  split
  · rfl
  case h_2 l hl =>
    extract_lets heard judged raws acked refilled replayed
    have hheard : heard.intake b = s.intake b := State.onLink_intake b fun _ _ => rfl
    split
    · exact hheard
    case isFalse hnot =>
      have hworks : l.works = true := by
        by_contra hno
        refine hnot ?_
        show (!l.works || _ || _) = true
        rw [eq_false_of_ne_true hno]
        rfl
      have hjudged : judged.intake b = s.intake b := by
        refine (State.onLink_intake b fun m hm => ?_).trans hheard
        obtain ⟨n, hn, hin⟩ := State.link_of_intake hheard hl
        obtain rfl : m = n := Option.some.inj (hm.symm.trans hn)
        have hm' : m.works = true := (Link.works_of_intake hin).trans hworks
        dsimp only
        split
        · refine Link.intake_of_works hm' ?_ rfl
          by_cases htrain : f.typ = 7
          · rw [if_pos htrain]; exact hm'
          · rw [if_neg htrain]; rfl
        · split
          · exact ite_leaves (Link.intake_of_works hm' rfl rfl) rfl
          · rfl
      have hacked : acked.intake b = s.intake b := (State.ackUpTo_intake ..).trans hjudged
      have hrefilled : refilled.intake b = s.intake b :=
        (State.fold_intake b (fun _ _ => State.rawRefill_intake ..) _ _).trans hacked
      have hreplayed : replayed.intake b = s.intake b := ite_leaves ((State.replayFrames_intake ..).trans hrefilled) hrefilled
      exact (State.relayPump_intake b replayed).trans hreplayed

end

/-! ## Stale frames of a relay (R319, R350, R354) -/

/-- An entry keeps its GEN where no entry is taken or freed (R318). -/
theorem State.unit_of_entries {s t : State} {ix : Nat} {u : LUnit} (h : t.entries = s.entries) (hu : s.unit? ix = some u) :
    ∃ v, t.unit? ix = some v ∧ v.gen = u.gen := by
  have hids : (t.unit? ix).map LUnit.ident = (s.unit? ix).map LUnit.ident := by
    rw [State.unit?, State.unit?, ← SMap.get?_mapVal, ← SMap.get?_mapVal]
    exact congrArg (SMap.get? · ix) (congrArg Entries.units h)
  rw [hu] at hids
  obtain ⟨v, hv, hident⟩ := Option.map_eq_some_iff.1 hids
  exact ⟨v, hv, congrArg Prod.fst hident⟩

theorem State.upstreamData_stale {s : State} {f : RFrame} {u : LUnit} (hu : s.unit? f.entry = some u)
    (hgen : u.gen ≠ f.gen) : s.upstreamData f = s.stale := by
  simp [State.upstreamData, hu, hgen]

theorem State.upstreamDone_stale {s : State} {f : RFrame} {u : LUnit} (hu : s.unit? f.entry = some u)
    (hgen : u.gen ≠ f.gen) : s.upstreamDone f = s.stale := by
  simp [State.upstreamDone, hu, hgen]

/-- The link has taken one sequenced frame, and its acknowledge is due (R350). -/
def Link.took (l : Link) : Link := { l with rxSeq := l.rxSeq + 1, creditDue := true }

/-- A stale DATA or COMPLETION frame takes its SEQ at a host end, and no more. -/
theorem State.takeFrame_stale {b : Nat} {s : State} {l : Link} {f : RFrame} {u : LUnit} (hl : s.link? b = some l)
    (htarget : l.target = false) (htyp : f.typ = 2 ∨ f.typ = 3) (hu : s.unit? f.entry = some u) (hgen : u.gen ≠ f.gen)
    (held : Option Nat) (ixs : List Nat) : s.takeFrame b f held ixs = (s.onLink b Link.took).stale := by
  have htook : (s.onLink b Link.took).link? b = some l.took := State.link?_onLink_of_some hl _
  have hrole : l.took.target = false := htarget
  have hu' : (s.onLink b Link.took).unit? f.entry = some u := hu
  unfold State.takeFrame
  dsimp only
  split
  case h_1 hnone => cases htook.symm.trans hnone
  case h_2 m hm =>
    obtain rfl : l.took = m := Option.some.inj (htook.symm.trans hm)
    rw [if_neg (by simp [hrole])]
    rcases htyp with htyp | htyp
    · rw [if_pos htyp]
      exact State.upstreamData_stale hu' hgen
    · rw [if_neg (by simp [htyp]), if_pos htyp]
      exact State.upstreamDone_stale hu' hgen

theorem State.drainReorder_of_empty {b : Nat} {s : State} {l : Link} (hl : s.link? b = some l) (hr : l.reorder = []) :
    (n : Nat) → s.drainReorder b n = s
  | 0 => rfl
  | n + 1 => by simp [State.drainReorder, hl, hr, takeFirst]

/-- The reorder store keeps no frame of a SEQ. -/
def Link.without (seq : BitVec 12) (l : Link) : Link := { l with reorder := l.reorder.filter (fun q => q.1.seq != seq) }

/-- A sequenced frame of the session that is next in SEQ order is taken; the frames that waited for it follow, and the channels go on. -/
theorem State.rxSequenced_next {b ch : Nat} {s : State} {m : Link} {f : RFrame}
    (hm : (s.rxGood b ch f).link? b = some m) (hworks : m.works = true) (hsession : m.session f) (hseq : f.seq = m.rxSeq)
    (ixs : List Nat) : s.rxSequenced b ch f ixs =
      ((((s.rxGood b ch f).onLink b (Link.without f.seq)).takeFrame b f none ixs).drainReorder b 64).fillChannels b := by
  have hserved : ¬(!m.works || decide (f.bootHost ≠ m.host) || decide (f.bootTarget ≠ m.tgt)) = true := by
    simp [hworks, hsession.1, hsession.2]
  have hnext : (f.seq - m.rxSeq).toNat = 0 := by simp [hseq]
  unfold State.rxSequenced
  dsimp only
  split
  case h_1 hnone => cases hm.symm.trans hnone
  case h_2 k hk =>
    obtain rfl : m = k := Option.some.inj (hm.symm.trans hk)
    exact (if_neg hserved).trans (if_pos hnext)

/-- The state behind a stale frame: what a good frame brings is taken and the SEQ counted, the event is discarded, and the link's
channels go on. -/
def State.staleFrame (b ch : Nat) (f : RFrame) (s : State) : State :=
  ((((s.rxGood b ch f).onLink b (Link.without f.seq)).onLink b Link.took).stale).fillChannels b

theorem State.rxSequenced_stale {b ch : Nat} {s : State} {l : Link} {f : RFrame} {u : LUnit} (hl : s.link? b = some l)
    (htarget : l.target = false) (hup : l.st = .up) (hsession : l.session f) (hseq : f.seq = l.rxSeq)
    (hreorder : l.reorder = []) (htyp : f.typ = 2 ∨ f.typ = 3) (hu : s.unit? f.entry = some u) (hgen : u.gen ≠ f.gen)
    (ixs : List Nat) : s.rxSequenced b ch f ixs = s.staleFrame b ch f := by
  obtain ⟨m, hm, hin⟩ := State.link_of_intake (State.rxGood_intake b ch f s) hl
  simp only [Link.intake, Prod.mk.injEq] at hin
  obtain ⟨mtarget, mworks, mhost, mtgt, mseq, mreorder⟩ := hin
  obtain ⟨v, hv, hvgen⟩ := State.unit_of_entries (State.rxGood_ids b ch f s) hu
  have hcleared := State.link?_onLink_of_some hm (Link.without f.seq)
  have htook : (((s.rxGood b ch f).onLink b (Link.without f.seq)).onLink b Link.took).stale.link? b =
      some (m.without f.seq).took := State.link?_onLink_of_some hcleared _
  have hempty : (m.without f.seq).took.reorder = [] := by simp [Link.took, Link.without, mreorder, hreorder]
  have msession : m.session f := ⟨hsession.1.trans mhost.symm, hsession.2.trans mtgt.symm⟩
  rw [State.rxSequenced_next hm (mworks.trans (Link.works_of_up hup)) msession (hseq.trans mseq.symm),
    State.takeFrame_stale hcleared (mtarget.trans htarget) htyp hv (hvgen ▸ hgen), State.drainReorder_of_empty htook hempty,
    State.staleFrame]

theorem State.staleCnt_staleFrame (b ch : Nat) (f : RFrame) (s : State) :
    (s.staleFrame b ch f).ldg.staleCnt = s.ldg.staleCnt + 1 :=
  calc (s.staleFrame b ch f).ldg.staleCnt
    _ = (s.rxGood b ch f).ldg.staleCnt + 1 := State.staleCnt_of_intake (State.fillChannels_intake b _)
    _ = s.ldg.staleCnt + 1 := congrArg (· + 1) (State.staleCnt_of_intake (State.rxGood_intake b ch f s))

theorem State.entries_staleFrame (b ch : Nat) (f : RFrame) (s : State) : (s.staleFrame b ch f).entries = s.entries := by
  simp [State.staleFrame]

theorem State.ackUpTo_of_none {b : Nat} {s : State} {l : Link} (hl : s.link? b = some l) (h : l.unacked = []) (a : BitVec 12) :
    s.ackUpTo b a = s := by
  simp [State.ackUpTo, hl, h]

/-- With no frame to acknowledge and no RAW to fill again, a good frame at a host end touches the ledger and the links alone
(blocks 7 and 17, the mask 0x20080). -/
theorem State.rxGood_outside_of_idle {b ch : Nat} {s : State} {l : Link} {f : RFrame} (hl : s.link? b = some l)
    (hacks : l.unacked = []) (hraw : ∀ e ∈ s.ldg.units, e.2.bundle = some b → e.2.kind ≠ .raw) :
    (s.rxGood b ch f).outside 0x20080 = s.outside 0x20080 := by
  unfold State.rxGood
  split
  · rfl
  case h_2 k hk =>
    obtain rfl : l = k := Option.some.inj (hl.symm.trans hk)
    extract_lets heard judged raws acked refilled replayed
    refine ite_leaves rfl ?_
    have hraws : raws = [] := by
      have hnone : s.ldg.units.filter (fun e => e.2.bundle == some b && e.2.kind == .raw) = [] :=
        List.filter_eq_nil_iff.2 fun e he => by simpa using hraw e he
      exact ite_leaves (w := id) rfl hnone
    have hacked : acked = judged := by
      refine State.ackUpTo_of_none (State.link?_onLink_of_some (State.link?_onLink_of_some hl _) _) ?_ _
      dsimp only
      repeat' split
      all_goals exact hacks
    have hrefilled : refilled.outside 0x20080 = s.outside 0x20080 := by
      simp only [refilled, hraws, hacked]
      rfl
    have hreplayed : replayed.outside 0x20080 = s.outside 0x20080 :=
      ite_leaves ((State.replayFrames_frame _ _ rfl).trans hrefilled) hrefilled
    exact (State.relayPump_frame _ _ rfl).trans hreplayed

theorem State.staleFrame_outside {b ch : Nat} {s : State} {f : RFrame}
    (h : (s.rxGood b ch f).outside 0x20080 = s.outside 0x20080) : (s.staleFrame b ch f).outside 0x20080 = s.outside 0x20080 :=
  calc (s.staleFrame b ch f).outside 0x20080
    _ = ((((s.rxGood b ch f).onLink b (Link.without f.seq)).onLink b Link.took).stale).outside 0x20080 :=
      State.fillChannels_frame _ _ rfl
    _ = (s.rxGood b ch f).outside 0x20080 := by simp (disch := decide)
    _ = s.outside 0x20080 := h

theorem State.pool_of_outside {s t : State} (h : t.outside 0x20080 = s.outside 0x20080) : t.pool = s.pool := by
  simpa [State.outside, Nat.testBit] using congrArg State.pool h

theorem State.noneStarved_of_che {s t : State} (h : t.che = s.che) (hs : s.noneStarved) : t.noneStarved := by
  intro l g hg
  refine hs l g ?_
  rwa [State.grantOf, State.chan_congr h] at hg

theorem State.resumeStarved_of_noneStarved {s : State} (h : s.noneStarved) (l : Nat) : s.resumeStarved l = some s := by
  unfold State.resumeStarved
  split
  case h_1 g hg => exact if_neg (h l g hg)
  case h_2 => rfl

theorem State.resumeAll_of_noneStarved {s : State} (h : s.noneStarved) : s.resumeAll = some s :=
  List.foldl_fixed' (fun l => State.resumeStarved_of_noneStarved h l) _

theorem thenResume_of_noneStarved {s : State} (h : s.noneStarved) : thenResume (.next s) = .next s := by
  show (if s.live then runRes s.resumeAll else .next s) = _
  rw [State.resumeAll_of_noneStarved h]
  exact ite_self _

theorem State.BundleAt.link {s : State} {ch b : Nat} {l : Link} (h : s.BundleAt ch b l) : s.link? b = some l := h.2.2.1

theorem relayRx_eq {ch b typ : Nat} {s : State} {l : Link} {f : RFrame} {go : Nat → Link → State → State}
    (hb : s.BundleAt ch b l) (htyp : f.typ = typ) : relayRx ch typ f go s = .next (go b l s) := by
  obtain ⟨hlive, hbundle, hl, hfence⟩ := hb
  simp only [relayRx, hbundle, hl]
  rw [onlyIf_true (by simp [hlive, hfence]), if_pos htyp]

theorem relayDataFrame_eq {ch b : Nat} {s : State} {l : Link} {f : RFrame} (hb : s.BundleAt ch b l) (htyp : f.typ = 2) :
    exec (.relayDataFrame ch f) s = thenResume (.next (s.rxSequenced b ch f [])) :=
  congrArg thenResume (relayRx_eq hb htyp)

theorem relayCompletionFrame_eq {ch b : Nat} {s : State} {l : Link} {f : RFrame} (hb : s.BundleAt ch b l) (htyp : f.typ = 3)
    (htarget : l.target = false) : exec (.relayCompletionFrame ch f) s = .next (s.rxSequenced b ch f []) := by
  refine (relayRx_eq hb htyp).trans ?_
  simp [htarget]

theorem relayDataFrame_stale {ch b : Nat} {s : State} {l : Link} {f : RFrame} {u : LUnit} (hb : s.BundleAt ch b l)
    (hstarved : s.noneStarved) (htyp : f.typ = 2) (htarget : l.target = false) (hup : l.st = .up) (hsession : l.session f)
    (hseq : f.seq = l.rxSeq) (hreorder : l.reorder = [])
    (hidle : (s.rxGood b ch f).outside 0x20080 = s.outside 0x20080) (hu : s.unit? f.entry = some u) (hgen : u.gen ≠ f.gen) :
    exec (.relayDataFrame ch f) s = .next (s.staleFrame b ch f) := by
  have hche := State.che_of_outside rfl (State.staleFrame_outside hidle)
  rw [relayDataFrame_eq hb htyp, State.rxSequenced_stale hb.link htarget hup hsession hseq hreorder (Or.inl htyp) hu hgen,
    thenResume_of_noneStarved (State.noneStarved_of_che hche hstarved)]

theorem relayCompletionFrame_stale {ch b : Nat} {s : State} {l : Link} {f : RFrame} {u : LUnit} (hb : s.BundleAt ch b l)
    (htyp : f.typ = 3) (htarget : l.target = false) (hup : l.st = .up) (hsession : l.session f) (hseq : f.seq = l.rxSeq)
    (hreorder : l.reorder = []) (hu : s.unit? f.entry = some u) (hgen : u.gen ≠ f.gen) :
    exec (.relayCompletionFrame ch f) s = .next (s.staleFrame b ch f) := by
  rw [relayCompletionFrame_eq hb htyp htarget,
    State.rxSequenced_stale hb.link htarget hup hsession hseq hreorder (Or.inr htyp) hu hgen]

/-- Settles O15: each row compares the GEN of its event before anything of the entry changes; a relay frame first takes what every
good frame brings, which keeps the count of stale events and every entry. -/
theorem staleEventsDiscarded : Obligations.StaleEventsDiscarded := by
  refine ⟨fun s ix u gen hgo hu hgen => ⟨_, urgencyPromotion_stale hgo hu hgen, rfl⟩,
    fun s ix gen hgo hu hgen => ⟨_, urgencyPromotion_stale_of_free hgo hu hgen, rfl⟩,
    fun s ix u gen hlive hu hgen => ⟨_, predicateDecision_stale hlive hu hgen, rfl⟩,
    fun s ix gen hlive hu hgen => ⟨_, predicateDecision_stale_of_free hlive hu hgen, rfl⟩,
    fun s ch bytes short e u hp hu hgen => ?_,
    fun s lane i cfg llr u hlive hbusy hsoft hcw hu hgen => ?_,
    fun s lane i cfg llr u hlive hbusy hsoft hu hgen => ?_,
    fun s lane i cfg llr u hlive hbusy hcw hu hgen => ?_,
    fun s ch b l f u hb hstarved htyp htarget hup hsession hseq hreorder hacks hraw hu hgen => ?_,
    fun s ch b l f u hb htyp htarget hup hsession hseq hreorder hu hgen => ?_⟩
  · obtain ⟨q, hq⟩ := packetComplete_stale (bytes := bytes) (short := short) hp hu hgen
    exact ⟨_, hq, rfl, rfl, rfl⟩
  · exact ⟨_, hardDecodeEnd_eq hlive hbusy hsoft hcw, State.hardEnd_stale hu hgen .. ▸ State.freeLane_stale_effect s lane⟩
  · exact ⟨_, softDecodeEnd_eq hlive hbusy hsoft, State.softEnd_stale hu hgen .. ▸ State.freeLane_stale_effect s _⟩
  · exact ⟨_, sherdDecodeEnd_eq hlive hbusy hcw, State.sherdEnd_stale hu hgen .. ▸ State.freeLane_stale_effect s _⟩
  · have hidle := State.rxGood_outside_of_idle (ch := ch) (f := f) hb.link hacks hraw
    exact ⟨_, relayDataFrame_stale hb hstarved htyp htarget hup hsession hseq hreorder hidle hu hgen,
      State.staleCnt_staleFrame .., State.entries_staleFrame ..,
      congrArg Pool.pecks (State.pool_of_outside (State.staleFrame_outside hidle))⟩
  · exact ⟨_, relayCompletionFrame_stale hb htyp htarget hup hsession hseq hreorder hu hgen,
      State.staleCnt_staleFrame .., State.entries_staleFrame ..⟩

end Sys2Proof.Machine
